-- ==== Sys2Proof/Word.lean ====
section
/-! DEFINITION. The words of the machine and their plainest arithmetic: bytes, 32-bit and 64-bit words, the 128-bit
mask and levee words, and the sparse table that holds every numbered collection of the state. -/

namespace Sys2Proof

/-- One byte. -/
abbrev Byte := BitVec 8
/-- One 32-bit lane word of a V register (02 R43). -/
abbrev Lane := BitVec 32
/-- A 64-bit scalar register, address or information value. -/
abbrev Word := BitVec 64
/-- A mask register (02 R33), and the 128-bit values of .x128 elements, weir images and levees. -/
abbrev Wide := BitVec 128

/-- A sparse table: pairs of key and value, keys strictly rising. -/
abbrev Tbl (α : Type) := List (Nat × α)

/-- The value listed at key `k`. -/
def Tbl.find? {α : Type} : Tbl α → Nat → Option α
  | [], _ => none
  | (j, v) :: t, k => if j = k then some v else if k < j then none else Tbl.find? t k

/-- The value listed at key `k`, or `d` where nothing is listed. -/
def Tbl.getD {α : Type} (t : Tbl α) (k : Nat) (d : α) : α := (t.find? k).getD d

/-- The table with `v` at key `k`. -/
def Tbl.put {α : Type} : Tbl α → Nat → α → Tbl α
  | [], k, v => [(k, v)]
  | (j, w) :: t, k, v =>
    if j = k then (k, v) :: t else if k < j then (k, v) :: (j, w) :: t else (j, w) :: Tbl.put t k v

/-- The table with nothing listed at key `k`. -/
def Tbl.del {α : Type} : Tbl α → Nat → Tbl α
  | [], _ => []
  | (j, w) :: t, k => if j = k then t else if k < j then (j, w) :: t else (j, w) :: Tbl.del t k

/-- The table with `v` at key `k`, keeping nothing where `v` is the value `d` of an unlisted key. -/
def Tbl.set {α : Type} [DecidableEq α] (t : Tbl α) (k : Nat) (v d : α) : Tbl α :=
  if v = d then t.del k else t.put k v

/-- The keys of a table, in rising order. -/
def Tbl.keys {α : Type} (t : Tbl α) : List Nat := t.map (·.1)

/-- The table whose listed values are changed by `f`. -/
def Tbl.mapVal {α : Type} (t : Tbl α) (f : Nat → α → α) : Tbl α := t.map fun p => (p.1, f p.1 p.2)

/-- Keys rise strictly. -/
def Tbl.sorted {α : Type} : Tbl α → Bool
  | [] => true
  | [_] => true
  | (j, _) :: (k, w) :: t => decide (j < k) && Tbl.sorted ((k, w) :: t)

/-- `n` counted up to `k` values: the list of `f 0` to `f (n - 1)`. -/
def tabulate {α : Type} (n : Nat) (f : Nat → α) : List α := (List.range n).map f

/-- The bit of a Bool. -/
def bit (b : Bool) : Nat := if b then 1 else 0

/-- The number of one bits of `x` among bits 0 to `n - 1`. -/
def popBelow (x : Nat) : Nat → Nat
  | 0 => 0
  | n + 1 => (if x.testBit n then 1 else 0) + popBelow x n

/-- The lowest set bit of `x` among the `n` bits from bit `k` up. -/
def lowestFrom (x k : Nat) : Nat → Option Nat
  | 0 => none
  | n + 1 => if x.testBit k then some k else lowestFrom x (k + 1) n

/-- Ceiling division. -/
def ceilDiv (a b : Nat) : Nat := (a + b - 1) / b

/-- The greatest multiple of `k` not above `a`. -/
def alignDown (a k : Nat) : Nat := a / k * k

end Sys2Proof
end

