-- ==== Sys2Proof/Config.lean ====
section
/-! DEFINITION. What one SX9 fixes, and the free values: opaque constants of which nothing can be proved. -/

namespace Sys2Proof.Config

/-- Free value: which of the .f32 results within 1 ulp a transcendental instruction gives for an input (03 R79,
R80): a fixed function of the operation, the input bits and FTZ. -/
opaque ulpChoice (op bits : Nat) (ftz : Bool) : Nat

/-- Free value: which of the failing operands of an instruction a REGBOUND or INVREG trap reports, by the information
value of each (08 R206). -/
opaque failingPick (infos : List Word) : Nat

/-- Free value: whether a scratchpad byte keeps what an earlier workgroup left in it, at workgroup start (04 R82). -/
opaque spadKeeps (n off : Nat) : Bool

/-- Free value: the place of contribution `i` in the order in which the contributions reach one element, where the
order decides its SAT flag (03 R72). -/
opaque ancOrder (n i : Nat) : Nat

/-- Free value: which of `k` free physical tiles MXINIT takes (06 R159). -/
opaque tilePick (n k : Nat) : Nat

/-- Free value: an element or scale of a bank after a failed load (06 R167). -/
opaque bankJunk (n i : Nat) : Nat

/-- Whether the first try of a matrix command to read sectors takes sector `k` too (06 R166). -/
opaque takesSector (n k : Nat) : Bool

/-- Free value: whether a cached translation is used while an invalidation has not completed (18 R427). -/
opaque tlbOld (n : Nat) : Bool

/-- Free value: the entry of an inconsistent CONTIG group by which an access is translated (18 R420). -/
opaque contigPick (n : Nat) : Nat

/-- Free value: whether a fetch returns the word that a die's fetch lines still hold, before DICINV completes
(22 R485). -/
opaque fetchStale (n : Nat) : Bool

/-- Free value: how many of the newest writes that a reader need not see its read goes past (04 R97). -/
opaque staleBy (n : Nat) : Nat

/-- Free value: whether a private line that L1 holds is written back (02 R47). -/
opaque writesBack (n : Nat) : Bool

/-- Free value: which core of a cluster a fill of its caches serves (18 R428). -/
opaque fillCore (n : Nat) : Nat

/-- Free value: whether a V register above LIVEV comes back invalid after a save or halt (08 R209). -/
opaque liveDrop (n v : Nat) : Bool

/-- Free value: whether a write of a killed or severed agent that was not yet performed is present (04 R108, R113). -/
opaque lostWrite (n : Nat) : Bool

/-- Free value: whether an access to a counted write-back page reaches the home (18 R432). -/
opaque fills (n : Nat) : Bool

/-- Free value: a counter of a service core, cycles or instructions, at a read of it. -/
opaque scCounter (n : Nat) : Word

/-- What identifies a service core to RISC-V software: mvendorid, marchid and mimpid, by CSR number. -/
opaque scIdent (csr : Nat) : Word

/-- Free value: lanes that a retraining Nalron port keeps (19 R443, R444). -/
opaque lanesLeft (n : Nat) : Nat

/-- Free value: whether a stack fails its verification pattern twice at a reset (23 R491). -/
opaque stackFails (n : Nat) : Bool

/-- Free value: the digests of the boot stages measured after a reset (23 R495). -/
opaque bootDigests (n : Nat) : List (List Byte)

/-- Free value: what the firmware staging region holds when VERIFY is written (23 R493). -/
opaque stagedImage (n : Nat) : List Byte

/-- Free value: what a configuration read returns, none for an absent function (20 R457). -/
opaque configAnswer (n : Nat) : Option Nat

/-- Free value: whether an image's signature under a scheme verifies: 0 RSA-3072, 1 SLH-DSA (23 R492). -/
opaque signatureOk (scheme image : Nat) : Bool

/-- Free value: the signature of an attestation quote over a message, by scheme (23 R495). -/
opaque quoteSignature (scheme message : Nat) : Nat

/-- Free value: whether spare rows last for the repair of a retired frame (21 R479, R480). -/
opaque sparesLast (n frame : Nat) : Bool

/-- Free value: a byte of a frame after its repair (21 R479). -/
opaque repairedByte (n a : Nat) : Byte

/-- Free value: ADDR of the error of a refused WARR.far (13 R331 gives it for other engines only). -/
opaque farAddr (handle : Nat) : Nat

/-- Free value: a byte of the save area whose layout 17 R413 does not give. -/
opaque savedByte (n i : Nat) : Nat

/-- Free value: what a device behind a BAR returns to a service core's load. -/
opaque deviceRead (n : Nat) : Nat

/-- Free value: the next value of the 16-bit generator of a core's sampling (22 R486). -/
opaque sampleNext (gen : BitVec 16) : BitVec 16

end Sys2Proof.Config
end

