-- ==== Sys2Proof/Operand.lean ====
section
/-! DEFINITION. The operand fields of Ferja instruction words as typed data (08 R195 to R203), and the operand
shapes that the constructors of Instr carry. -/

namespace Sys2Proof

/-- The TYPE codes of R201. -/
inductive Ty where
  | i8 | i16 | i32 | i64 | i4 | n8 | n16 | n32 | n64 | n4
  | f64 | f32 | f16 | bf16 | e4m3 | e5m2 | e3m2 | e2m3 | e2m1 | e8m0 | x128
  deriving DecidableEq, Repr

/-- The condition codes 0 to 14 of R203. -/
inductive Cond where
  | eq | ne | hs | lo | mi | pl | vs | vc | hi | ls | ge | lt | gt | le | always
  deriving DecidableEq, Repr

/-- The rounding modes of R61. -/
inductive Rnd where
  | rne | rtz | rup | rdn | rsr
  deriving DecidableEq, Repr

/-- The WIDTH codes 0 to 10 of R202. -/
inductive Width where
  | n8 | i8 | n16 | i16 | n32 | i32 | n64 | i64 | f32 | x128 | f64
  deriving DecidableEq, Repr

/-- The SCOPE values of R202: workgroup, cluster, die, package, hop tier 1 to 11, system. -/
inductive Scope where
  | wg | cl | di | pk | h1 | h2 | h3 | h4 | h5 | h6 | h7 | h8 | h9 | h10 | h11 | sys
  deriving DecidableEq, Repr

/-- The ORD values of R202. -/
inductive Ord where
  | rlx | acq | rel | ar
  deriving DecidableEq, Repr

/-- The counters that WAITOC names (12 R317). -/
inductive Ctr where
  | ocm | ocf | ocg | occ | oca | oci
  deriving DecidableEq, Repr

/-- The special registers of R258, in selector order. -/
inductive SReg where
  | wid | wf0 | wf1 | wf2 | wf3 | wf4 | wf5 | lane | fwidth | gang | core | clus | die | chip | clk | partw
  | ucause | upc | uinfo | fmode | lkst0 | lkst1 | lkst2 | lkst3 | flags | lsdepth | ocnt | fbatch
  deriving DecidableEq, Repr

/-- The matrix operand formats of 06 R151. -/
inductive MxFmt where
  | i8 | i4 | e4m3 | e5m2 | e3m2 | e2m3 | e2m1 | bf16 | f16
  deriving DecidableEq, Repr

/-- The operators of ATL, ATG and REDG (08 R215). -/
inductive AtomOpr where
  | ld | st | xchg | cas | add | and | or | xor | min | max | fadd | fmin | fmax
  deriving DecidableEq, Repr

/-- The operator tags of accrue updates (07 R170). -/
inductive AcrTag where
  | iadd32 | iadd64 | fadd32 | xadd | fmin32 | fmax32 | imins | iminu | imaxs | imaxu | or | and | xor
  deriving DecidableEq, Repr

/-- A branch offset: OFF20 of R196, or the IMM58 that replaces it (R199). -/
inductive Off where
  | short (o : BitVec 20)
  | long (o : BitVec 58)
  deriving DecidableEq, Repr

/-- The count and exit offset of LOOP (10 R242): imm8 or IMM58 with OFF20, or a register with either offset. -/
inductive LoopCount where
  | imm (n : BitVec 8) (o : BitVec 20)
  | long (n : BitVec 58) (o : BitVec 20)
  | reg (c : BitVec 6) (o : Off)
  deriving DecidableEq, Repr

/-- Source B of a class S form (R252): Sb, the signed imm8, or IMM58. -/
inductive SSrc where
  | reg (b : BitVec 6)
  | imm (v : BitVec 8)
  | long (v : BitVec 58)
  deriving DecidableEq, Repr

/-- Source B of a class V form (11 R264): absent, Vb, Sb, or IMM58. -/
inductive VSrc where
  | absent
  | vec (b : BitVec 8)
  | sca (b : BitVec 6)
  | long (v : BitVec 58)
  deriving DecidableEq, Repr

/-- A displacement (12 R289, R290): the signed imm8 in C, or IMM58. -/
inductive Disp where
  | imm (v : BitVec 8)
  | long (v : BitVec 58)
  deriving DecidableEq, Repr

/-- A scalar source that IMM58 may replace (13 R327: MXINIT's anchor, MXLOOP's count). -/
inductive RegOrLong where
  | reg (b : BitVec 6)
  | long (v : BitVec 58)
  deriving DecidableEq, Repr

/-- The option operand of FLCOPY (13 R333). -/
inductive FlOpt where
  | none
  | reg (b : BitVec 6)
  | long (v : BitVec 58)
  deriving DecidableEq, Repr

/-! Operand shapes. STOPI (R207) has no effect on any result and belongs to the word, not to the operands. `look` is the lookahead L (R204), `m` is MSEL (R198). -/

/-- B: condition and offset. -/
structure BOp where
  cond : Cond
  off  : Off
  deriving DecidableEq, Repr

/-- BMZ, BMNZ, BMALL, BMNALL, SPAWN: mask and offset. -/
structure BmOp where
  m    : BitVec 4
  off  : Off
  deriving DecidableEq, Repr

/-- CALL: an offset. -/
structure CallOp where
  off  : Off
  deriving DecidableEq, Repr

/-- LOOP. -/
structure LoopOp where
  count : LoopCount
  deriving DecidableEq, Repr

/-- One scalar source: BRI, CALLI, RET, UPRET. -/
structure SaOp where
  a    : BitVec 6
  deriving DecidableEq, Repr

/-- TRAP, SYSC, FLWAIT: an unsigned imm8. -/
structure ImmOp where
  n    : BitVec 8
  deriving DecidableEq, Repr

/-- LAUNCH Sd, Sa. -/
structure LaunchOp where
  d    : BitVec 6
  a    : BitVec 6
  deriving DecidableEq, Repr

/-- Scalar forms of two sources (R252). -/
structure SOp where
  d    : BitVec 6
  a    : BitVec 6
  b    : SSrc
  ty   : Ty
  sf   : Bool
  look : BitVec 4
  deriving DecidableEq, Repr

/-- Scalar forms of one source (R252, SMOV of R257). -/
structure SUn where
  d    : BitVec 6
  a    : BitVec 6
  ty   : Ty
  sf   : Bool
  look : BitVec 4
  deriving DecidableEq, Repr

/-- SLI Sd, imm (R257). -/
structure SliOp where
  d    : BitVec 6
  imm  : Disp
  ty   : Ty
  sf   : Bool
  look : BitVec 4
  deriving DecidableEq, Repr

/-- SADR Sd, label (R257). -/
structure SadrOp where
  d    : BitVec 6
  off  : BitVec 58
  look : BitVec 4
  deriving DecidableEq, Repr

/-- SGETSR Sd, sel (R257). -/
structure GetSrOp where
  d    : BitVec 6
  sel  : SReg
  look : BitVec 4
  deriving DecidableEq, Repr

/-- SSETSR sel, Sa (R257). -/
structure SetSrOp where
  sel  : SReg
  a    : BitVec 6
  deriving DecidableEq, Repr

/-- SSEL.cond Sd, Sa, Sb (R257). -/
structure SselOp where
  d    : BitVec 6
  a    : BitVec 6
  b    : RegOrLong
  cond : Cond
  ty   : Ty
  look : BitVec 4
  deriving DecidableEq, Repr

/-- SCMP, SCMN, STST (R256). -/
structure ScmpOp where
  a    : BitVec 6
  b    : SSrc
  ty   : Ty
  deriving DecidableEq, Repr

/-- KAND, KOR, KXOR, KANDN (R262). -/
structure K3Op where
  d    : BitVec 4
  a    : BitVec 4
  b    : BitVec 4
  deriving DecidableEq, Repr

/-- KNOT, KMOV (R262). -/
structure K2Op where
  d    : BitVec 4
  a    : BitVec 4
  deriving DecidableEq, Repr

/-- KPOP, KFIRST Sd, Ma (R262). -/
structure KsOp where
  d    : BitVec 6
  a    : BitVec 4
  deriving DecidableEq, Repr

/-- KFROMS Md, Sa, Sb (R262). -/
structure KfOp where
  d    : BitVec 4
  a    : BitVec 6
  b    : BitVec 6
  deriving DecidableEq, Repr

/-- KTOS Sd, Ma, imm8 (R262). -/
structure KtOp where
  d    : BitVec 6
  a    : BitVec 4
  n    : BitVec 8
  deriving DecidableEq, Repr

/-- A class V form (11 R265): the fields D, A and C as the form's row reads them, and source B of R264. -/
structure VOp where
  d    : BitVec 8
  a    : BitVec 8
  b    : VSrc
  c    : BitVec 8
  m    : BitVec 4
  ty   : Ty
  rnd  : Rnd
  sat  : Bool
  look : BitVec 4
  deriving DecidableEq, Repr

/-- VCVT (11 R277): destination type, source type in C. -/
structure CvtOp where
  d    : BitVec 8
  a    : BitVec 8
  src  : Ty
  m    : BitVec 4
  ty   : Ty
  rnd  : Rnd
  sat  : Bool
  look : BitVec 4
  deriving DecidableEq, Repr

/-- Per-lane loads and stores (12 R288): data register, offset register, base, displacement. -/
structure MemV where
  d    : BitVec 8
  a    : BitVec 8
  b    : BitVec 6
  disp : Disp
  w    : Width
  m    : BitVec 4
  look : BitVec 4
  deriving DecidableEq, Repr

/-- VLDSU, VLDGU (12 R295). -/
structure MemU where
  d    : BitVec 8
  b    : BitVec 6
  disp : Disp
  w    : Width
  m    : BitVec 4
  look : BitVec 4
  deriving DecidableEq, Repr

/-- Scalar loads and stores (12 R297). -/
structure MemS where
  d    : BitVec 6
  a    : BitVec 6
  disp : Disp
  w    : Width
  look : BitVec 4
  deriving DecidableEq, Repr

/-- ATL, ATG and REDG (12 R300). -/
structure AtomOp where
  d     : BitVec 8
  a     : BitVec 8
  b     : BitVec 6
  c     : BitVec 8
  w     : Width
  ord   : Ord
  scope : Scope
  m     : BitVec 4
  look  : BitVec 4
  deriving DecidableEq, Repr

/-- ACR (12 R307). -/
structure AcrOp where
  d     : BitVec 8
  a     : BitVec 8
  b     : BitVec 6
  scale : BitVec 8
  w     : Width
  scope : Scope
  m     : BitVec 4
  deriving DecidableEq, Repr

/-- LCK Sd, Sa, Sb (12 R310). -/
structure LckOp where
  d     : BitVec 6
  a     : BitVec 6
  b     : BitVec 6
  scope : Scope
  look  : BitVec 4
  deriving DecidableEq, Repr

/-- LCKCAN Sd, Sa (12 R310). -/
structure LckcanOp where
  d    : BitVec 6
  a    : BitVec 6
  look : BitVec 4
  deriving DecidableEq, Repr

/-- ULK Sa, and WARR.far per fibre: one scalar source and a scope (12 R310, R317). -/
structure SaScope where
  a     : BitVec 6
  scope : Scope
  deriving DecidableEq, Repr

/-- BIND.weir Sa, Sb, w (12 R312). -/
structure BindWOp where
  a    : BitVec 6
  b    : BitVec 6
  w    : BitVec 6
  deriving DecidableEq, Repr

/-- BIND.lock and BIND.sync Sa, Sb, Sc (12 R312). -/
structure BindSOp where
  a    : BitVec 6
  b    : BitVec 6
  c    : BitVec 6
  deriving DecidableEq, Repr

/-- FENCE at a scope (12 R316). -/
structure FenceOp where
  scope : Scope
  deriving DecidableEq, Repr

/-- WINIT w, Sb (12 R317). -/
structure WinitOp where
  b    : BitVec 6
  w    : BitVec 6
  deriving DecidableEq, Repr

/-- WARR Sd, w, per fibre or per lane (12 R317). -/
structure WarrOp where
  d     : BitVec 6
  w     : BitVec 6
  scope : Scope
  m     : BitVec 4
  look  : BitVec 4
  deriving DecidableEq, Repr

/-- WARR.far Sa, per fibre or per lane (12 R317). -/
structure WarrFarOp where
  a     : BitVec 6
  scope : Scope
  m     : BitVec 4
  deriving DecidableEq, Repr

/-- WWAIT Sd, Sa, Sb, w (12 R317). -/
structure WwaitOp where
  d     : BitVec 6
  a     : BitVec 6
  b     : BitVec 6
  w     : BitVec 6
  scope : Scope
  look  : BitVec 4
  deriving DecidableEq, Repr

/-- WQRY Sd, w (12 R317). -/
structure WqryOp where
  d    : BitVec 6
  w    : BitVec 6
  look : BitVec 4
  deriving DecidableEq, Repr

/-- WAITOC ctr, n (12 R317). -/
structure WaitocOp where
  ctr  : Ctr
  n    : BitVec 8
  deriving DecidableEq, Repr

/-- FLCOPY (13 R327, R333): descriptor block, option word, direction, multicast, credited weir, digest set, FINAL. -/
structure FlcopyOp where
  a     : BitVec 6
  opt   : FlOpt
  out   : Bool
  mc    : Bool
  cred  : Option (BitVec 6)
  dg    : Option (BitVec 2)
  final : Bool
  deriving DecidableEq, Repr

/-- MXLOADB and MXMUL (13 R344, R345); `t` is the tile of MXMUL and 0 for MXLOADB. -/
structure MxOp where
  t     : BitVec 3
  a     : BitVec 6
  scale : Option (BitVec 6)
  mac   : BitVec 2
  bank  : Bool
  fmt   : MxFmt
  deriving DecidableEq, Repr

/-- MXINIT Tn, anchor (13 R347). -/
structure MxinitOp where
  t      : BitVec 3
  anchor : RegOrLong
  deriving DecidableEq, Repr

/-- MXLOOP (13 R346). -/
structure MxloopOp where
  t      : BitVec 3
  a      : BitVec 6
  count  : RegOrLong
  mac    : BitVec 2
  bank   : Bool
  fmt    : MxFmt
  ascale : Bool
  deriving DecidableEq, Repr

/-- MXDRAIN Tn, Sa (13 R348). -/
structure MxdrainOp where
  t    : BitVec 3
  a    : BitVec 6
  ty   : Ty
  rnd  : Rnd
  sat  : Bool
  deriving DecidableEq, Repr

/-- MXSWAP Ta, Tb (13 R349). -/
structure MxswapOp where
  t    : BitVec 3
  u    : BitVec 3
  deriving DecidableEq, Repr

/-- MXZERO Tn (13 R349). -/
structure MxzeroOp where
  t    : BitVec 3
  deriving DecidableEq, Repr

/-- MXSTAT Sd, Tn (13 R350). -/
structure MxstatOp where
  d    : BitVec 6
  t    : BitVec 3
  look : BitVec 4
  deriving DecidableEq, Repr

/-- MCSR, MCLR Sa, w (13 R351). -/
structure McOp where
  a     : BitVec 6
  w     : BitVec 6
  ty    : Ty
  scope : Scope
  deriving DecidableEq, Repr

/-- IOLD, IOST, DBELL (13 R357); `wg` is DBELL's WG field. -/
structure IoOp where
  d    : BitVec 6
  a    : BitVec 6
  disp : Disp
  w    : Width
  wg   : Bool
  look : BitVec 4
  deriving DecidableEq, Repr

/-! Levee operands (16 R389): rd, rs1, rs2, the signed immediate, and the LV.INFO selector. -/

/-- LV.LD rd, imm(rs1). -/
structure LvLdOp where
  d   : BitVec 5
  s   : BitVec 5
  imm : BitVec 12
  deriving DecidableEq, Repr

/-- LV.ST rs2, imm(rs1). -/
structure LvStOp where
  s   : BitVec 5
  t   : BitVec 5
  imm : BitVec 12
  deriving DecidableEq, Repr

/-- A levee derivation rd, rs1, rs2. -/
structure Lv3Op where
  d : BitVec 5
  s : BitVec 5
  t : BitVec 5
  deriving DecidableEq, Repr

/-- LV.UNTAG rd, rs1. -/
structure Lv2Op where
  d : BitVec 5
  s : BitVec 5
  deriving DecidableEq, Repr

/-- LV.INFO rd, rs1, sel. -/
structure LvInfoOp where
  d   : BitVec 5
  s   : BitVec 5
  sel : BitVec 5
  deriving DecidableEq, Repr

end Sys2Proof
end

