-- ==== Sys2Proof/Events.lean ====
section
/-! DEFINITION. The event steps of the opcode table with their operands: what devices, the executive, endpoints, peers
and the environment do. No word encodes them; the schedule of the state names them (log entry 1). -/

namespace Sys2Proof

/-- Who makes a request at a home, or performs a write that write-block may stall. -/
inductive Agent where
  | lane (fib lane : Nat)
  /-- An engine command, by its number, and the ordinal of the sector. -/
  | engine (cmd sector : Nat)
  | service (n : Nat)
  /-- A requester below a logical root port. -/
  | endpoint (port rid : Nat)
  /-- A cluster's caches, by 6 × DIE + CLUS. -/
  | cluster (n : Nat)
  /-- Caches of peer chips, through a Nalron port. -/
  | peer (port chip : Nat)
  deriving DecidableEq, Repr

/-- What a request at a home does. -/
inductive ReqKind where
  | load (size : Nat)
  | store (data : List Byte)
  | atom (p : AtomOpr) (w : Width) (cmp data : Nat)
  | acr (t : AcrTag) (data : Nat)
  /-- A fill for reading, or for ownership (19 R439). -/
  | fill (own : Bool)
  /-- LCK, ULK and LCKCAN of a fibre of another chip, by its place (07 R185). -/
  | lock (die core gang lane : Nat) (limit : Option Nat)
  | unlock (die core gang lane : Nat)
  | cancel (die core gang lane : Nat)
  deriving DecidableEq, Repr

/-- A request at a home (07 R175, 19 R440). -/
structure HomeReq where
  agent : Agent
  part  : Nat
  kind  : ReqKind
  /-- The address as the agent issued it. -/
  va    : Word
  pa    : Nat
  grain : Nat
  /-- The page is NARROW (03 R78), and counted (18 R432). -/
  narrow : Bool
  count : Bool
  deriving DecidableEq, Repr

/-- A DRAM bank: stack, channel and bank number (21 R470, R475). -/
structure BankRef where
  stack : Nat
  chan  : Nat
  bank  : Nat
  deriving DecidableEq, Repr

/-- A service core's store to a control register: the core, the register that holds the levee, the effective address
(16 R393), and the bytes of its instruction. -/
structure CtlBy where
  sc   : Nat
  base : BitVec 5
  va   : Word
  len  : Nat
  deriving DecidableEq, Repr

/-- A far arrival at its weir (05 R122): of a command of this chip, with the answer of the target where that is another
chip's; of another chip, for the weirs of a partition, `done` for a DONE count; and the answer of another chip to a DONE
count of this one. -/
inductive FarFrom where
  | own (cmd : Nat) (refused : Bool)
  | peer (chip part : Nat) (scope : Scope) (handle : Word) (da : Nat) (e done : Bool)
  | doneAnswer (part : Nat) (handle ident : Word) (refused : Bool)
  deriving DecidableEq, Repr

/-- Where the executive resumes a stopped fibre (10 R246, 18 R422). -/
inductive ResumeAt where
  | same
  | next
  | header (a : Word)
  deriving DecidableEq, Repr

/-- Where a furrow places a workgroup (17 R402): logical core, the gangs it takes, PBASE, and its physical tiles. -/
structure Placement where
  index : Nat
  die   : Nat
  core  : Nat
  gangs : List Nat
  pbase : Nat
  ptile : List Nat
  deriving DecidableEq, Repr

/-- An MCSR contribution: of a command of this chip, or of a peer chip (13 R353). -/
inductive CollFrom where
  | own (cmd : Nat)
  | peer (chip group offset : Nat) (data : List Byte)
  deriving DecidableEq, Repr

/-- The answer of an endpoint to a non-posted read (13 R359). -/
inductive Answer where
  | data (x : Nat)
  | unsupported
  | abort
  | poisoned
  deriving DecidableEq, Repr

/-- The address of an endpoint's request: untranslated under a PASID, or translated (20 R457). -/
inductive EpAddr where
  | virt (pasid : Option Nat) (va : Word)
  | phys (pa : Nat)
  deriving DecidableEq, Repr

/-- An ordinary access of a service core (16 R386, R388): `d` receives, `t` holds the data. -/
inductive ScOp where
  | load (size : Nat) (signed : Bool) (d : BitVec 5) (aq : Bool)
  | store (size : Nat) (t : BitVec 5) (rl : Bool)
  | amo (p : AtomOpr) (size : Nat) (signed : Bool) (d t : BitVec 5) (aq rl : Bool)
  | lr (size : Nat) (d : BitVec 5) (aq : Bool)
  | sc (size : Nat) (d t : BitVec 5) (rl : Bool)
  /-- A load or store of a floating-point register. -/
  | fload (size : Nat) (d : BitVec 5)
  | fstore (size : Nat) (t : BitVec 5)
  | fetch
  deriving DecidableEq, Repr

/-- One event of the opcode table with its operands. -/
inductive Event where
  | holdTimeout (f : Nat)
  | pendingResultWrite (f id : Nat)
  | upcallPost (f code : Nat) (arg : Word)
  | upcallReflect (f : Nat)
  | trapResume (f : Nat) (how : ResumeAt)
  | workgroupEnd (w : Nat)
  | lqpostWrite (by' : CtlBy) (p q : Nat) (va : Word)
  | launchAnswer (f : Nat)
  | furrowPlace (launch : Nat) (at' : Placement)
  | workSteal (launch die : Nat) (clus : Option Nat)
  | dieShareStart (launch share : Nat) (at' : List Placement)
  | furrowPreempt (launch index die clus : Nat)
  | pcmdSwapGang (by' : CtlBy) (d p g : Nat)
  | pcmdDrain (by' : CtlBy) (d p g : Nat)
  | pcmdSave (by' : CtlBy) (d p g : Nat)
  | pcmdFlushRestart (by' : CtlBy) (d p g : Nat)
  | pcmdKill (by' : CtlBy) (d p g : Nat)
  | pcmdChoice (by' : CtlBy) (d p g : Nat)
  | gangSwapOut (w i : Nat)
  | restore (w : Nat) (core : Nat) (gangs : List (Nat × Nat)) (ptile : List Nat)
  | fqheadWrite (by' : CtlBy) (p : Nat) (v : Word)
  | warrFarArrival (x : FarFrom)
  | wwaitTimeout (f : Nat)
  | flumeCopyAccept (cmd : Nat)
  | flumeSectorLand (cmd k : Nat)
  | flumeSectorFail (cmd k : Nat)
  | flumeCopyComplete (cmd : Nat)
  | xresumeRetry (by' : CtlBy) (p token : Nat)
  | xresumeFailXlate (by' : CtlBy) (p token : Nat)
  | xresumeFailPerm (by' : CtlBy) (p token : Nat)
  | gatherComplete (cmd : Nat)
  | scatterComplete (cmd : Nat)
  | bankLoadEnd (cmd : Nat)
  | matrixStepStart (cmd : Nat)
  | matrixStepEnd (cmd : Nat)
  | matrixCommandComplete (cmd : Nat)
  | drainStart (cmd : Nat)
  | drainComplete (cmd : Nat)
  | mxzeroEffect (cmd : Nat)
  | mxstatResult (cmd : Nat)
  /-- `row`: the DRAM row the request activates; `soft` and `hard`: a correctable or uncorrectable error it meets. -/
  | homeRequestArrival (r : HomeReq) (row : Option (BankRef × Nat)) (soft hard : Bool)
  /-- `hard`: the sectors of the line that are found uncorrectable in partials (07 R516). -/
  | collectionEnd (line : Nat) (hard : List Nat)
  /-- `hard`: whether the node finds its partial uncorrectable (12 R309). -/
  | acrNodeMerge (cmd lane : Nat) (hard : Bool)
  | farAtomicPerform (cmd lane : Nat)
  | partialEvict (line die : Nat) (core : Option Nat) (clus : Nat)
  /-- `lost`: the sectors of the line that the cache could not correct. -/
  | lineWriteback (line : Nat) (lost : List Nat)
  | lockRequestArrival (line f slot : Nat)
  | turnoutEntryTaken (line f slot : Nat)
  | lockGrantArrival (f slot : Nat)
  | lockTimeout (line f slot : Nat)
  | deadlockProbe (line f slot : Nat)
  | lckcanAnswer (f : Nat)
  | wblimExpiry (p : Nat) (who : Agent)
  | xinvPartition (by' : CtlBy) (p : Nat)
  | xinvRange (by' : CtlBy) (p n : Nat)
  /-- `acked`: the functions whose ATS Invalidate Completions the root ports have received. -/
  | invalidationComplete (p : Nat) (acked : List (Nat × Nat))
  | atsInvalidateTimeout (port rid : Nat)
  | atsTranslationRequest (port rid : Nat) (pasid : Option Nat) (va : Word)
  | priPageRequest (port rid : Nat) (pasid : Option Nat) (va : Word) (w r last : Bool) (index : Nat)
  | migcmdGo (by' : CtlBy) (p n : Nat)
  | migrationEnd (p : Nat)
  | lgrowWrite (by' : CtlBy) (p : Nat) (v : Word)
  | invalidationAck (line sharer : Nat)
  | nalronPortDown (k : Nat)
  | nalronPortUp (k lanes switch : Nat)
  /-- `chips`: those left with no route to the home. -/
  | linkFailureTimeout (k : Nat) (chips : List Nat)
  | flitCrcFail (k : Nat) (lanes : Nat)
  | pauseFlit (k : Nat)
  | resumeFlit (k : Nat)
  | npctlRetrain (by' : CtlBy) (k lanes : Nat) (v : Word)
  | culvertLaneFail (d link : Nat) (spare : Bool) (left : Nat)
  | snoopFilterEvict (line : Nat)
  | nwctlWrite (by' : CtlBy) (k : Nat) (v : Word)
  | gctlWrite (by' : CtlBy) (k g : Nat) (v : Word)
  | groupAbsentClear (by' : CtlBy) (k g : Nat) (word : Nat) (v : Word)
  | mcsrContributionArrival (c : CollFrom)
  /-- `inputs`: the bytes read at the homes of the members on other chips. -/
  | mclrRequestArrival (cmd : Nat) (inputs : List (Nat × List Byte))
  | roundCombined (group offset : Nat)
  | collectiveComplete (cmd : Nat)
  | memberWithdrawal (chip group : Nat)
  | ioldCompletion (cmd : Nat) (a : Answer)
  | ioWriteSent (cmd : Nat) (sent : Bool)
  | doorbellSend (cmd : Nat) (sent : Bool)
  | completionTimeout (cmd : Nat)
  | endpointWrite (port rid : Nat) (a : EpAddr) (data : List Byte) (poisoned : Bool)
  | endpointRead (port rid : Nat) (a : EpAddr) (size : Nat)
  | interruptWrite (port rid : Nat) (addr : Word) (size : Nat)
  | aerEvent (port rid : Nat) (status : Word)
  | dpcTrigger (port : Nat) (status : Word)
  | rootPortLinkChange (port : Nat) (up : Bool) (width speed : Nat) (cxl flit : Bool)
  | hotrst (by' : CtlBy) (port : Nat) (v : Word)
  | prgResponseSuccess (by' : CtlBy) (port pasid rid index : Nat)
  | prgResponseInvalidRequest (by' : CtlBy) (port pasid rid index : Nat)
  | prgResponseFailure (by' : CtlBy) (port pasid rid index : Nat)
  /-- `answer`: what a present function reads; none for an absent one or after CTO. -/
  | configAccess (sc : Nat) (base : BitVec 5) (off : Int) (size len : Nat) (op : Option (BitVec 5)) (signed : Bool)
      (t : BitVec 5)
      (answer : Option Nat)
  | sltsyncWrite (by' : CtlBy) (p : Nat)
  | sltsyncComplete (p : Nat)
  | syspostWrite (by' : CtlBy) (p : Nat) (v : Word)
  | scrubCheckStart (p i : Nat)
  | shardCheckEnd (p i : Nat)
  | alertBackoffEnd (b : BankRef)
  | periodicRefresh (b : BankRef) (row : Nat)
  | stackTemperatureChange (stack temp : Nat)
  | dspareWrite (by' : CtlBy) (d : Nat) (v : Word)
  | partitionTableWrite (by' : CtlBy) (entry word : Nat) (v : Word)
  | controlRegisterWrite (by' : CtlBy) (addr : Nat) (v : Word)
  | dbgHalt (by' : CtlBy) (d p g : Nat)
  | dbgResume (by' : CtlBy) (d p g : Nat)
  | dbgStep (by' : CtlBy) (d p g : Nat)
  | dicinvWrite (by' : CtlBy) (d : Nat) (v : Word)
  | dicinvComplete (d : Nat)
  | sampleTrigger (d core sched : Nat)
  /-- `lat`: the five stage latencies. -/
  | sampleRecordWrite (d core sched : Nat) (lat : List Nat) (level : Nat)
  /-- `bad`: whether a stack failed its verification pattern twice; `digests`: of the stages measured. -/
  | powerOn (bad : Bool) (digests : List (List Byte))
  | mgmtResetCommand (cold bad : Bool) (digests : List (List Byte))
  | rstcmdWarmReset (by' : CtlBy) (bad : Bool) (digests : List (List Byte))
  | fwVerify (by' : CtlBy) (staged : List Byte)
  | fwVerifyDone
  | fwCommit (by' : CtlBy)
  | fwCommitDone
  | recoveryImage (image : List Byte)
  | attestationQuote (nonce : List Byte)
  | tgctlWrite (by' : CtlBy) (d : Nat) (v : Word)
  /-- `others`: the lowest limit of the members of the throttle group on other chips. -/
  | clockStepApply (d : Nat) (others : Option Nat)
  | junctionLimitReached (d temp : Nat)
  | thermalStepDown (d temp : Nat)
  | thermalStepUp (d temp : Nat)
  | thermalTrip (d temp : Nat) (bad : Bool) (digests : List (List Byte))
  | serviceCoreAccess (sc : Nat) (base : BitVec 5) (off : Int) (len : Nat) (op : ScOp)
  | powerLoss
  deriving DecidableEq, Repr

end Sys2Proof
end

