-- ==== Sys2Proof/Syntax.lean ====
section
/-! DEFINITION. The instruction set: one constructor for each row of the opcode table. Rows 0 to 238 are Ferja
instruction words, rows 239 to 250 levee instructions of the service cores, the rest steps of devices, the executive
and the environment, which are encoded in no word and whose operands stand in the schedule (Events.lean). -/

namespace Sys2Proof

/-- One constructor for each row of the opcode table, in its order. -/
inductive Instr where
  /-- R237: Conditional or unconditional branch on the scalar flags to a block header. -/
  | b (o : BOp)
  /-- R238: Branch when Mm AND M0 is zero. -/
  | bmz (o : BmOp)
  /-- R238: Branch when Mm AND M0 is non-zero. -/
  | bmnz (o : BmOp)
  /-- R238: Branch when Mm AND M0 equals M0. -/
  | bmall (o : BmOp)
  /-- R238: Branch when Mm AND M0 differs from M0. -/
  | bmnall (o : BmOp)
  /-- R239: Branch to the header address held in Sa. -/
  | bri (o : SaOp)
  /-- R240: Call a label, writing the next header and the loop depth into LK. -/
  | call (o : CallOp)
  /-- R240: Call the header address in Sa, writing the return into LK. -/
  | calli (o : SaOp)
  /-- R241: Return through Sa, popping loop entries to the recorded depth. -/
  | ret (o : SaOp)
  /-- R242: Push a counted-loop entry, or branch to the exit on a zero count. -/
  | loop (o : LoopOp)
  /-- R243: Move the lanes of Mm AND M0 into a new fibre that starts at a label. -/
  | spawn (o : BmOp)
  /-- R51: End an upcall handler and continue at the header address in Sa. -/
  | upret (o : SaOp)
  /-- R246: Take the precise TRAPI trap with the imm8 as its information value. -/
  | trap (o : ImmOp)
  /-- R247: Place the active lanes in a vector call record in the call ring for the executive. -/
  | sysc (o : ImmOp)
  /-- R249: Post a launch record to the launch queue of the issuing workgroup's own launch. -/
  | launch (o : LaunchOp)
  /-- R253: Scalar addition at width w. -/
  | sadd (o : SOp)
  /-- R253: Scalar subtraction. -/
  | ssub (o : SOp)
  /-- R253: Low w bits of the scalar product. -/
  | smul (o : SOp)
  /-- R253: High half of the signed scalar product. -/
  | smulh (o : SOp)
  /-- R253: High half of the unsigned scalar product. -/
  | smulhu (o : SOp)
  /-- R254: Signed scalar division, which never traps. -/
  | sdiv (o : SOp)
  /-- R254: Unsigned scalar division. -/
  | sdivu (o : SOp)
  /-- R254: Signed scalar remainder. -/
  | srem (o : SOp)
  /-- R254: Unsigned scalar remainder. -/
  | sremu (o : SOp)
  /-- R253: Scalar bitwise AND. -/
  | sand (o : SOp)
  /-- R253: Scalar bitwise OR. -/
  | sor (o : SOp)
  /-- R253: Scalar bitwise XOR. -/
  | sxor (o : SOp)
  /-- R253: Scalar a AND NOT b. -/
  | sandn (o : SOp)
  /-- R253: Scalar shift left by b mod w. -/
  | sshl (o : SOp)
  /-- R253: Scalar logical shift right. -/
  | sshr (o : SOp)
  /-- R253: Scalar arithmetic shift right. -/
  | ssra (o : SOp)
  /-- R253: Scalar rotate right. -/
  | srot (o : SOp)
  /-- R253: Signed scalar minimum. -/
  | smin (o : SOp)
  /-- R253: Signed scalar maximum. -/
  | smax (o : SOp)
  /-- R253: Unsigned scalar minimum. -/
  | sminu (o : SOp)
  /-- R253: Unsigned scalar maximum. -/
  | smaxu (o : SOp)
  /-- R253: Count the leading zeros of Sa. -/
  | sclz (o : SUn)
  /-- R253: Count the trailing zeros of Sa. -/
  | sctz (o : SUn)
  /-- R253: Count the set bits of Sa. -/
  | spop (o : SUn)
  /-- R253: Extend Sa from w bits. -/
  | sext (o : SUn)
  /-- R257: Copy Sa into Sd, extended from w bits. -/
  | smov (o : SUn)
  /-- R257: Load a short or long immediate into Sd. -/
  | sli (o : SliOp)
  /-- R257: Load the address of a label into Sd. -/
  | sadr (o : SadrOp)
  /-- R259: Read a special register into Sd. -/
  | sgetsr (o : GetSrOp)
  /-- R261: Write the RW fields of FMODE or FLAGS from Sa. -/
  | ssetsr (o : SetSrOp)
  /-- R257: Select Sa or Sb according to a flag condition. -/
  | ssel (o : SselOp)
  /-- R256: Write the SSUB flags without writing a register. -/
  | scmp (o : ScmpOp)
  /-- R256: Write the SADD flags without writing a register. -/
  | scmn (o : ScmpOp)
  /-- R256: Write the SAND flags without writing a register. -/
  | stst (o : ScmpOp)
  /-- R262: Mask AND. -/
  | kand (o : K3Op)
  /-- R262: Mask OR. -/
  | kor (o : K3Op)
  /-- R262: Mask XOR. -/
  | kxor (o : K3Op)
  /-- R262: Mask AND NOT. -/
  | kandn (o : K3Op)
  /-- R262: Mask NOT. -/
  | knot (o : K2Op)
  /-- R262: Mask copy. -/
  | kmov (o : K2Op)
  /-- R262: Count the set bits of Ma below W into Sd. -/
  | kpop (o : KsOp)
  /-- R262: Write the index of the lowest set bit of Ma into Sd. -/
  | kfirst (o : KsOp)
  /-- R262: Build a mask from two scalar registers. -/
  | kfroms (o : KfOp)
  /-- R262: Copy one 64-bit half of a mask into Sd. -/
  | ktos (o : KtOp)
  /-- R268: Vector integer addition. -/
  | vadd (o : VOp)
  /-- R268: Vector integer subtraction. -/
  | vsub (o : VOp)
  /-- R268: Vector integer multiplication. -/
  | vmul (o : VOp)
  /-- R268: High half of the vector integer product. -/
  | vmulh (o : VOp)
  /-- R268: Vector integer multiply-add. -/
  | vmad (o : VOp)
  /-- R268: Vector integer absolute value. -/
  | vabs (o : VOp)
  /-- R268: Vector integer negation. -/
  | vneg (o : VOp)
  /-- R268: Vector integer minimum. -/
  | vmin (o : VOp)
  /-- R268: Vector integer maximum. -/
  | vmax (o : VOp)
  /-- R268: Vector integer rounding average. -/
  | vavg (o : VOp)
  /-- R268: Vector integer absolute difference. -/
  | vabsd (o : VOp)
  /-- R268: Vector integer quotient under R254. -/
  | vdiv (o : VOp)
  /-- R268: Vector integer remainder under R254. -/
  | vrem (o : VOp)
  /-- R269: Vector bitwise AND. -/
  | vand (o : VOp)
  /-- R269: Vector bitwise OR. -/
  | vor (o : VOp)
  /-- R269: Vector bitwise XOR. -/
  | vxor (o : VOp)
  /-- R269: Vector a AND NOT b. -/
  | vandn (o : VOp)
  /-- R269: Vector bitwise NOT. -/
  | vnot (o : VOp)
  /-- R269: Vector shift left. -/
  | vshl (o : VOp)
  /-- R269: Vector shift right, arithmetic for signed types and logical for unsigned. -/
  | vshr (o : VOp)
  /-- R269: Vector rotate right. -/
  | vrot (o : VOp)
  /-- R269: Vector bit-field extract. -/
  | vbext (o : VOp)
  /-- R269: Vector bit-field insert. -/
  | vbins (o : VOp)
  /-- R269: Vector count of leading zeros. -/
  | vclz (o : VOp)
  /-- R269: Vector count of trailing zeros. -/
  | vctz (o : VOp)
  /-- R269: Vector population count. -/
  | vpop (o : VOp)
  /-- R269: Vector bit reversal. -/
  | vbrev (o : VOp)
  /-- R270: Vector integer compare into a mask. -/
  | vcmp (o : VOp)
  /-- R270: Vector test of a AND b into a mask. -/
  | vtest (o : VOp)
  /-- R271: Vector select of a or b per lane by the mask Mc. -/
  | vsel (o : VOp)
  /-- R273: Vector floating-point addition. -/
  | vfadd (o : VOp)
  /-- R273: Vector floating-point subtraction. -/
  | vfsub (o : VOp)
  /-- R273: Vector floating-point multiplication. -/
  | vfmul (o : VOp)
  /-- R273: Vector floating-point division, correctly rounded. -/
  | vfdiv (o : VOp)
  /-- R273: Clear the sign bit of each element. -/
  | vfabs (o : VOp)
  /-- R273: Invert the sign bit of each element. -/
  | vfneg (o : VOp)
  /-- R273: Copy the sign of b onto a. -/
  | vfsgn (o : VOp)
  /-- R273: Fused multiply-add x × y + z. -/
  | vfma (o : VOp)
  /-- R273: Fused multiply-subtract x × y − z. -/
  | vfms (o : VOp)
  /-- R273: Fused −(x × y) + z. -/
  | vfnma (o : VOp)
  /-- R273: Fused −(x × y) − z. -/
  | vfnms (o : VOp)
  /-- R274: Vector floating-point minimum. -/
  | vfmin (o : VOp)
  /-- R274: Vector floating-point maximum. -/
  | vfmax (o : VOp)
  /-- R275: Vector floating-point compare into a mask. -/
  | vfcmp (o : VOp)
  /-- R276: Write a one-hot class word per lane. -/
  | vfclass (o : VOp)
  /-- R277: Convert per lane between formats. -/
  | vcvt (o : CvtOp)
  /-- R278: Insert a narrow element into field k of a lane word. -/
  | vpack (o : VOp)
  /-- R278: Extract field k of a lane word. -/
  | vunpk (o : VOp)
  /-- R279: Vector 2^x. -/
  | vexp2 (o : VOp)
  /-- R279: Vector log2 x. -/
  | vlog2 (o : VOp)
  /-- R279: Vector reciprocal. -/
  | vrcp (o : VOp)
  /-- R279: Vector reciprocal square root. -/
  | vrsq (o : VOp)
  /-- R279: Vector square root, correctly rounded. -/
  | vsqrt (o : VOp)
  /-- R280: Two-element packed dot product accumulated into c. -/
  | vdot2 (o : VOp)
  /-- R280: Four-element packed dot product accumulated into c. -/
  | vdot4 (o : VOp)
  /-- R281: Copy source B into each active lane. -/
  | vmov (o : VOp)
  /-- R281: Broadcast one lane of Va to the active lanes. -/
  | vbcast (o : VOp)
  /-- R281: Write b plus the stride times the lane index. -/
  | viota (o : VOp)
  /-- R281: Read each active lane's stochastic state. -/
  | vgetsrs (o : VOp)
  /-- R281: Write each active lane's stochastic state. -/
  | vsetsrs (o : VOp)
  /-- R281: Copy one lane of Va into Sd. -/
  | vlane (o : VOp)
  /-- R281: Insert Sa into one lane of Vd. -/
  | vins (o : VOp)
  /-- R282: Permute lanes by the index in b. -/
  | vshuf (o : VOp)
  /-- R282: Rotate lanes. -/
  | vrotl (o : VOp)
  /-- R282: Shift lanes up, filling with zero. -/
  | vshup (o : VOp)
  /-- R282: Shift lanes down, filling with zero. -/
  | vshdn (o : VOp)
  /-- R282: Butterfly exchange of lanes by XOR. -/
  | vbfly (o : VOp)
  /-- R284: Inclusive or exclusive scan over the active lanes. -/
  | vscan (o : VOp)
  /-- R284: Fixed pairwise tree reduction written to every active lane. -/
  | vred (o : VOp)
  /-- R285: Write leader lanes into a mask and match counts into Vn. -/
  | vmatch (o : VOp)
  /-- R286: Pack the active lanes' values downward. -/
  | vcompact (o : VOp)
  /-- R286: Spread low lanes' values to the active lanes by rank. -/
  | vexpand (o : VOp)
  /-- R286: Write half of the non-zero ballot mask into Sd. -/
  | vballot (o : VOp)
  /-- R294: Per-lane scratchpad load. -/
  | vlds (o : MemV)
  /-- R294: Per-lane scratchpad store. -/
  | vsts (o : MemV)
  /-- R295: One scratchpad load broadcast to the active lanes. -/
  | vldsu (o : MemU)
  /-- R294: Per-lane global load. -/
  | vldg (o : MemV)
  /-- R294: Per-lane global store. -/
  | vstg (o : MemV)
  /-- R295: One global load broadcast to the active lanes. -/
  | vldgu (o : MemU)
  /-- R296: Prefetch global lines into L1 without visible effect. -/
  | vpref (o : MemV)
  /-- R294: Per-lane private load. -/
  | vldp (o : MemV)
  /-- R294: Per-lane private store. -/
  | vstp (o : MemV)
  /-- R297: Scalar global load. -/
  | sldg (o : MemS)
  /-- R297: Scalar global store. -/
  | sstg (o : MemS)
  /-- R297: Scalar scratchpad load. -/
  | slds (o : MemS)
  /-- R297: Scalar scratchpad store. -/
  | ssts (o : MemS)
  /-- R302: Atomic load at the scratchpad bank. -/
  | atlLd (o : AtomOp)
  /-- R302: Atomic store at the scratchpad bank. -/
  | atlSt (o : AtomOp)
  /-- R302: Atomic exchange at the scratchpad bank. -/
  | atlXchg (o : AtomOp)
  /-- R302: Atomic compare-and-swap at the scratchpad bank. -/
  | atlCas (o : AtomOp)
  /-- R302: Atomic add at the scratchpad bank. -/
  | atlAdd (o : AtomOp)
  /-- R302: Atomic AND at the scratchpad bank. -/
  | atlAnd (o : AtomOp)
  /-- R302: Atomic OR at the scratchpad bank. -/
  | atlOr (o : AtomOp)
  /-- R302: Atomic XOR at the scratchpad bank. -/
  | atlXor (o : AtomOp)
  /-- R302: Atomic minimum at the scratchpad bank. -/
  | atlMin (o : AtomOp)
  /-- R302: Atomic maximum at the scratchpad bank. -/
  | atlMax (o : AtomOp)
  /-- R302: Atomic floating-point add at the scratchpad bank. -/
  | atlFadd (o : AtomOp)
  /-- R302: Atomic floating-point minimum at the scratchpad bank. -/
  | atlFmin (o : AtomOp)
  /-- R302: Atomic floating-point maximum at the scratchpad bank. -/
  | atlFmax (o : AtomOp)
  /-- R302: Global atomic load at the scope's execution point. -/
  | atgLd (o : AtomOp)
  /-- R302: Global atomic store. -/
  | atgSt (o : AtomOp)
  /-- R302: Global atomic exchange. -/
  | atgXchg (o : AtomOp)
  /-- R302: Global atomic compare-and-swap. -/
  | atgCas (o : AtomOp)
  /-- R302: Global atomic add. -/
  | atgAdd (o : AtomOp)
  /-- R302: Global atomic AND. -/
  | atgAnd (o : AtomOp)
  /-- R302: Global atomic OR. -/
  | atgOr (o : AtomOp)
  /-- R302: Global atomic XOR. -/
  | atgXor (o : AtomOp)
  /-- R302: Global atomic minimum. -/
  | atgMin (o : AtomOp)
  /-- R302: Global atomic maximum. -/
  | atgMax (o : AtomOp)
  /-- R302: Global atomic floating-point add. -/
  | atgFadd (o : AtomOp)
  /-- R302: Global atomic floating-point minimum. -/
  | atgFmin (o : AtomOp)
  /-- R302: Global atomic floating-point maximum. -/
  | atgFmax (o : AtomOp)
  /-- R305: Global reduction add without return, counted in OCA. -/
  | redgAdd (o : AtomOp)
  /-- R305: Global reduction AND without return. -/
  | redgAnd (o : AtomOp)
  /-- R305: Global reduction OR without return. -/
  | redgOr (o : AtomOp)
  /-- R305: Global reduction XOR without return. -/
  | redgXor (o : AtomOp)
  /-- R305: Global reduction minimum without return. -/
  | redgMin (o : AtomOp)
  /-- R305: Global reduction maximum without return. -/
  | redgMax (o : AtomOp)
  /-- R305: Global reduction floating-point add without return. -/
  | redgFadd (o : AtomOp)
  /-- R305: Global reduction floating-point minimum without return. -/
  | redgFmin (o : AtomOp)
  /-- R305: Global reduction floating-point maximum without return. -/
  | redgFmax (o : AtomOp)
  /-- R308: Accrue update with tag IADD32. -/
  | acrIadd32 (o : AcrOp)
  /-- R308: Accrue update with tag IADD64. -/
  | acrIadd64 (o : AcrOp)
  /-- R308: Accrue update with tag FADD32. -/
  | acrFadd32 (o : AcrOp)
  /-- R308: Exact X128 accrue update with a scale. -/
  | acrXadd (o : AcrOp)
  /-- R308: Accrue update with tag FMIN32. -/
  | acrFmin32 (o : AcrOp)
  /-- R308: Accrue update with tag FMAX32. -/
  | acrFmax32 (o : AcrOp)
  /-- R308: Accrue update with tag IMINS. -/
  | acrImins (o : AcrOp)
  /-- R308: Accrue update with tag IMINU. -/
  | acrIminu (o : AcrOp)
  /-- R308: Accrue update with tag IMAXS. -/
  | acrImaxs (o : AcrOp)
  /-- R308: Accrue update with tag IMAXU. -/
  | acrImaxu (o : AcrOp)
  /-- R308: Accrue update with tag OR. -/
  | acrOr (o : AcrOp)
  /-- R308: Accrue update with tag AND. -/
  | acrAnd (o : AcrOp)
  /-- R308: Accrue update with tag XOR. -/
  | acrXor (o : AcrOp)
  /-- R182: Request the turnout lock of a line into a lock slot. -/
  | lck (o : LckOp)
  /-- R192: Cancel the fibre's latest lock request for a line. -/
  | lckcan (o : LckcanOp)
  /-- R188: Unlock a held line as a release. -/
  | ulk (o : SaScope)
  /-- R313: Bind a global region to a local weir. -/
  | bindWeir (o : BindWOp)
  /-- R313: Bind a global region to a lock line. -/
  | bindLock (o : BindSOp)
  /-- R313: Bind a global region to a sync word. -/
  | bindSync (o : BindSOp)
  /-- R315: Remove a binding, releasing the region at .sys. -/
  | unbind (o : SaOp)
  /-- R316: Make the latest atomic read at the scope an acquire. -/
  | fenceAcq (o : FenceOp)
  /-- R316: Make the next atomic write at the scope a release. -/
  | fenceRel (o : FenceOp)
  /-- R316: Full fence with both acquire and release halves. -/
  | fenceAr (o : FenceOp)
  /-- R318: Set a weir's expectations and clear its counts. -/
  | winit (o : WinitOp)
  /-- R319: Per-fibre arrival on a local weir, returning the phase. -/
  | warr (o : WarrOp)
  /-- R319: Per-lane arrival on a local weir. -/
  | warrLanes (o : WarrOp)
  /-- R320: Per-fibre arrival sent by handle through the far-atomics engine. -/
  | warrFar (o : WarrFarOp)
  /-- R320: Per-lane arrival sent by handle. -/
  | warrFarLanes (o : WarrFarOp)
  /-- R321: Wait for a weir phase, with an optional timeout. -/
  | wwait (o : WwaitOp)
  /-- R323: Read weir image bits 63 to 0. -/
  | wqryLo (o : WqryOp)
  /-- R323: Read weir image bits 127 to 64. -/
  | wqryHi (o : WqryOp)
  /-- R323: Read the handle of a local weir. -/
  | wqryHandle (o : WqryOp)
  /-- R324: Wait for an outstanding-operation counter and report engine errors. -/
  | waitoc (o : WaitocOp)
  /-- R336: One-dimensional flume copy between global memory and scratchpad. -/
  | flcopy1d (o : FlcopyOp)
  /-- R336: Two-dimensional flume copy. -/
  | flcopy2d (o : FlcopyOp)
  /-- R336: Three-dimensional flume copy. -/
  | flcopy3d (o : FlcopyOp)
  /-- R340: Seal the open batch and wait on OCF. -/
  | flwait (o : ImmOp)
  /-- R342: Gather indexed table rows into the scratchpad. -/
  | gather (o : SaOp)
  /-- R342: Scatter scratchpad rows to indexed table rows. -/
  | scatter (o : SaOp)
  /-- R344: Load a B slice and its scales into a macro bank. -/
  | mxloadb (o : MxOp)
  /-- R159: Map a fresh zeroed physical tile with an anchor onto a tile name. -/
  | mxinit (o : MxinitOp)
  /-- R345: Run one matrix step into a tile. -/
  | mxmul (o : MxOp)
  /-- R346: Run a sequence of steps with double-buffered bank loads. -/
  | mxloop (o : MxloopOp)
  /-- R348: Convert a tile into the scratchpad. -/
  | mxdrain (o : MxdrainOp)
  /-- R349: Exchange two tile names. -/
  | mxswap (o : MxswapOp)
  /-- R349: Zero a tile, keeping its anchor. -/
  | mxzero (o : MxzeroOp)
  /-- R350: Read a tile's descriptor into Sd. -/
  | mxstat (o : MxstatOp)
  /-- R353: Contribute scratchpad input to an in-switch reduce round. -/
  | mcsr (o : McOp)
  /-- R353: Reduce members' window inputs into the scratchpad. -/
  | mclr (o : McOp)
  /-- R357: Non-posted read of an endpoint register. -/
  | iold (o : IoOp)
  /-- R357: Posted write to an endpoint register. -/
  | iost (o : IoOp)
  /-- R357: Sluiced doorbell write, held for its payload stores. -/
  | dbell (o : IoOp)
  /-- R391: Load a levee with its tag from memory. -/
  | lvLd (o : LvLdOp)
  /-- R391: Store a levee with its tag to memory. -/
  | lvSt (o : LvStOp)
  /-- R390: Move a levee's cursor to a given address. -/
  | lvMove (o : Lv3Op)
  /-- R390: Advance a levee's cursor by an offset. -/
  | lvStep (o : Lv3Op)
  /-- R390: Remove rights from a levee. -/
  | lvDrop (o : Lv3Op)
  /-- R390: Narrow a levee's span, rounding outward. -/
  | lvNarrow (o : Lv3Op)
  /-- R390: Narrow a levee exactly, untagging it if rounding was needed. -/
  | lvNarrowx (o : Lv3Op)
  /-- R390: Lock a levee under a key number. -/
  | lvLock (o : Lv3Op)
  /-- R390: Open a locked levee with its key. -/
  | lvOpen (o : Lv3Op)
  /-- R390: Read a selected property of a levee as an integer. -/
  | lvInfo (o : LvInfoOp)
  /-- R390: Clear a levee's tag. -/
  | lvUntag (o : Lv2Op)
  /-- R390: Compare two levees bit for bit, tags included. -/
  | lvSame (o : Lv3Op)
  /-- R244: End the fibre, passing its locks on and freeing its tiles. -/
  | fend
  /-- R245: Keep the scheduler from choosing the fibre again for up to 16 choices. -/
  | yield
  /-- R246: Stop the fibre with a TRAPI trap whose information value is 0x100. -/
  | halt
  /-- R248: Issue with no other effect. -/
  | nop
  /-- R246: Take the precise BKPT trap for the debugger. -/
  | bkpt
  /-- R133: Seal the open flume batch. -/
  | flseal
  /-- R144: Advance the schedule stage and issue its entries. -/
  | flstage
  /-- R38: A held fibre is released after 256 cycles and its target cleared. -/
  | holdTimeout
  /-- R204: A pending register result arrives, clearing its pending mark. -/
  | pendingResultWrite
  /-- R51: The executive posts an upcall to a fibre, or is refused. -/
  | upcallPost
  /-- R50: The executive reflects a trap to the fibre as an upcall. -/
  | upcallReflect
  /-- R422: The executive resumes a trapped fibre, which is checked again. -/
  | trapResume
  /-- R36: The last fibre has ended and every engine command completed, so the workgroup ends. -/
  | workgroupEnd
  /-- R399: A service core posts a launch record to a launch queue. -/
  | lqpostWrite
  /-- R250: The launch queue answers a LAUNCH with its result code. -/
  | launchAnswer
  /-- R402: A furrow places a pending workgroup on a qualifying core, and it starts. -/
  | furrowPlace
  /-- R403: A lateral or furrow with an empty range takes unstarted units from a sibling. -/
  | workSteal
  /-- R404: All workgroups of a multicast die share are placed and start together. -/
  | dieShareStart
  /-- R408: A furrow pre-empts victims so that a pending workgroup fits. -/
  | furrowPreempt
  /-- R410: The executive swaps out a gang. -/
  | pcmdSwapGang
  /-- R410: The executive drains a workgroup. -/
  | pcmdDrain
  /-- R410: The executive saves a workgroup. -/
  | pcmdSave
  /-- R410: The executive flushes a workgroup for restart. -/
  | pcmdFlushRestart
  /-- R410: The executive kills a workgroup. -/
  | pcmdKill
  /-- R409: The executive applies the device's pre-emption choice to a workgroup. -/
  | pcmdChoice
  /-- R410: Once its engine work completes, a victim gang is saved to its slot and freed. -/
  | gangSwapOut
  /-- R411: A recalled gang or workgroup is restored from its save slot. -/
  | restore
  /-- R414: The executive advances the fault ring head, freeing room for stopped and pending records. -/
  | fqheadWrite
  /-- R122: A handle WARR reaches its target weir and is applied or refused. -/
  | warrFarArrival
  /-- R321: A WWAIT's timeout expires, completing it with TO set or recalling a swapped gang. -/
  | wwaitTimeout
  /-- R337: A flume copy or schedule fill is accepted, and its regions go ARRIVING. -/
  | flumeCopyAccept
  /-- R136: A sector's data lands, its presence bit is set and the weir is credited. -/
  | flumeSectorLand
  /-- R134: A sector fails with a stored cause and is credited with an error. -/
  | flumeSectorFail
  /-- R134: A copy completes after its last sector and its credits, digest and multicast. -/
  | flumeCopyComplete
  /-- R423: The executive retries a waiting engine translation. -/
  | xresumeRetry
  /-- R423: The executive fails a waiting engine sector with XLATE. -/
  | xresumeFailXlate
  /-- R423: The executive fails a waiting engine sector with PERM. -/
  | xresumeFailPerm
  /-- R342: A gather has written every row and its bitmap. -/
  | gatherComplete
  /-- R342: A scatter has written every row and its bitmap. -/
  | scatterComplete
  /-- R344: A bank load ends and tags the bank. -/
  | bankLoadEnd
  /-- R158: A step starts when its bank and load are ready, capturing its A rows. -/
  | matrixStepStart
  /-- R154: A step's products have all been added into the macro partial. -/
  | matrixStepEnd
  /-- R156: The partial combines into the tile and OCM is decremented. -/
  | matrixCommandComplete
  /-- R162: A drain starts after every earlier accumulating command has completed. -/
  | drainStart
  /-- R164: A drain has written its region, which becomes PRESENT. -/
  | drainComplete
  /-- R162: A tile is zeroed after earlier accumulating commands complete. -/
  | mxzeroEffect
  /-- R350: The tile descriptor is written to Sd after earlier bound commands. -/
  | mxstatResult
  /-- R175: A request reaches a line's home and is served or queued by the line's state. -/
  | homeRequestArrival
  /-- R176: A collection ends and queued requests are served. -/
  | collectionEnd
  /-- R173: An accrue update reaches its node and is merged. -/
  | acrNodeMerge
  /-- R305: A REDG lane operation is performed at its execution point. -/
  | farAtomicPerform
  /-- R178: A partial is evicted and merged into its parent node. -/
  | partialEvict
  /-- R478: A dirty line is written back, with uncorrectable sectors marked lost. -/
  | lineWriteback
  /-- R185: A lock request reaches the home and is granted or queued. -/
  | lockRequestArrival
  /-- R472: A request waiting for a free turnout table entry takes one. -/
  | turnoutEntryTaken
  /-- R186: A grant arrival is counted on the requester's grant weir. -/
  | lockGrantArrival
  /-- R191: A queued request times out and its weir receives an error arrival. -/
  | lockTimeout
  /-- R193: A request queued for 65,536 cycles probes waits-for edges and fails the youngest in a cycle. -/
  | deadlockProbe
  /-- R192: The home answers a cancellation, and LCKCAN writes its result. -/
  | lckcanAnswer
  /-- R434: A write stalled by write-block for WBLIM ns ends with WBLOCK. -/
  | wblimExpiry
  /-- R426: Start an invalidation of the whole partition's translations. -/
  | xinvPartition
  /-- R426: Start an invalidation of a page range. -/
  | xinvRange
  /-- R427: An invalidation completes and SEQ advances. -/
  | invalidationComplete
  /-- R427: A function that does not answer has its ATS disabled and 0x15 is posted. -/
  | atsInvalidateTimeout
  /-- R430: A root port translates an endpoint ATS request through the tree. -/
  | atsTranslationRequest
  /-- R430: A Page Request becomes notification 0x12. -/
  | priPageRequest
  /-- R435: Start a migration copy. -/
  | migcmdGo
  /-- R436: A migration copy ends with a status, and 0x14 is posted. -/
  | migrationEnd
  /-- R438: The executive raises a GROWSTACK launch's private bound. -/
  | lgrowWrite
  /-- R451: A sharer's acknowledgement reaches the home, which grants when all are in. -/
  | invalidationAck
  /-- R451: A Nalron port fails, putting waiting fan-outs into HOLD. -/
  | nalronPortDown
  /-- R451: A port returns to service and held invalidations are resent. -/
  | nalronPortUp
  /-- R451: The link-failure timeout expires and unreachable chips are declared severed. -/
  | linkFailureTimeout
  /-- R443: A flit fails its CRC and is replayed, and the port retrains after 16 failures. -/
  | flitCrcFail
  /-- R443: A pause flit stops the sender within 64 flits. -/
  | pauseFlit
  /-- R443: A resume flit lets the sender continue. -/
  | resumeFlit
  /-- R444: Retrain a Nalron port. -/
  | npctlRetrain
  /-- R442: A link lane fails and is spared, narrowed or routed around. -/
  | culvertLaneFail
  /-- R446: A full switch snoop filter evicts an entry by invalidating its copies. -/
  | snoopFilterEvict
  /-- R445: Write a peer window's control, ignored while enabled unless it clears EN. -/
  | nwctlWrite
  /-- R448: Write a multicast-reduce group's control, under its ignore rules. -/
  | gctlWrite
  /-- R448: Clearing an ABSENT bit while PEND is 0 restores a member's presence. -/
  | groupAbsentClear
  /-- R353: An MCSR contribution reaches the switch and joins a round. -/
  | mcsrContributionArrival
  /-- R353: An MCLR request reaches the switch, which reads members' windows. -/
  | mclrRequestArrival
  /-- R353: Every member's input is combined and the output write begins. -/
  | roundCombined
  /-- R354: The completion steps of a collective command are performed at the issuing chip. -/
  | collectiveComplete
  /-- R450: A killed member's withdrawal marks it absent and kills pending rounds. -/
  | memberWithdrawal
  /-- R358: An IOLD's completion returns and Sd is written as an acquire. -/
  | ioldCompletion
  /-- R358: The root port sends an IOST or doorbell write and the command completes. -/
  | ioWriteSent
  /-- R461: A doorbell leaves once the held-for window stores are performed. -/
  | doorbellSend
  /-- R359: An IOLD passes the completion timeout and returns all ones with an error. -/
  | completionTimeout
  /-- R110: An endpoint memory write is translated and performed at its home. -/
  | endpointWrite
  /-- R110: An endpoint memory read is served at the home. -/
  | endpointRead
  /-- R464: An endpoint interrupt write is checked and counted on the mapped weir. -/
  | interruptWrite
  /-- R458: An AER event posts notification 0x20. -/
  | aerEvent
  /-- R458: DPC triggers, endpoint requests are dropped, and 0x25 is posted. -/
  | dpcTrigger
  /-- R455: A root-port link comes up or goes down. -/
  | rootPortLinkChange
  /-- R455: Perform a Secondary Bus Reset and clear DPC. -/
  | hotrst
  /-- R455: Send a PRG Response with Success. -/
  | prgResponseSuccess
  /-- R455: Send a PRG Response with Invalid Request. -/
  | prgResponseInvalidRequest
  /-- R455: Send a PRG Response with Response Failure. -/
  | prgResponseFailure
  /-- R457: A service core makes a configuration access through ECAM. -/
  | configAccess
  /-- R462: Start a sluice-table sync. -/
  | sltsyncWrite
  /-- R462: Every DBELL that read an entry earlier has left or been dropped. -/
  | sltsyncComplete
  /-- R466: The executive posts one call-completion count to a weir. -/
  | syspostWrite
  /-- R468: The scrub interval or NOW starts a shard digest check. -/
  | scrubCheckStart
  /-- R468: A shard check ends with a match, a mismatch or unreadable. -/
  | shardCheckEnd
  /-- R475: A bank's 350 ns of refresh management ends and backed-off requests are served. -/
  | alertBackoffEnd
  /-- R475: Periodic refresh of a row resets its activation count. -/
  | periodicRefresh
  /-- R473: A stack crosses a temperature boundary and changes refresh mode. -/
  | stackTemperatureChange
  /-- R398: Substitute a spare physical core for a logical core. -/
  | dspareWrite
  /-- R396: Partition 0 changes a partition-table entry, subject to its rules. -/
  | partitionTableWrite
  /-- R393: A write to a control register that has no row of its own. -/
  | controlRegisterWrite
  /-- R482: Mark a gang's fibres halt-pending. -/
  | dbgHalt
  /-- R482: Resume a gang's halted fibres. -/
  | dbgResume
  /-- R482: Resume a gang's halted fibres to their next stop site. -/
  | dbgStep
  /-- R485: Start the invalidation of a fetch line on a die. -/
  | dicinvWrite
  /-- R485: A fetch-line invalidation completes and SEQ advances. -/
  | dicinvComplete
  /-- R486: The sample down-counter reaches zero and the next batch's fibre is tagged. -/
  | sampleTrigger
  /-- R486: A tagged instruction finishes and its sample record is written. -/
  | sampleRecordWrite
  /-- R490: Power-on starts a cold reset. -/
  | powerOn
  /-- R490: A management-port command starts a cold or warm reset. -/
  | mgmtResetCommand
  /-- R491: A write to RSTCMD starts a warm reset. -/
  | rstcmdWarmReset
  /-- R493: Start checking the staging image's signatures. -/
  | fwVerify
  /-- R493: Firmware verification ends, verified or refused. -/
  | fwVerifyDone
  /-- R493: Start copying a verified staging image to the image region. -/
  | fwCommit
  /-- R493: The firmware commit ends and the image is marked valid. -/
  | fwCommitDone
  /-- R494: The recovery loader receives an image over MCTP and commits it if verified. -/
  | recoveryImage
  /-- R495: A quote over the measurements and a nonce is signed with both keys. -/
  | attestationQuote
  /-- R498: Write a die's throttle group or step cap, scheduling a group step change. -/
  | tgctlWrite
  /-- R498: At t + 1,000 ns every group member sets CUR to the group minimum. -/
  | clockStepApply
  /-- R499: The junction reaches 105 °C and the thermal limit drops one step. -/
  | junctionLimitReached
  /-- R499: Every 100 µs while hot, the thermal limit falls one step. -/
  | thermalStepDown
  /-- R499: Every 1 ms while recovering, the thermal limit rises one step. -/
  | thermalStepUp
  /-- R499: At 115 °C the die's clocks stop and the package takes a warm reset. -/
  | thermalTrip
  /-- R386: An ordinary RV64 load, store, AMO, LR/SC or fetch of a service core is checked against its levee, translated and performed. -/
  | serviceCoreAccess
  /-- R493: Power to the package is lost, possibly during a firmware commit, which leaves the image region invalid. -/
  | powerLoss
  deriving DecidableEq, Repr

end Sys2Proof
end

