-- ==== Sys2Proof/Machine/Forms.lean ====
section
/-! DEFINITION. The codes of the operand fields (08 R195 to R203), what each type and width is, and the operand
constraints that order 1 of 08 R216 checks beside the fixed fields (R197, R199 and each form's own table of types,
roundings and codes). -/

namespace Sys2Proof

/-- The 5-bit TYPE code of R201. -/
def Ty.code : Ty → BitVec 5
  | .i8 => 0x00 | .i16 => 0x01 | .i32 => 0x02 | .i64 => 0x03 | .i4 => 0x04 | .n8 => 0x05 | .n16 => 0x06
  | .n32 => 0x07 | .n64 => 0x08 | .n4 => 0x09 | .f64 => 0x0A | .f32 => 0x0B | .f16 => 0x0C | .bf16 => 0x0D
  | .e4m3 => 0x0E | .e5m2 => 0x0F | .e3m2 => 0x10 | .e2m3 => 0x11 | .e2m1 => 0x12 | .e8m0 => 0x13 | .x128 => 0x14

/-- The element width of a type in bits (R201, 11 R263). -/
def Ty.width : Ty → Nat
  | .i8 | .n8 | .e4m3 | .e5m2 | .e8m0 => 8
  | .i16 | .n16 | .f16 | .bf16 => 16
  | .i32 | .n32 | .f32 => 32
  | .i64 | .n64 | .f64 => 64
  | .i4 | .n4 | .e2m1 => 4
  | .e3m2 | .e2m3 => 6
  | .x128 => 128

/-- The signed integer types. -/
def Ty.signed : Ty → Bool
  | .i4 | .i8 | .i16 | .i32 | .i64 => true
  | _ => false

/-- INT of R268. -/
def Ty.isInt : Ty → Bool
  | .i8 | .i16 | .i32 | .i64 | .n8 | .n16 | .n32 | .n64 => true
  | _ => false

/-- INT4 of R277. -/
def Ty.isInt4 : Ty → Bool
  | .i4 | .n4 => true
  | _ => false

/-- FP of R272. -/
def Ty.isFP : Ty → Bool
  | .f64 | .f32 | .f16 | .bf16 => true
  | _ => false

/-- FL of R277: every floating-point format of R57. -/
def Ty.isFL : Ty → Bool
  | .f64 | .f32 | .f16 | .bf16 | .e4m3 | .e5m2 | .e3m2 | .e2m3 | .e2m1 => true
  | _ => false

/-- The types class S admits, codes 0x00 to 0x09 (R201). -/
def Ty.isScalar (t : Ty) : Bool := t.isInt || t.isInt4

/-- The signed types of class S. -/
def Ty.isSigned (t : Ty) : Bool := t.signed

/-- The unsigned types of class S. -/
def Ty.isUnsigned (t : Ty) : Bool := t.isScalar && !t.signed

/-- The signed types of INT. -/
def Ty.isSInt (t : Ty) : Bool := t.isInt && t.signed

/-- BITS of R269. -/
def Ty.isBits (t : Ty) : Bool := t.isInt || t.isFP

/-- INT and FP (R285). -/
def Ty.isIntFP (t : Ty) : Bool := t.isInt || t.isFP

/-- Every type but .x128 (R271; ANY32 with ANY64, R281). -/
def Ty.isNotX128 (t : Ty) : Bool := t != .x128

/-- The types of VIOTA (R281). -/
def Ty.is32 (t : Ty) : Bool := t == .i32 || t == .n32

/-- The types of VEXP2, VLOG2, VRCP and VRSQ (R279). -/
def Ty.isSmallFP (t : Ty) : Bool := t == .f32 || t == .f16 || t == .bf16

/-- The types of VDOT2 (R280). -/
def Ty.isDot2 (t : Ty) : Bool := t == .i16 || t == .n16 || t == .f16 || t == .bf16

/-- The types of VDOT4 (R280). -/
def Ty.isDot4 (t : Ty) : Bool := t == .i8 || t == .n8 || t == .e4m3 || t == .e5m2

/-- The types of VPACK and VUNPK (R278). -/
def Ty.isPacked (t : Ty) : Bool := decide (t.width ≤ 16)

/-- ANY32 of R281. -/
def Ty.isAny32 (t : Ty) : Bool := decide (t.width ≤ 32)

/-- ANY64 of R281. -/
def Ty.isAny64 (t : Ty) : Bool := decide (t.width = 64)

/-- The 4-bit COND code of R203. -/
def Cond.code : Cond → BitVec 4
  | .eq => 0 | .ne => 1 | .hs => 2 | .lo => 3 | .mi => 4 | .pl => 5 | .vs => 6 | .vc => 7 | .hi => 8 | .ls => 9
  | .ge => 10 | .lt => 11 | .gt => 12 | .le => 13 | .always => 14

/-- The 3-bit RND code of R61. -/
def Rnd.code : Rnd → BitVec 3
  | .rne => 0 | .rtz => 1 | .rup => 2 | .rdn => 3 | .rsr => 4

/-- The 4-bit WIDTH code of R202. -/
def Width.code : Width → BitVec 4
  | .n8 => 0 | .i8 => 1 | .n16 => 2 | .i16 => 3 | .n32 => 4 | .i32 => 5 | .n64 => 6 | .i64 => 7 | .f32 => 8
  | .x128 => 9 | .f64 => 10

/-- The access size in bytes (R202, 12 R293). -/
def Width.bytes : Width → Nat
  | .n8 | .i8 => 1
  | .n16 | .i16 => 2
  | .n32 | .i32 | .f32 => 4
  | .n64 | .i64 | .f64 => 8
  | .x128 => 16

/-- The widths whose loads sign-extend (R293). -/
def Width.signed : Width → Bool
  | .i8 | .i16 | .i32 | .i64 => true
  | _ => false

/-- The 4-bit SCOPE code of R202. -/
def Scope.code : Scope → BitVec 4
  | .wg => 0 | .cl => 1 | .di => 2 | .pk => 3 | .h1 => 4 | .h2 => 5 | .h3 => 6 | .h4 => 7 | .h5 => 8 | .h6 => 9
  | .h7 => 10 | .h8 => 11 | .h9 => 12 | .h10 => 13 | .h11 => 14 | .sys => 15

/-- The 2-bit ORD code of R202. -/
def Ord.code : Ord → BitVec 2
  | .rlx => 0 | .acq => 1 | .rel => 2 | .ar => 3

/-- The counter code of R317. -/
def Ctr.code : Ctr → BitVec 4
  | .ocm => 0 | .ocf => 1 | .ocg => 2 | .occ => 3 | .oca => 4 | .oci => 5

/-- The selector of R258. -/
def SReg.code : SReg → BitVec 8
  | .wid => 0x00 | .wf0 => 0x01 | .wf1 => 0x02 | .wf2 => 0x03 | .wf3 => 0x04 | .wf4 => 0x05 | .wf5 => 0x06
  | .lane => 0x07 | .fwidth => 0x08 | .gang => 0x09 | .core => 0x0A | .clus => 0x0B | .die => 0x0C | .chip => 0x0D
  | .clk => 0x0E | .partw => 0x0F | .ucause => 0x10 | .upc => 0x11 | .uinfo => 0x12 | .fmode => 0x13
  | .lkst0 => 0x14 | .lkst1 => 0x15 | .lkst2 => 0x16 | .lkst3 => 0x17 | .flags => 0x18 | .lsdepth => 0x19
  | .ocnt => 0x1A | .fbatch => 0x1B

/-- The registers of R258 that SSETSR may write. -/
def SReg.writable : SReg → Bool
  | .fmode | .flags => true
  | _ => false

/-- The format code of R151. -/
def MxFmt.code : MxFmt → BitVec 4
  | .i8 => 0 | .i4 => 1 | .e4m3 => 2 | .e5m2 => 3 | .e3m2 => 4 | .e2m3 => 5 | .e2m1 => 6 | .bf16 => 7 | .f16 => 8

/-- The formats that R151 marks for B. -/
def MxFmt.asB (f : MxFmt) : Bool := f != .f16

/-- The formats that R151 marks for scales. -/
def MxFmt.scaled : MxFmt → Bool
  | .e4m3 | .e5m2 | .e3m2 | .e2m3 | .e2m1 => true
  | _ => false

/-- A V register index that an operand of width `w` bits may name (R197). -/
def vregWf (w : Nat) (n : BitVec 8) : Bool :=
  if w = 64 then n.toNat % 2 == 0 else if w = 128 then n.toNat % 4 == 0 else true

/-- What a field of a class V form holds (11 R265). -/
inductive VField where
  /-- An element register of the form's type. -/
  | val
  /-- A V register that R263 or the form reads as 32 bits, or an uninterpreted 8-bit code. -/
  | reg
  /-- A control operand (source B only). -/
  | ctl
  /-- Sb or IMM58 only (source B only). -/
  | sca
  /-- A scalar register. -/
  | scalar
  /-- A mask destination. -/
  | mask
  /-- A code below a limit. -/
  | below (n : Nat)
  /-- Unused: zero, or no source B. -/
  | zero
  deriving DecidableEq, Repr

/-- Field D, A or C of a class V form of type `t`. -/
def VField.ok (k : VField) (t : Ty) (x : BitVec 8) : Bool :=
  match k with
  | .val => vregWf t.width x
  | .reg | .ctl | .sca => true
  | .scalar => decide (x.toNat < 64)
  | .mask => decide (x.toNat < 16) && x != 0
  | .below n => decide (x.toNat < n)
  | .zero => x == 0

/-- Source B of a class V form of type `t` (R264). -/
def VField.okB (k : VField) (t : Ty) (b : VSrc) : Bool :=
  match k, b with
  | .val, .vec n => vregWf t.width n
  | .val, .sca _ => true
  | .val, .long _ => t != .x128
  | .ctl, .vec _ => true
  | .ctl, .sca _ => true
  | .ctl, .long _ => true
  | .sca, .sca _ => true
  | .sca, .long _ => true
  | .zero, .absent => true
  | _, _ => false

/-- A vector source B that is a V register. -/
def VSrc.isVec : VSrc → Bool
  | .vec _ => true
  | _ => false

/-- A class V form: the types it admits, whether it rounds, whether SAT is allowed, and its fields. -/
def vecWf (o : VOp) (types : Ty → Bool) (rnd sat : Bool) (d a b c : VField) : Bool :=
  types o.ty && (rnd || o.rnd == .rne) && (sat || !o.sat) && d.ok o.ty o.d && a.ok o.ty o.a && b.okB o.ty o.b
    && c.ok o.ty o.c

/-- The number of fields of a packed lane word (R278). -/
def packCapacity (t : Ty) : Nat :=
  match t.width with
  | 4 => 8
  | 6 => 4
  | 8 => 4
  | _ => 2

/-- The operator codes of VSCAN (R283). -/
def scanOp (c : BitVec 8) : Bool := decide (c.toNat < 14) && decide (c.toNat % 8 < 6)

/-- The types an operator of VSCAN or VRED admits (R283): FP for add, min and max only. -/
def scanTypes (c : BitVec 8) (t : Ty) : Bool := t.isInt || (t.isFP && decide (c.toNat % 8 < 3))

/-- RND may be other than .rne for floating .add, and is never .rsr (R283). -/
def scanRounds (o : VOp) : Bool := o.ty.isFP && decide (o.c.toNat % 8 = 0) && o.rnd != .rsr

/-- The destinations of a conversion from or to .x128 (R277). -/
def drainTy : Ty → Bool
  | .f32 | .bf16 | .f16 | .e4m3 | .e5m2 | .e2m1 | .i32 => true
  | _ => false

/-- The pairs of R277, with the rounding and saturation each admits. -/
def cvtPair (src dst : Ty) (rnd : Rnd) (sat : Bool) : Bool :=
  let int (t : Ty) : Bool := t.isInt || t.isInt4
  if src == dst then false
  else if src == .x128 then drainTy dst && !(sat && dst == .i32)
  else if dst == .x128 then (src.isFL || int src) && rnd == .rne && !sat
  else if dst == .e8m0 then (src.isFL || int src) && rnd == .rne && !sat
  else if src == .e8m0 then dst.isFL
  else if int src && int dst then rnd == .rne
  else if src.isFL && int dst then !sat
  else true

/-- VCVT (R277). -/
def cvtWf (o : CvtOp) : Bool :=
  cvtPair o.src o.ty o.rnd o.sat && vregWf o.ty.width o.d && vregWf o.src.width o.a

/-- A V data register of a load or store (R197, 12 R293). -/
def loadWf (d : BitVec 8) (w : Width) : Bool := vregWf (8 * w.bytes) d

/-- The widths an atomic operator accepts (R301). -/
def atomWidth (p : AtomOpr) (w : Width) : Bool :=
  match p with
  | .ld | .st | .xchg | .cas => decide (4 ≤ w.bytes)
  | .add | .and | .or | .xor | .min | .max => w == .n32 || w == .i32 || w == .n64 || w == .i64
  | .fadd | .fmin | .fmax => w == .f32 || w == .f64

/-- ATL and ATG with operator `p` (R288, R289, R301). -/
def atomWf (p : AtomOpr) (o : AtomOp) : Bool :=
  atomWidth p o.w
    && (match p with
        | .ld => (o.ord == .rlx || o.ord == .acq) && o.c == 0 && loadWf o.d o.w
        | .st => (o.ord == .rlx || o.ord == .rel) && o.d == 0 && loadWf o.c o.w && o.look == 0
        | _ => loadWf o.d o.w && loadWf o.c o.w)

/-- REDG with operator `p` (R288, R301). -/
def redgWf (p : AtomOpr) (o : AtomOp) : Bool :=
  atomWidth p o.w && (o.ord == .rlx || o.ord == .rel) && o.d == 0 && loadWf o.c o.w && o.look == 0

/-- The WIDTH an accrue tag accepts (R307). -/
def acrWidth (t : AcrTag) (w : Width) : Bool :=
  match t with
  | .iadd32 => w == .n32 || w == .i32
  | .iadd64 | .or | .and | .xor => w == .n64 || w == .i64
  | .fadd32 | .fmin32 | .fmax32 => w == .f32
  | .xadd => w == .f32 || w == .n16
  | .iminu | .imaxu => w == .n32
  | .imins | .imaxs => w == .i32

/-- ACR with tag `t` (R307): the scale is given for XADD only. -/
def acrWf (t : AcrTag) (o : AcrOp) : Bool :=
  acrWidth t o.w && loadWf o.d o.w && (t == .xadd || o.scale == 0)

/-- A descriptor block of `k` registers ends at S61 or below (13 R328). -/
def blockWf (k : Nat) (a : BitVec 6) : Bool := decide (a.toNat + k - 1 ≤ 61)

/-- FLCOPY with a block of `k` registers (R333). -/
def flcopyWf (k : Nat) (o : FlcopyOp) : Bool :=
  blockWf k o.a
    && !(o.out && (o.mc || o.cred.isSome || o.dg.isSome || o.final))
    && !(o.final && o.dg.isNone)
    && (match o.opt with
        | .none => !(o.mc || o.final)
        | .reg b => (o.mc || o.final) && b != 0
        | .long _ => o.mc || o.final)

/-- A LOOP count in IMM58 is 0 to 2^32 - 1 (R242). -/
def loopWf (o : LoopOp) : Bool :=
  match o.count with
  | .long n _ => decide (n.toNat < 2 ^ 32)
  | _ => true

/-- An immediate anchor is -512 to 511 (R347). -/
def mxinitWf (o : MxinitOp) : Bool :=
  match o.anchor with
  | .long v => decide (-512 ≤ v.toInt) && decide (v.toInt ≤ 511)
  | .reg _ => true

/-- MXLOOP (R346): block of 5 registers, an immediate count of 1 to 65,535, scales with a scaled format only. -/
def mxloopWf (o : MxloopOp) : Bool :=
  blockWf 5 o.a && (!o.ascale || o.fmt.scaled)
    && (match o.count with
        | .long v => decide (1 ≤ v.toInt) && decide (v.toInt ≤ 65535)
        | .reg _ => true)

/-- MCSR and MCLR (R351): their types, and .pk or wider. -/
def mcWf (o : McOp) : Bool :=
  blockWf 3 o.a && (o.ty == .bf16 || o.ty == .f32 || o.ty == .i32 || o.ty == .x128)
    && o.scope != .wg && o.scope != .cl && o.scope != .di

/-- IOLD, IOST and DBELL (R357): WIDTH 4 to 7. -/
def ioWf (o : IoOp) : Bool := o.w == .n32 || o.w == .i32 || o.w == .n64 || o.w == .i64

/-- LV.INFO's selectors are 0 to 5 (16 R390). -/
def lvInfoWf (o : LvInfoOp) : Bool := decide (o.sel.toNat ≤ 5)

/-- A well-formed instruction: its operands lie inside the encodings that order 1 of R216 admits. -/
def formOk : Instr → Bool
  | .b _ => true
  | .bmz _ => true
  | .bmnz _ => true
  | .bmall _ => true
  | .bmnall _ => true
  | .bri _ => true
  | .call _ => true
  | .calli _ => true
  | .ret _ => true
  | .loop o => loopWf o
  | .spawn _ => true
  | .upret _ => true
  | .trap _ => true
  | .sysc _ => true
  | .launch _ => true
  | .sadd o => o.ty.isScalar
  | .ssub o => o.ty.isScalar
  | .smul o => o.ty.isScalar
  | .smulh o => o.ty.isSigned
  | .smulhu o => o.ty.isUnsigned
  | .sdiv o => o.ty.isSigned
  | .sdivu o => o.ty.isUnsigned
  | .srem o => o.ty.isSigned
  | .sremu o => o.ty.isUnsigned
  | .sand o => o.ty.isScalar
  | .sor o => o.ty.isScalar
  | .sxor o => o.ty.isScalar
  | .sandn o => o.ty.isScalar
  | .sshl o => o.ty.isScalar
  | .sshr o => o.ty.isScalar
  | .ssra o => o.ty.isScalar
  | .srot o => o.ty.isScalar
  | .smin o => o.ty.isSigned
  | .smax o => o.ty.isSigned
  | .sminu o => o.ty.isUnsigned
  | .smaxu o => o.ty.isUnsigned
  | .sclz o => o.ty.isScalar
  | .sctz o => o.ty.isScalar
  | .spop o => o.ty.isScalar
  | .sext o => o.ty.isScalar
  | .smov o => o.ty.isScalar
  | .sli o => o.ty.isScalar
  | .sadr _ => true
  | .sgetsr _ => true
  | .ssetsr o => o.sel.writable
  | .ssel o => o.ty.isScalar
  | .scmp o => o.ty.isScalar
  | .scmn o => o.ty.isScalar
  | .stst o => o.ty.isScalar
  | .kand o => o.d != 0
  | .kor o => o.d != 0
  | .kxor o => o.d != 0
  | .kandn o => o.d != 0
  | .knot o => o.d != 0
  | .kmov o => o.d != 0
  | .kpop _ => true
  | .kfirst _ => true
  | .kfroms o => o.d != 0
  | .ktos o => decide (o.n.toNat < 2)
  | .vadd o => vecWf o Ty.isInt false true .val .val .val .zero
  | .vsub o => vecWf o Ty.isInt false true .val .val .val .zero
  | .vmul o => vecWf o Ty.isInt false true .val .val .val .zero
  | .vmulh o => vecWf o Ty.isInt false false .val .val .val .zero
  | .vmad o => vecWf o Ty.isInt false true .val .val .val .val
  | .vabs o => vecWf o Ty.isSInt false true .val .val .zero .zero
  | .vneg o => vecWf o Ty.isSInt false true .val .val .zero .zero
  | .vmin o => vecWf o Ty.isInt false false .val .val .val .zero
  | .vmax o => vecWf o Ty.isInt false false .val .val .val .zero
  | .vavg o => vecWf o Ty.isInt false false .val .val .val .zero
  | .vabsd o => vecWf o Ty.isInt false true .val .val .val .zero
  | .vdiv o => vecWf o Ty.isInt false false .val .val .val .zero
  | .vrem o => vecWf o Ty.isInt false false .val .val .val .zero
  | .vand o => vecWf o Ty.isBits false false .val .val .val .zero
  | .vor o => vecWf o Ty.isBits false false .val .val .val .zero
  | .vxor o => vecWf o Ty.isBits false false .val .val .val .zero
  | .vandn o => vecWf o Ty.isBits false false .val .val .val .zero
  | .vnot o => vecWf o Ty.isBits false false .val .val .zero .zero
  | .vshl o => vecWf o Ty.isInt false false .val .val .ctl .zero
  | .vshr o => vecWf o Ty.isInt false false .val .val .ctl .zero
  | .vrot o => vecWf o Ty.isInt false false .val .val .ctl .zero
  | .vbext o => vecWf o Ty.isInt false false .val .val .ctl .reg
  | .vbins o => vecWf o Ty.isInt false false .val .val .val .reg
  | .vclz o => vecWf o Ty.isInt false false .val .val .zero .zero
  | .vctz o => vecWf o Ty.isInt false false .val .val .zero .zero
  | .vpop o => vecWf o Ty.isInt false false .val .val .zero .zero
  | .vbrev o => vecWf o Ty.isInt false false .val .val .zero .zero
  | .vcmp o => vecWf o Ty.isInt false false .mask .val .val (.below 6)
  | .vtest o => vecWf o Ty.isInt false false .mask .val .val .zero
  | .vsel o => vecWf o Ty.isNotX128 false false .val .val .val (.below 16)
  | .vfadd o => vecWf o Ty.isFP true false .val .val .val .zero
  | .vfsub o => vecWf o Ty.isFP true false .val .val .val .zero
  | .vfmul o => vecWf o Ty.isFP true false .val .val .val .zero
  | .vfdiv o => vecWf o Ty.isFP true false .val .val .val .zero
  | .vfabs o => vecWf o Ty.isFP false false .val .val .zero .zero
  | .vfneg o => vecWf o Ty.isFP false false .val .val .zero .zero
  | .vfsgn o => vecWf o Ty.isFP false false .val .val .val .zero
  | .vfma o => vecWf o Ty.isFP true false .val .val .val .val
  | .vfms o => vecWf o Ty.isFP true false .val .val .val .val
  | .vfnma o => vecWf o Ty.isFP true false .val .val .val .val
  | .vfnms o => vecWf o Ty.isFP true false .val .val .val .val
  | .vfmin o => vecWf o Ty.isFP false false .val .val .val .zero
  | .vfmax o => vecWf o Ty.isFP false false .val .val .val .zero
  | .vfcmp o => vecWf o Ty.isFP false false .mask .val .val (.below 8)
  | .vfclass o => vecWf o Ty.isFL false false .reg .val .zero .zero
  | .vcvt o => cvtWf o
  | .vpack o => vecWf o Ty.isPacked false false .val .val .val (.below (packCapacity o.ty))
  | .vunpk o => vecWf o Ty.isPacked false false .val .val .zero (.below (packCapacity o.ty))
  | .vexp2 o => vecWf o Ty.isSmallFP false false .val .val .zero .zero
  | .vlog2 o => vecWf o Ty.isSmallFP false false .val .val .zero .zero
  | .vrcp o => vecWf o Ty.isSmallFP false false .val .val .zero .zero
  | .vrsq o => vecWf o Ty.isSmallFP false false .val .val .zero .zero
  | .vsqrt o => vecWf o Ty.isFP true false .val .val .zero .zero
  | .vdot2 o => vecWf o Ty.isDot2 o.ty.isFL o.ty.isInt .reg .reg .ctl .reg
  | .vdot4 o => vecWf o Ty.isDot4 o.ty.isFL o.ty.isInt .reg .reg .ctl .reg
  | .vmov o => vecWf o (fun _ => true) false false .val .zero .val .zero && (o.ty != .x128 || o.b.isVec)
  | .vbcast o => vecWf o Ty.isNotX128 false false .val .val .sca .zero
  | .viota o => vecWf o Ty.is32 false false .val .zero .val .reg
  | .vgetsrs o => vecWf o (· == .n32) false false .val .zero .zero .zero
  | .vsetsrs o => vecWf o (· == .n32) false false .zero .val .zero .zero && o.look == 0
  | .vlane o => vecWf o Ty.isNotX128 false false .scalar .val .sca .zero && o.m == 0
  | .vins o => vecWf o Ty.isNotX128 false false .val .scalar .sca .zero && o.m == 0
  | .vshuf o => vecWf o Ty.isNotX128 false false .val .val .ctl .zero
  | .vrotl o => vecWf o Ty.isNotX128 false false .val .val .ctl .zero
  | .vshup o => vecWf o Ty.isNotX128 false false .val .val .ctl .zero
  | .vshdn o => vecWf o Ty.isNotX128 false false .val .val .ctl .zero
  | .vbfly o => vecWf o Ty.isNotX128 false false .val .val .ctl .zero
  | .vscan o => vecWf o (scanTypes o.c) (scanRounds o) false .val .val .zero .reg && scanOp o.c
  | .vred o => vecWf o (scanTypes o.c) (scanRounds o) false .val .val .zero .reg && decide (o.c.toNat < 6)
  | .vmatch o => vecWf o Ty.isIntFP false false .mask .val .zero .reg && o.c != o.a && !(o.ty.isAny64 && o.c == o.a + 1)
  | .vcompact o => vecWf o Ty.isNotX128 false false .val .val .zero .zero
  | .vexpand o => vecWf o Ty.isNotX128 false false .val .val .zero .zero
  | .vballot o => vecWf o Ty.isNotX128 false false .scalar .val .zero (.below 2)
  | .vlds o => loadWf o.d o.w
  | .vsts o => loadWf o.d o.w && o.look == 0
  | .vldsu o => loadWf o.d o.w
  | .vldg o => loadWf o.d o.w
  | .vstg o => loadWf o.d o.w && o.look == 0
  | .vldgu o => loadWf o.d o.w
  | .vpref o => o.d == 0 && o.look == 0
  | .vldp o => loadWf o.d o.w
  | .vstp o => loadWf o.d o.w && o.look == 0
  | .sldg o => o.w != .x128
  | .sstg o => o.w != .x128 && o.look == 0
  | .slds o => o.w != .x128
  | .ssts o => o.w != .x128 && o.look == 0
  | .atlLd o => atomWf .ld o && o.scope == .wg
  | .atlSt o => atomWf .st o && o.scope == .wg
  | .atlXchg o => atomWf .xchg o && o.scope == .wg
  | .atlCas o => atomWf .cas o && o.scope == .wg
  | .atlAdd o => atomWf .add o && o.scope == .wg
  | .atlAnd o => atomWf .and o && o.scope == .wg
  | .atlOr o => atomWf .or o && o.scope == .wg
  | .atlXor o => atomWf .xor o && o.scope == .wg
  | .atlMin o => atomWf .min o && o.scope == .wg
  | .atlMax o => atomWf .max o && o.scope == .wg
  | .atlFadd o => atomWf .fadd o && o.scope == .wg
  | .atlFmin o => atomWf .fmin o && o.scope == .wg
  | .atlFmax o => atomWf .fmax o && o.scope == .wg
  | .atgLd o => atomWf .ld o
  | .atgSt o => atomWf .st o
  | .atgXchg o => atomWf .xchg o
  | .atgCas o => atomWf .cas o
  | .atgAdd o => atomWf .add o
  | .atgAnd o => atomWf .and o
  | .atgOr o => atomWf .or o
  | .atgXor o => atomWf .xor o
  | .atgMin o => atomWf .min o
  | .atgMax o => atomWf .max o
  | .atgFadd o => atomWf .fadd o
  | .atgFmin o => atomWf .fmin o
  | .atgFmax o => atomWf .fmax o
  | .redgAdd o => redgWf .add o
  | .redgAnd o => redgWf .and o
  | .redgOr o => redgWf .or o
  | .redgXor o => redgWf .xor o
  | .redgMin o => redgWf .min o
  | .redgMax o => redgWf .max o
  | .redgFadd o => redgWf .fadd o
  | .redgFmin o => redgWf .fmin o
  | .redgFmax o => redgWf .fmax o
  | .acrIadd32 o => acrWf .iadd32 o
  | .acrIadd64 o => acrWf .iadd64 o
  | .acrFadd32 o => acrWf .fadd32 o
  | .acrXadd o => acrWf .xadd o
  | .acrFmin32 o => acrWf .fmin32 o
  | .acrFmax32 o => acrWf .fmax32 o
  | .acrImins o => acrWf .imins o
  | .acrIminu o => acrWf .iminu o
  | .acrImaxs o => acrWf .imaxs o
  | .acrImaxu o => acrWf .imaxu o
  | .acrOr o => acrWf .or o
  | .acrAnd o => acrWf .and o
  | .acrXor o => acrWf .xor o
  | .lck _ => true
  | .lckcan _ => true
  | .ulk _ => true
  | .bindWeir _ => true
  | .bindLock _ => true
  | .bindSync _ => true
  | .unbind _ => true
  | .fenceAcq _ => true
  | .fenceRel _ => true
  | .fenceAr _ => true
  | .winit _ => true
  | .warr o => o.m == 0
  | .warrLanes _ => true
  | .warrFar o => o.m == 0
  | .warrFarLanes _ => true
  | .wwait _ => true
  | .wqryLo _ => true
  | .wqryHi _ => true
  | .wqryHandle _ => true
  | .waitoc _ => true
  | .flcopy1d o => flcopyWf 2 o
  | .flcopy2d o => flcopyWf 4 o
  | .flcopy3d o => flcopyWf 6 o
  | .flwait _ => true
  | .gather o => blockWf 6 o.a
  | .scatter o => blockWf 6 o.a
  | .mxloadb o => o.t == 0 && o.fmt.asB && (o.scale.isNone || o.fmt.scaled)
  | .mxinit o => mxinitWf o
  | .mxmul o => (o.scale.isNone || o.fmt.scaled)
  | .mxloop o => mxloopWf o
  | .mxdrain o => drainTy o.ty && !(o.sat && o.ty == .i32)
  | .mxswap _ => true
  | .mxzero _ => true
  | .mxstat _ => true
  | .mcsr o => mcWf o
  | .mclr o => mcWf o
  | .iold o => ioWf o && !o.wg
  | .iost o => ioWf o && !o.wg && o.look == 0
  | .dbell o => ioWf o && o.look == 0
  | .lvLd _ => true
  | .lvSt _ => true
  | .lvMove _ => true
  | .lvStep _ => true
  | .lvDrop _ => true
  | .lvNarrow _ => true
  | .lvNarrowx _ => true
  | .lvLock _ => true
  | .lvOpen _ => true
  | .lvInfo o => lvInfoWf o
  | .lvUntag _ => true
  | .lvSame _ => true
  | .fend => true
  | .yield => true
  | .halt => true
  | .nop => true
  | .bkpt => true
  | .flseal => true
  | .flstage => true
  | .holdTimeout => true
  | .pendingResultWrite => true
  | .upcallPost => true
  | .upcallReflect => true
  | .trapResume => true
  | .workgroupEnd => true
  | .lqpostWrite => true
  | .launchAnswer => true
  | .furrowPlace => true
  | .workSteal => true
  | .dieShareStart => true
  | .furrowPreempt => true
  | .pcmdSwapGang => true
  | .pcmdDrain => true
  | .pcmdSave => true
  | .pcmdFlushRestart => true
  | .pcmdKill => true
  | .pcmdChoice => true
  | .gangSwapOut => true
  | .restore => true
  | .fqheadWrite => true
  | .warrFarArrival => true
  | .wwaitTimeout => true
  | .flumeCopyAccept => true
  | .flumeSectorLand => true
  | .flumeSectorFail => true
  | .flumeCopyComplete => true
  | .xresumeRetry => true
  | .xresumeFailXlate => true
  | .xresumeFailPerm => true
  | .gatherComplete => true
  | .scatterComplete => true
  | .bankLoadEnd => true
  | .matrixStepStart => true
  | .matrixStepEnd => true
  | .matrixCommandComplete => true
  | .drainStart => true
  | .drainComplete => true
  | .mxzeroEffect => true
  | .mxstatResult => true
  | .homeRequestArrival => true
  | .collectionEnd => true
  | .acrNodeMerge => true
  | .farAtomicPerform => true
  | .partialEvict => true
  | .lineWriteback => true
  | .lockRequestArrival => true
  | .turnoutEntryTaken => true
  | .lockGrantArrival => true
  | .lockTimeout => true
  | .deadlockProbe => true
  | .lckcanAnswer => true
  | .wblimExpiry => true
  | .xinvPartition => true
  | .xinvRange => true
  | .invalidationComplete => true
  | .atsInvalidateTimeout => true
  | .atsTranslationRequest => true
  | .priPageRequest => true
  | .migcmdGo => true
  | .migrationEnd => true
  | .lgrowWrite => true
  | .invalidationAck => true
  | .nalronPortDown => true
  | .nalronPortUp => true
  | .linkFailureTimeout => true
  | .flitCrcFail => true
  | .pauseFlit => true
  | .resumeFlit => true
  | .npctlRetrain => true
  | .culvertLaneFail => true
  | .snoopFilterEvict => true
  | .nwctlWrite => true
  | .gctlWrite => true
  | .groupAbsentClear => true
  | .mcsrContributionArrival => true
  | .mclrRequestArrival => true
  | .roundCombined => true
  | .collectiveComplete => true
  | .memberWithdrawal => true
  | .ioldCompletion => true
  | .ioWriteSent => true
  | .doorbellSend => true
  | .completionTimeout => true
  | .endpointWrite => true
  | .endpointRead => true
  | .interruptWrite => true
  | .aerEvent => true
  | .dpcTrigger => true
  | .rootPortLinkChange => true
  | .hotrst => true
  | .prgResponseSuccess => true
  | .prgResponseInvalidRequest => true
  | .prgResponseFailure => true
  | .configAccess => true
  | .sltsyncWrite => true
  | .sltsyncComplete => true
  | .syspostWrite => true
  | .scrubCheckStart => true
  | .shardCheckEnd => true
  | .alertBackoffEnd => true
  | .periodicRefresh => true
  | .stackTemperatureChange => true
  | .dspareWrite => true
  | .partitionTableWrite => true
  | .controlRegisterWrite => true
  | .dbgHalt => true
  | .dbgResume => true
  | .dbgStep => true
  | .dicinvWrite => true
  | .dicinvComplete => true
  | .sampleTrigger => true
  | .sampleRecordWrite => true
  | .powerOn => true
  | .mgmtResetCommand => true
  | .rstcmdWarmReset => true
  | .fwVerify => true
  | .fwVerifyDone => true
  | .fwCommit => true
  | .fwCommitDone => true
  | .recoveryImage => true
  | .attestationQuote => true
  | .tgctlWrite => true
  | .clockStepApply => true
  | .junctionLimitReached => true
  | .thermalStepDown => true
  | .thermalStepUp => true
  | .thermalTrip => true
  | .serviceCoreAccess => true
  | .powerLoss => true

end Sys2Proof
end

