-- ==== Sys2Proof/Machine/Num.lean ====
section
/-! DEFINITION. Number formats and exact arithmetic (03): the floating-point formats of R57, rounding (R61 to R64),
the exact operations, conversions (R66, R67), anchored elements (R69 to R75), the transcendental functions (R79) and
the 4-, 6- and 8-bit storage of narrow elements (R56). -/

namespace Sys2Proof.Machine

/-! ## Integers -/

/-- The integer value of the low `w` bits of `x`, signed or not. -/
def intOf (w : Nat) (signed : Bool) (x : Nat) : Int :=
  let y := x % 2 ^ w
  if signed && decide (2 ^ w ≤ 2 * y) && decide (w ≠ 0) then (y : Int) - (2 ^ w : Nat) else y

/-- `x` modulo 2^w, as the bits that hold it (R60). -/
def wrapTo (w : Nat) (x : Int) : Nat := (x % ((2 ^ w : Nat) : Int)).toNat

/-- The least value of an integer type of width `w` (R60). -/
def minOf (w : Nat) (signed : Bool) : Int := if signed then -((2 ^ (w - 1) : Nat) : Int) else 0

/-- The greatest value of an integer type of width `w` (R60). -/
def maxOf (w : Nat) (signed : Bool) : Int := if signed then ((2 ^ (w - 1) : Nat) : Int) - 1 else ((2 ^ w : Nat) : Int) - 1

/-- SatTo(type, x) of R60. -/
def satTo (w : Nat) (signed : Bool) (x : Int) : Int :=
  if x < minOf w signed then minOf w signed else if maxOf w signed < x then maxOf w signed else x

/-- Floor of the base-2 logarithm, 0 for 0. -/
def log2 (m : Nat) : Nat := Nat.log2 m

/-- `n × 2^k` for a signed shift, rounded toward −∞. -/
def shiftInt (n : Int) (k : Int) : Int :=
  if 0 ≤ k then n * ((2 ^ k.toNat : Nat) : Int) else n / ((2 ^ (-k).toNat : Nat) : Int)

/-- Digit-by-digit integer square root: the greatest `r` with `r² ≤ n` among those whose bits from `k` up are `r`. -/
def isqrtBits (n r : Nat) : Nat → Nat
  | 0 => r
  | k + 1 => let t := r + 2 ^ k; isqrtBits n (if t * t ≤ n then t else r) k

/-- The integer square root. -/
def isqrt (n : Nat) : Nat := isqrtBits n 0 (log2 n / 2 + 1)

/-! ## Floating-point formats (R57) -/

/-- How a format encodes infinities and NaNs. -/
inductive Special where
  /-- All-ones exponent: infinity and NaN. -/
  | ieee
  /-- .e4m3: one NaN, no infinity. -/
  | nanOnly
  /-- .e3m2, .e2m3, .e2m1: neither. -/
  | finite
  deriving DecidableEq, Repr

/-- A floating-point format: exponent bits, mantissa bits, bias and special encodings. -/
structure Fmt where
  eb   : Nat
  mb   : Nat
  bias : Nat
  sp   : Special
  deriving DecidableEq, Repr

/-- The format of a floating type (R57); .f32 for any other type, which no caller names. -/
def fmtOf : Ty → Fmt
  | .f64 => ⟨11, 52, 1023, .ieee⟩
  | .f16 => ⟨5, 10, 15, .ieee⟩
  | .bf16 => ⟨8, 7, 127, .ieee⟩
  | .e4m3 => ⟨4, 3, 7, .nanOnly⟩
  | .e5m2 => ⟨5, 2, 15, .ieee⟩
  | .e3m2 => ⟨3, 2, 3, .finite⟩
  | .e2m3 => ⟨2, 3, 1, .finite⟩
  | .e2m1 => ⟨2, 1, 1, .finite⟩
  | _ => ⟨8, 23, 127, .ieee⟩

/-- An exact value: NaN, an infinity, a signed zero, or ±m × 2^e with m > 0. -/
inductive FV where
  | nan
  | inf (neg : Bool)
  | zero (neg : Bool)
  | fin (neg : Bool) (m : Nat) (e : Int)
  deriving DecidableEq, Repr

/-- ±m × 2^e, with zero of the given sign where m is 0. -/
def mkFin (neg : Bool) (m : Nat) (e : Int) : FV := if m = 0 then .zero neg else .fin neg m e

/-- The exponent of the smallest subnormal of a format. -/
def Fmt.gmin (f : Fmt) : Int := 1 - (f.bias : Int) - f.mb

/-- The encoding of max finite, without its sign. -/
def Fmt.maxCode (f : Fmt) : Nat :=
  match f.sp with
  | .ieee => (2 ^ f.eb - 1) * 2 ^ f.mb - 1
  | .nanOnly => 2 ^ (f.eb + f.mb) - 2
  | .finite => 2 ^ (f.eb + f.mb) - 1

/-- The sign bit of a format in place. -/
def Fmt.signBit (f : Fmt) (neg : Bool) : Nat := if neg then 2 ^ (f.eb + f.mb) else 0

/-- The canonical NaN (R57), or +0 in a format without NaN encodings (R66). -/
def Fmt.qnan (f : Fmt) : Nat :=
  match f.sp with
  | .ieee => (2 ^ f.eb - 1) * 2 ^ f.mb + 2 ^ (f.mb - 1)
  | .nanOnly => 2 ^ (f.eb + f.mb) - 1
  | .finite => 0

/-- ±Inf of R62: ±∞, the canonical NaN for .e4m3, ±max finite where the format is finite or SAT is set. -/
def Fmt.infCode (f : Fmt) (sat neg : Bool) : Nat :=
  if sat then f.signBit neg + f.maxCode
  else match f.sp with
    | .ieee => f.signBit neg + (2 ^ f.eb - 1) * 2 ^ f.mb
    | .nanOnly => f.qnan
    | .finite => f.signBit neg + f.maxCode

/-- The value of an encoding (R57). -/
def decodeFV (f : Fmt) (bits : Nat) : FV :=
  let neg := bits.testBit (f.eb + f.mb)
  let e := bits / 2 ^ f.mb % 2 ^ f.eb
  let m := bits % 2 ^ f.mb
  let special := match f.sp with
    | .ieee => decide (e = 2 ^ f.eb - 1)
    | .nanOnly => decide (e = 2 ^ f.eb - 1) && decide (m = 2 ^ f.mb - 1)
    | .finite => false
  if special then if f.sp = .ieee ∧ m = 0 then .inf neg else .nan
  else if e = 0 then mkFin neg m f.gmin
  else .fin neg (2 ^ f.mb + m) (f.gmin + e - 1)

/-- Whether a finite non-zero value lies below the min normal of a format. -/
def Fmt.below (f : Fmt) (m : Nat) (e : Int) : Bool := decide ((log2 m : Int) + e < 1 - (f.bias : Int))

/-- Whether a magnitude `q + rem / 2^k` (0 < rem < 2^k) is rounded away from zero; `r` is the draw of .rsr (R64). -/
def roundsUp (mode : Rnd) (neg : Bool) (q rem k r : Nat) : Bool :=
  match mode with
  | .rne => decide (2 ^ k < 2 * rem) || (decide (2 * rem = 2 ^ k) && decide (q % 2 = 1))
  | .rtz => false
  | .rup => !neg
  | .rdn => neg
  | .rsr =>
    if neg then !decide (r < (2 ^ k - rem) * 2 ^ 32 / 2 ^ k) else decide (r < rem * 2 ^ 32 / 2 ^ k)

/-- `m × 2^e` as a multiple of 2^g, rounded in mode. -/
def roundGrid (mode : Rnd) (neg : Bool) (m : Nat) (e g : Int) (r : Nat) : Nat :=
  if g ≤ e then m * 2 ^ (e - g).toNat
  else
    let k := (g - e).toNat
    let q := m / 2 ^ k
    let rem := m % 2 ^ k
    if rem = 0 then q else if roundsUp mode neg q rem k r then q + 1 else q

/-- RoundTo(fmt, mode, x) of R62, under .sat when `sat`; `r` is the draw of .rsr. -/
def roundTo (f : Fmt) (mode : Rnd) (sat : Bool) (r : Nat) : FV → Nat
  | .nan => f.qnan
  | .inf neg => f.infCode sat neg
  | .zero neg => f.signBit neg
  | .fin neg m e =>
    let b := (log2 m : Int) + e - f.mb
    let g := if b < f.gmin then f.gmin else b
    let q := roundGrid mode neg m e g r
    let code := (g - f.gmin).toNat * 2 ^ f.mb + q
    if code ≤ f.maxCode then f.signBit neg + code
    else match mode with
      | .rne | .rsr => f.infCode sat neg
      | .rtz => f.signBit neg + f.maxCode
      | .rup => if neg then f.signBit neg + f.maxCode else f.infCode sat neg
      | .rdn => if neg then f.infCode sat neg else f.signBit neg + f.maxCode

/-- In(v) of R272: a subnormal input reads as zero of its sign when FTZ is set. -/
def ftzIn (ftz : Bool) (f : Fmt) : FV → FV
  | .fin neg m e => if ftz && f.below m e then .zero neg else .fin neg m e
  | x => x

/-- The output rule of R272: zero of the sign below min normal when FTZ is set, else RoundTo. -/
def ftzOut (ftz : Bool) (f : Fmt) (mode : Rnd) (sat : Bool) (r : Nat) : FV → Nat
  | .fin neg m e => if ftz && f.below m e then f.signBit neg else roundTo f mode sat r (.fin neg m e)
  | x => roundTo f mode sat r x

/-- Next(g) of R64. -/
def nextSrs (g : Lane) : Lane :=
  let a := g ^^^ (g <<< 13)
  let b := a ^^^ (a >>> 17)
  b ^^^ (b <<< 5)

/-! ## Exact operations -/

/-- The value as a signed integer multiple of 2^k, for `k` not above its exponent. -/
def fvScaled (neg : Bool) (m : Nat) (e k : Int) : Int :=
  let x : Int := ((m * 2 ^ (e - k).toNat : Nat) : Int)
  if neg then -x else x

/-- −x. -/
def fvNeg : FV → FV
  | .nan => .nan
  | .inf s => .inf !s
  | .zero s => .zero !s
  | .fin s m e => .fin (!s) m e

/-- The integer `n` times 2^e, with zero of the given sign. -/
def fvOfInt (n e : Int) (zneg : Bool) : FV :=
  if n = 0 then .zero zneg else .fin (decide (n < 0)) n.natAbs e

/-- The exact sum; `rdn` gives the sign of an exact zero from opposite signs (R62). -/
def fvAdd (rdn : Bool) (x y : FV) : FV :=
  match x, y with
  | .nan, _ => .nan
  | _, .nan => .nan
  | .inf s, .inf t => if s = t then .inf s else .nan
  | .inf s, _ => .inf s
  | _, .inf t => .inf t
  | .zero s, .zero t => if s = t then .zero s else .zero rdn
  | .zero _, z => z
  | z, .zero _ => z
  | .fin s m e, .fin t n f =>
    let k := if e < f then e else f
    fvOfInt (fvScaled s m e k + fvScaled t n f k) k rdn

/-- The exact product. -/
def fvMul (x y : FV) : FV :=
  match x, y with
  | .nan, _ => .nan
  | _, .nan => .nan
  | .inf _, .zero _ => .nan
  | .zero _, .inf _ => .nan
  | .inf s, .inf t => .inf (s != t)
  | .inf s, .fin t _ _ => .inf (s != t)
  | .fin s _ _, .inf t => .inf (s != t)
  | .zero s, .zero t => .zero (s != t)
  | .zero s, .fin t _ _ => .zero (s != t)
  | .fin s _ _, .zero t => .zero (s != t)
  | .fin s m e, .fin t n f => .fin (s != t) (m * n) (e + f)

/-- A magnitude known to lie strictly between `q × 2^e` and `(q + 1) × 2^e`, or to equal the first where `exact`:
the odd value halfway stands for it, which every rounding to a coarser grid treats alike. -/
def sticky (neg : Bool) (q : Nat) (exact : Bool) (e : Int) : FV :=
  .fin neg (2 * q + bit (!exact)) (e - 1)

/-- The quotient, exact up to a sticky bit far below any rounding (R272, R273). -/
def fvDiv (x y : FV) : FV :=
  match x, y with
  | .nan, _ => .nan
  | _, .nan => .nan
  | .inf _, .inf _ => .nan
  | .zero _, .zero _ => .nan
  | .inf s, .zero t => .inf (s != t)
  | .inf s, .fin t _ _ => .inf (s != t)
  | .zero s, .inf t => .zero (s != t)
  | .fin s _ _, .inf t => .zero (s != t)
  | .zero s, .fin t _ _ => .zero (s != t)
  | .fin s _ _, .zero t => .inf (s != t)
  | .fin s m e, .fin t n f =>
    let k := 160 + log2 n
    let p := m * 2 ^ k
    sticky (s != t) (p / n) (decide (p % n = 0)) (e - f - k)

/-- The square root, exact up to a sticky bit (R79): √(−0) is −0, a negative input gives NaN. -/
def fvSqrt : FV → FV
  | .nan => .nan
  | .inf neg => if neg then .nan else .inf false
  | .zero neg => .zero neg
  | .fin neg m e =>
    if neg then .nan
    else
      let odd := decide (e % 2 = 1)
      let p := (if odd then 2 * m else m) * 2 ^ 320
      let q := isqrt p
      sticky false q (decide (q * q = p)) ((if odd then e - 1 else e) / 2 - 160)

/-- 1/√x, exact up to a sticky bit (R79). -/
def fvRsqrt : FV → FV
  | .nan => .nan
  | .inf neg => if neg then .nan else .zero false
  | .zero neg => .inf neg
  | .fin neg m e =>
    if neg then .nan
    else
      let odd := decide (e % 2 = 1)
      let n := if odd then 2 * m else m
      let p := 2 ^ 640
      let q := isqrt (p / n)
      sticky false q (decide (q * q * n = p)) (-((if odd then e - 1 else e) / 2) - 320)

/-- The sign-and-order comparison of two values that are not NaN: true when x < y, with −0 below +0 (R274). -/
def fvLess (x y : FV) : Bool :=
  let key : FV → Int × Nat × Int := fun
    | .inf true => (-3, 0, 0)
    | .fin true m e => (-2, m, e)
    | .zero true => (-1, 0, 0)
    | .zero false => (1, 0, 0)
    | .fin false m e => (2, m, e)
    | .inf false => (3, 0, 0)
    | .nan => (4, 0, 0)
  let (a, m, e) := key x
  let (b, n, f) := key y
  if a ≠ b then decide (a < b)
  else
    let k := if e < f then e else f
    let p := m * 2 ^ (e - k).toNat
    let q := n * 2 ^ (f - k).toNat
    if a < 0 then decide (q < p) else decide (p < q)

/-- Whether two values that are not NaN are equal, −0 equal to +0 (R275). -/
def fvEq (x y : FV) : Bool :=
  match x, y with
  | .zero _, .zero _ => true
  | _, _ => !(fvLess x y) && !(fvLess y x)

/-- x < y as numbers, −0 equal to +0 (R275). -/
def fvLt (x y : FV) : Bool := fvLess x y && !fvEq x y

/-- The lesser or greater under the order of R274, the canonical NaN where either is NaN. -/
def fvPick (greater : Bool) (x y : FV) : FV :=
  match x, y with
  | .nan, _ => .nan
  | _, .nan => .nan
  | x, y => if fvLess x y then (if greater then y else x) else (if greater then x else y)

/-! ## Conversions (R66, R67) -/

/-- A finite value rounded to an integer in mode. -/
def roundInt (mode : Rnd) (neg : Bool) (m : Nat) (e : Int) (r : Nat) : Int :=
  let q : Int := roundGrid mode neg m e 0 r
  if neg then -q else q

/-- Conversion of a value to an integer type of width `w`: rounded, then SatTo; NaN gives 0. -/
def cvtToInt (w : Nat) (signed : Bool) (mode : Rnd) (r : Nat) : FV → Int
  | .nan => 0
  | .inf neg => if neg then minOf w signed else maxOf w signed
  | .zero _ => 0
  | .fin neg m e => satTo w signed (roundInt mode neg m e r)

/-- Conversion to .e8m0 (R67). -/
def cvtToE8m0 : FV → Nat
  | .nan => 0xFF
  | .inf _ => 0xFF
  | .zero _ => 0
  | .fin _ m e =>
    let b := (log2 m : Int) + e + 127
    if b < 0 then 0 else if 254 < b then 254 else b.toNat

/-- The value of an .e8m0 code (R67). -/
def decodeE8m0 (c : Nat) : FV := if c % 256 = 255 then .nan else .fin false 1 ((c % 256 : Nat) - 127 : Int)

/-- The exact value of `bits` of type `t`, floating, integer or .e8m0. -/
def valueOf (t : Ty) (bits : Nat) : FV :=
  if t.isFL then decodeFV (fmtOf t) (bits % 2 ^ t.width)
  else if t = .e8m0 then decodeE8m0 bits
  else fvOfInt (intOf t.width t.signed bits) 0 false

/-! ## Anchored elements (R69 to R73, R75) -/

/-- An ANC128 element: V as an integer and the six flags. -/
structure Anc where
  v       : Int
  invalid : Bool
  ninf    : Bool
  pinf    : Bool
  nan     : Bool
  sat     : Bool
  lost    : Bool
  deriving DecidableEq, Repr

/-- A fresh element: V = 0 with every flag clear. -/
def Anc.zero : Anc := ⟨0, false, false, false, false, false, false⟩

/-- The 128 bits of an element (R69). -/
def Anc.bits (a : Anc) : Nat :=
  wrapTo 120 a.v + 2 ^ 120 * bit a.lost + 2 ^ 121 * bit a.sat + 2 ^ 122 * bit a.nan + 2 ^ 123 * bit a.pinf
    + 2 ^ 124 * bit a.ninf + 2 ^ 125 * bit a.invalid

/-- The element of 128 bits; the reserved bits are ignored. -/
def Anc.ofBits (x : Nat) : Anc :=
  { v := intOf 120 true x, invalid := x.testBit 125, ninf := x.testBit 124, pinf := x.testBit 123,
    nan := x.testBit 122, sat := x.testBit 121, lost := x.testBit 120 }

/-- Bits [5:0] of the status flags, in the order of 06 R163. -/
def Anc.flags (a : Anc) : Nat :=
  bit a.lost + 2 * bit a.sat + 4 * bit a.nan + 8 * bit a.pinf + 16 * bit a.ninf + 32 * bit a.invalid

/-- AncSum(e, q) of R70, with the SAT flag it sets. -/
def Anc.sum (a : Anc) (q : Int) : Anc :=
  let s := a.v + q
  let hi : Int := ((2 ^ 119 : Nat) : Int) - 1
  let lo : Int := -((2 ^ 119 : Nat) : Int)
  if hi < s then { a with v := hi, sat := true }
  else if s < lo then { a with v := lo, sat := true }
  else { a with v := s }

/-- INVALID where both infinities contributed (R70, R71). -/
def Anc.settle (a : Anc) : Anc := if a.pinf && a.ninf then { a with invalid := true } else a

/-- A contribution to an element: a value, or 0 × ∞. -/
inductive Contrib where
  | val (x : FV)
  | invalid
  deriving DecidableEq, Repr

/-- AncAdd at an anchor (R70). -/
def Anc.add (anchor : Int) (a : Anc) : Contrib → Anc
  | .invalid => { a with invalid := true, nan := true }
  | .val .nan => { a with nan := true }
  | .val (.inf neg) => (if neg then { a with ninf := true } else { a with pinf := true }).settle
  | .val (.zero _) => a.settle
  | .val (.fin neg m e) =>
    let k := anchor - 96
    let x : Int := if neg then -(m : Int) else m
    let q := shiftInt x (e - k)
    let exact := decide (k ≤ e) || decide (q * ((2 ^ (k - e).toNat : Nat) : Int) = x)
    ((if exact then a else { a with lost := true }).sum q).settle

/-- Combination of two partial elements of one anchor (R71). -/
def Anc.combine (a b : Anc) : Anc :=
  let c := a.sum b.v
  ({ v := c.v, invalid := a.invalid || b.invalid, ninf := a.ninf || b.ninf, pinf := a.pinf || b.pinf,
     nan := a.nan || b.nan, sat := c.sat || b.sat, lost := a.lost || b.lost } : Anc).settle

/-- The exact product of two values as a contribution, 0 × ∞ told apart (R70). -/
def contribMul : FV → FV → Contrib
  | .zero _, .inf _ => .invalid
  | .inf _, .zero _ => .invalid
  | x, y => .val (fvMul x y)

/-- The truncated integer that a contribution adds at an anchor; 0 where it only sets flags (R72). -/
def Contrib.part (anchor : Int) : Contrib → Int
  | .val (.fin neg m e) => shiftInt (if neg then -(m : Int) else m) (e - (anchor - 96))
  | _ => 0

/-- Whether no order of additions of `q` to `v` leaves the window (R72). -/
def withinWindow (v : Int) (q : List Int) : Bool :=
  let p := (v :: q).foldl (fun s x => if 0 < x then s + x else s) 0
  let n := (v :: q).foldl (fun s x => if x < 0 then s + x else s) 0
  decide (p ≤ ((2 ^ 119 : Nat) : Int) - 1) && decide (-((2 ^ 119 : Nat) : Int) ≤ n)

/-- A list with `x` placed before the first entry of a greater key. -/
def insertKey {α : Type} (x : Nat × α) : List (Nat × α) → List (Nat × α)
  | [] => [x]
  | y :: l => if x.1 < y.1 then x :: y :: l else y :: insertKey x l

/-- A list in the order of the keys `key`. -/
def orderBy {α : Type} (key : Nat → Nat) (l : List α) : List α :=
  ((l.zipIdx.map fun p => (key p.2, p.1)).foldl (fun t x => insertKey x t) []).map (·.2)

/-- The contributions added to an element: in any order where R72 fixes the result, else in the order of `key`. -/
def Anc.addAll (anchor : Int) (key : Nat → Nat) (a : Anc) (l : List Contrib) : Anc :=
  (if withinWindow a.v (l.map (Contrib.part anchor)) then l else orderBy key l).foldl (Anc.add anchor) a

/-- The value that a drain rounds (R73): flags first, then V × 2^(anchor − 96). -/
def Anc.value (anchor : Int) (a : Anc) : FV :=
  if a.nan || a.invalid || (a.pinf && a.ninf) then .nan
  else if a.pinf then .inf false
  else if a.ninf then .inf true
  else if a.sat then .inf (decide (a.v < 0))
  else fvOfInt a.v (anchor - 96) false

/-- Drain(t, fmt, mode) of R73, to a floating type or to .i32; `r` is the draw of .rsr. -/
def Anc.drain (anchor : Int) (t : Ty) (mode : Rnd) (sat : Bool) (r : Nat) (a : Anc) : Nat :=
  if t = .i32 then wrapTo 32 (cvtToInt 32 true mode r (a.value anchor))
  else roundTo (fmtOf t) mode sat r (a.value anchor)

/-! ## Transcendental functions (R79, R80) -/

/-- One step of 2^f: the next root of two, and the product over the bits of `f` read so far. Values are fixed point
with 256 fraction bits; `f` has 128 fraction bits, read from bit `k - 1` down. -/
def exp2Bits (f root acc : Nat) : Nat → Nat
  | 0 => acc
  | k + 1 =>
    let root := isqrt (root * 2 ^ 256)
    exp2Bits f root (if f.testBit k then acc * root / 2 ^ 256 else acc) k

/-- 2^x for a finite non-zero x that is no integer: 2^n × 2^f with n = ⌊x⌋. -/
def fvExp2 (neg : Bool) (m : Nat) (e : Int) : FV :=
  let x : Int := if neg then -(m : Int) else m
  let n := shiftInt x e
  let f := (shiftInt x (e + 128) - n * ((2 ^ 128 : Nat) : Int)).toNat
  sticky false (exp2Bits f (2 * 2 ^ 256) (2 ^ 256) 128) false (n - 256)

/-- Fraction bits of log2 t by repeated squaring, for t in [1, 2) with 512 fraction bits. -/
def log2Bits (t acc : Nat) : Nat → Nat
  | 0 => acc
  | k + 1 =>
    let t := t * t / 2 ^ 512
    if 2 * 2 ^ 512 ≤ t then log2Bits (t / 2) (2 * acc + 1) k else log2Bits t (2 * acc) k

/-- log2 of m × 2^e for m no power of two: an irrational value between two multiples of 2^-160. -/
def fvLog2 (m : Nat) (e : Int) : FV :=
  let b := log2 m
  let t := m * 2 ^ 512 / 2 ^ b
  let v : Int := ((b : Int) + e) * ((2 ^ 160 : Nat) : Int) + (log2Bits t 0 160 : Nat)
  fvOfInt (2 * v + 1) (-161) false

/-- A transcendental operation of major 0x0F without VSQRT. -/
inductive TransOp where
  | exp2 | log2 | rcp | rsq
  deriving DecidableEq, Repr

/-- The number of an operation, an argument of its free choice. -/
def TransOp.code : TransOp → Nat
  | .exp2 => 0 | .log2 => 1 | .rcp => 2 | .rsq => 3

/-- f(x) of R79 with the special inputs of its table: the value, and whether it is one of the exact cases. The
values that are not exact are known up to a sticky bit far below any rounding. -/
def transValue (op : TransOp) (x : FV) : FV × Bool :=
  match op, x with
  | _, .nan => (.nan, true)
  | .exp2, .inf neg => (if neg then .zero false else .inf false, true)
  | .exp2, .zero _ => (.fin false 1 0, true)
  | .exp2, .fin neg m e =>
    let v : Int := if neg then -(m : Int) else m
    let n := shiftInt v e
    if n ≥ 1024 then (.inf false, true)
    else if n < -1024 then (.zero false, true)
    else if decide (0 ≤ e) || decide (n * ((2 ^ (-e).toNat : Nat) : Int) = v) then (.fin false 1 n, true)
    else (fvExp2 neg m e, false)
  | .log2, .inf neg => (if neg then .nan else .inf false, true)
  | .log2, .zero _ => (.inf true, true)
  | .log2, .fin neg m e =>
    if neg then (.nan, true)
    else if m = 2 ^ log2 m then (fvOfInt ((log2 m : Int) + e) 0 false, true)
    else (fvLog2 m e, false)
  | .rcp, .fin neg m e => (fvDiv (.fin false 1 0) (.fin neg m e), decide (m = 2 ^ log2 m))
  | .rcp, .zero neg => (.inf neg, true)
  | .rcp, .inf neg => (.zero neg, true)
  | .rsq, .fin neg m e =>
    (fvRsqrt (.fin neg m e), neg || (decide (m = 2 ^ log2 m) && decide (((log2 m : Int) + e) % 2 = 0)))
  | .rsq, y => (fvRsqrt y, true)

/-- The .f32 encodings within 1 ulp of a finite value that is not exact: its two neighbours, and the encoding below a
power of two that the value exceeds by at most half an ulp (R79). -/
def ulpCandidates (neg : Bool) (m : Nat) (e : Int) : List Nat :=
  let f := fmtOf .f32
  let lo := roundTo f .rtz false 0 (.fin false m e)
  let s := f.signBit neg
  let b := (log2 m : Int) + e
  let up := if lo + 1 ≤ f.maxCode then [s + lo + 1] else []
  let close := decide (lo % 2 ^ f.mb = 0) && decide (2 ^ f.mb < lo)
    && decide ((m - 2 ^ log2 m) * 2 ^ (f.mb + 1) ≤ 2 ^ log2 m) && decide (f.gmin + f.mb ≤ b)
  [s + lo] ++ up ++ (if close then [s + lo - 1] else [])

/-- The result of VEXP2, VLOG2, VRCP and VRSQ on an input encoding (R79, R272): correctly rounded in .f16 and .bf16,
a free choice within 1 ulp in .f32 where the value is not exact. -/
def transcend (op : TransOp) (t : Ty) (ftz : Bool) (bits : Nat) : Nat :=
  let f := fmtOf t
  let x := ftzIn ftz f (decodeFV f bits)
  let small := match x with
    | .fin neg m e => decide (t = Ty.f32) && decide (op = TransOp.exp2) && neg && decide (150 * 2 ^ 200 < m * 2 ^ (200 + e).toNat) && decide (-200 ≤ e)
    | _ => false
  if small then 0
  else
    let (y, exact) := transValue op x
    match y with
    | .fin neg m e =>
      if exact || !decide (t = Ty.f32) then ftzOut ftz f .rne false 0 y
      else if ftz && f.below m e then f.signBit neg
      else if (127 : Int) < (log2 m : Int) + e then f.infCode false neg
      else
        let c := ulpCandidates neg m e
        c.getD (Config.ulpChoice op.code bits ftz % c.length) 0
    | y => roundTo f .rne false 0 y

/-! ## Narrow elements in memory (R56) -/

/-- Element `i` of width `w` bits in a little-endian bit string `x`. -/
def packedElem (w i x : Nat) : Nat := x / 2 ^ (w * i) % 2 ^ w

/-- A list of `w`-bit elements packed little-endian. -/
def packElems (w : Nat) : List Nat → Nat
  | [] => 0
  | a :: l => a % 2 ^ w + 2 ^ w * packElems w l

end Sys2Proof.Machine
end

