-- ==== Sys2Proof/Machine/Flags.lean ====
section
/-! DEFINITION. Every computation of the scalar flags Z, N, C and V (10 R253 to R256), the scalar results beside
them, and the conditions of 08 R203. -/

namespace Sys2Proof.Machine

/-- Z, N, C and V. -/
structure Flags where
  z : Bool
  n : Bool
  c : Bool
  v : Bool
  deriving DecidableEq, Repr

/-- A scalar result of `w` bits with the flags it gives under SF. -/
structure SRes where
  r  : Nat
  fl : Flags
  deriving DecidableEq, Repr

/-- The condition of a COND code (R203). -/
def condHolds (cond : Cond) (f : Flags) : Bool :=
  match cond with
  | .eq => f.z
  | .ne => !f.z
  | .hs => f.c
  | .lo => !f.c
  | .mi => f.n
  | .pl => !f.n
  | .vs => f.v
  | .vc => !f.v
  | .hi => f.c && !f.z
  | .ls => !f.c || f.z
  | .ge => f.n == f.v
  | .lt => f.n != f.v
  | .gt => !f.z && f.n == f.v
  | .le => f.z || f.n != f.v
  | .always => true

/-- A result with Z and N from its `w` bits and the given C and V (R255). -/
def sres (w r : Nat) (c v : Bool) : SRes :=
  let x := r % 2 ^ w
  { r := x, fl := { z := decide (x = 0), n := x.testBit (w - 1), c, v } }

/-- Whether an exact result lies outside the signed range of `w` bits. -/
def signedOv (w : Nat) (x : Int) : Bool := decide (satTo w true x ≠ x)

/-- SADD: carry out of bit w − 1, signed overflow. -/
def aluAdd (w a b : Nat) : SRes :=
  sres w (a + b) (decide (2 ^ w ≤ a + b)) (signedOv w (intOf w true a + intOf w true b))

/-- SSUB: C is 1 when no borrow occurs. -/
def aluSub (w a b : Nat) : SRes :=
  sres w (a + 2 ^ w - b) (decide (b ≤ a)) (signedOv w (intOf w true a - intOf w true b))

/-- SMUL: C and V are 1 when the exact product is not representable in the type. -/
def aluMul (w : Nat) (signed : Bool) (a b : Nat) : SRes :=
  let p := intOf w signed a * intOf w signed b
  let ov := decide (satTo w signed p ≠ p)
  sres w (wrapTo w p) ov ov

/-- SMULH and SMULHU: bits [2w−1:w] of the exact product. -/
def aluMulh (w : Nat) (signed : Bool) (a b : Nat) : SRes :=
  let p := intOf w signed a * intOf w signed b
  sres w (wrapTo w (p / ((2 ^ w : Nat) : Int))) false false

/-- Quotient and remainder truncated toward zero, with the cases of R254; the last component is V. -/
def divRem (w : Nat) (signed : Bool) (a b : Nat) : Nat × Nat × Bool :=
  let x := intOf w signed a
  let y := intOf w signed b
  if y = 0 then (2 ^ w - 1, a % 2 ^ w, true)
  else if signed && decide (x = minOf w true) && decide (y = -1) then (wrapTo w x, 0, true)
  else (wrapTo w (x.tdiv y), wrapTo w (x.tmod y), false)

/-- SDIV and SDIVU. -/
def aluDiv (w : Nat) (signed : Bool) (a b : Nat) : SRes :=
  let d := divRem w signed a b
  sres w d.1 false d.2.2

/-- SREM and SREMU. -/
def aluRem (w : Nat) (signed : Bool) (a b : Nat) : SRes :=
  let d := divRem w signed a b
  sres w d.2.1 false d.2.2

/-- A result whose C and V are 0. -/
def aluPlain (w r : Nat) : SRes := sres w r false false

/-- a AND NOT b in `w` bits. -/
def andn (w a b : Nat) : Nat := a &&& (2 ^ w - 1 - b % 2 ^ w)

/-- Shift left by b mod w. -/
def shl (w a b : Nat) : Nat := a * 2 ^ (b % w) % 2 ^ w

/-- Logical shift right by b mod w. -/
def shr (w a b : Nat) : Nat := a % 2 ^ w / 2 ^ (b % w)

/-- Arithmetic shift right by b mod w. -/
def sra (w a b : Nat) : Nat := wrapTo w (intOf w true a / ((2 ^ (b % w) : Nat) : Int))

/-- Rotation right by b mod w. -/
def ror (w a b : Nat) : Nat := shr w a b + a * 2 ^ (w - b % w) % 2 ^ w

/-- The lesser or greater in a type. -/
def pick (w : Nat) (signed greater : Bool) (a b : Nat) : Nat :=
  if intOf w signed a < intOf w signed b then (if greater then b else a) else (if greater then a else b)

/-- Leading zeros in `w` bits; w for 0. -/
def clz (w a : Nat) : Nat := if a % 2 ^ w = 0 then w else w - 1 - log2 (a % 2 ^ w)

/-- Trailing zeros in `w` bits; w for 0. -/
def ctz (w a : Nat) : Nat := (lowestFrom a 0 w).getD w

/-- Set bits among `w`. -/
def popc (w a : Nat) : Nat := popBelow a w

/-- The `w` bits in reverse order. -/
def brev (w a : Nat) : Nat := (List.range w).foldl (fun x i => 2 * x + bit (a.testBit i)) 0

/-- A `w`-bit value extended to 64 bits by its type (R252). -/
def extend (w : Nat) (signed : Bool) (r : Nat) : Word := BitVec.ofInt 64 (intOf w signed r)

end Sys2Proof.Machine
end

