-- ==== Sys2Proof/Machine/State.lean ====
section
/-! DEFINITION. The state of one SX9 package as plain data, its reasons to stop, and the state after reset. -/

namespace Sys2Proof.Machine

/-- A byte memory: addresses strictly rising, no entry equal to what an unlisted address reads as (Mem.lean). -/
abbrev Mem := List Host.Cell

/-! ## Fibres -/

/-- A V register's value by its shape (02 R44). -/
inductive VVal where
  /-- U: every lane holds the base. -/
  | uni (b : Lane)
  /-- A: lane l holds base + stride × l. -/
  | aff (b s : Lane)
  /-- G: one value for each lane. -/
  | gen (l : List Lane)
  deriving DecidableEq, Repr

/-- A register that the lookahead of 08 R204 counts. -/
inductive RegRef where
  | v (n : Nat)
  | s (n : Nat)
  | m (n : Nat)
  deriving DecidableEq, Repr

/-- A value on its way to a register. -/
inductive WVal where
  | v (x : VVal)
  | s (x : Word)
  | m (x : Wide)
  deriving DecidableEq, Repr

/-- What a pending result waits for (08 R204, R205). -/
inductive PendSt where
  /-- The values are there and are written by PENDING_RESULT_WRITE. -/
  | ready
  /-- A command, a held operation or an answer still has to give the values. -/
  | await
  /-- Uncorrectable data: the destination is left unwritten, and its first consumer takes ECCUNC. -/
  | poison (addr : Word)
  deriving DecidableEq, Repr

/-- A result that is not written yet (08 R204). -/
structure Pend where
  id   : Nat
  dst  : List (RegRef × WVal)
  left : Nat
  st   : PendSt
  deriving DecidableEq, Repr

/-- An entry of the loop stack (02 R40). -/
structure LoopEntry where
  start : Word
  last  : Word
  rem   : Nat
  deriving DecidableEq, Repr

/-- The states of a fibre (02 R52). -/
inductive FibreState where
  | ready | interlock | parked | waiting | held | stopped | ended
  deriving DecidableEq, Repr

/-- The trap causes (01, 02 R48): the codes of the cause column of each trap. -/
inductive Cause where
  | illegal | badtarget | invreg | regbound | weirbound | spadbound | misalign | xlate | perm | wblock | locklimit
  | versioned | accstate | engine | bkpt | trapi | loopdepth | cohlost | eccunc | stackgrow
  deriving DecidableEq, Repr

/-- The trap a stopped fibre took (02 R48, 17 R415). -/
structure TrapRec where
  cause : Cause
  info  : Word
  upc   : Word
  word  : Word
  /-- Further errors that the same trap covers (12 R325). -/
  more  : Nat
  deriving DecidableEq, Repr

/-- Why a fibre is STOPPED. -/
inductive StopWhy where
  | trap (t : TrapRec)
  /-- Halted by the debugger at a stop site (22 R482). -/
  | debug
  deriving DecidableEq, Repr

/-- The states of a lock slot (07 R183). -/
inductive SlotState where
  | empty | queued | granted | held | done
  deriving DecidableEq, Repr

/-- The status of a lock request (07 R184). -/
inductive LockStatus where
  | acquired | abandoned | timeout | deadlock | cancelled
  deriving DecidableEq, Repr

/-- One of the four lock slots of a fibre (07 R183), with the line, scope and time of its request. -/
structure LockSlot where
  state  : SlotState
  status : LockStatus
  weir   : Nat
  skips  : Nat
  line   : Nat
  scope  : Scope
  req    : Nat
  /-- The weir's PHASE when it counted the grant arrival. -/
  phase  : Option Nat
  deriving DecidableEq, Repr

/-- A slot at fibre start. -/
def LockSlot.empty : LockSlot := ⟨.empty, .acquired, 0, 0, 0, .wg, 0, none⟩

/-- A wait in WWAIT (12 R321), with its destination and lookahead. -/
structure WaitRec where
  d        : Nat
  look     : Nat
  weir     : Nat
  target   : Nat
  deadline : Option Nat
  scope    : Scope
  deriving DecidableEq, Repr

/-- What an instruction that keeps its place until an answer comes is waiting for. -/
inductive Await where
  | none
  /-- LAUNCH until the launch queue answers with the code (10 R249). -/
  | launch (d code : Nat)
  /-- LCKCAN until the home answers (07 R192). -/
  | lckcan (d look slot : Nat)
  /-- WWAIT (12 R321). -/
  | weir (w : WaitRec)
  /-- WAITOC: the commands, or the sealed batches, that it does not wait for (12 R324), and the batch number and
  count before FLWAIT sealed the open batch. -/
  | oc (ids : List Nat) (undo : Option (Nat × Nat))
  /-- FLSEAL or FLWAIT until the given batch, then the oldest, completes (05 R133). -/
  | seal (batch : Nat)
  /-- IOLD or MXSTAT of `len` bytes with L = 0 until the command gives its result (13 R329). -/
  | cmd (id len : Nat)
  deriving DecidableEq, Repr

/-- An engine error that no WAITOC has reported (12 R325). -/
structure EngErr where
  ctr   : Ctr
  id    : Nat
  batch : Nat
  cause : Cause
  addr  : Word
  deriving DecidableEq, Repr

/-- A posted upcall (02 R50). -/
structure Posted where
  code : Nat
  arg  : Word
  deriving DecidableEq, Repr

/-- A fibre (02 R33, 17 R413). -/
structure Fibre where
  /-- The workgroup it belongs to. -/
  wg      : Nat
  /-- The fibre number in the workgroup, field F1 of its lanes. -/
  num     : Nat
  /-- Address of the next instruction word or header. -/
  pc      : Word
  /-- First address after the current block; the pc equals it where a header is expected. -/
  blkEnd  : Word
  /-- M0 to M15. -/
  m       : Tbl Wide
  /-- S0 to S63. -/
  s       : Tbl Word
  /-- V0 to V255; an unlisted register is invalid. -/
  v       : Tbl VVal
  /-- SRS of each lane (03 R63). -/
  srs     : Tbl Lane
  z       : Bool
  n       : Bool
  c       : Bool
  o       : Bool
  /-- FMODE.FTZ (03 R65). -/
  ftz     : Bool
  /-- LS0 to LS3, the top first (02 R40). -/
  loops   : List LoopEntry
  /-- Reconvergence target (02 R38). -/
  target  : Option Word
  /-- Cycle at which the fibre reached its target and was held. -/
  heldAt  : Option Nat
  /-- The fibre that spawned it (02 R35). -/
  parent  : Option Nat
  slots   : List LockSlot
  /-- Flume batch number, and copies in the open batch (05 R133). -/
  batch   : Nat
  openN   : Nat
  ucause  : Word
  upc     : Word
  uinfo   : Word
  upcalls : List Posted
  /-- Whether an upcall handler runs (02 R51). -/
  handler : Bool
  /-- Lookahead counts (08 R204). -/
  wins    : List (RegRef × Nat)
  pend    : List Pend
  /-- T0 to T7: the physical tile each allocated name maps to (06 R159). -/
  tiles   : Tbl Nat
  errs    : List EngErr
  /-- Completed commands that no WAITOC has covered yet, whose writes are then the fibre's own (04 R101): counter,
  batch and name. -/
  finished : List (Ctr × Nat × Nat)
  st      : FibreState
  await   : Await
  stop    : Option StopWhy
  /-- FENCE.rel marks, and the latest atomic read at each scope with its pending result (04 R95). -/
  relMark : List Scope
  acqSeen : List (Scope × Nat)
  /-- Pending results of acquiring atomics: later accesses wait for those that are held (12 R303). -/
  acqHeld : List Nat
  /-- Writes that a FENCE.acq would acquire by the latest atomic read at each scope (04 R95), and those that its
  FENCE.rel.sys and atomic write at .sys cover, for a later IOST (04 R109). -/
  acqIds  : List (Scope × List Nat)
  sysIds  : List Nat
  /-- Commands and held writes that later accesses wait for after a FENCE.ar (04 R95). -/
  arHeld  : List Nat
  /-- Halt-pending mark of the debugger, and a single step (22 R482). -/
  haltReq : Bool
  stepReq : Bool
  /-- Address of the stop site retired last (17 R415). -/
  lastSp  : Option Word
  /-- Cycle at which it became READY (17 R406), and choices it sits out after YIELD (10 R245). -/
  age     : Nat
  yield   : Nat
  deriving DecidableEq, Repr

/-! ## Workgroups and launches -/

/-- A wake-up record of a weir (05 R130). -/
structure WakeRec where
  gang   : Nat
  target : Nat
  /-- Earliest deadline among the gang's waits (12 R321). -/
  due    : Option Nat
  deriving DecidableEq, Repr

/-- A weir (05 R123), its fields by name, with its wake-up records. -/
structure Weir where
  phase   : Nat
  expa    : Nat
  arr     : Nat
  expb    : Nat
  bytes   : Nat
  err     : Bool
  overrun : Bool
  ovtrap  : Bool
  wakes   : List WakeRec
  deriving DecidableEq, Repr

/-- A weir at workgroup start. -/
def Weir.start : Weir := ⟨0, 0, 0, 0, 0, false, false, false, []⟩

/-- The state of a scratchpad sector (05 R135); an unlisted sector is PRESENT. -/
inductive Sector where
  | present
  | arriving
  | failed (c : Cause)
  deriving DecidableEq, Repr

/-- What a region is bound to (04 R98). -/
inductive BindObj where
  | weir (w : Nat)
  | lock (addr : Word)
  | sync (addr : Word)
  deriving DecidableEq, Repr

/-- An entry of the binding table (12 R313). -/
structure Binding where
  base : Word
  len  : Nat
  obj  : BindObj
  deriving DecidableEq, Repr

/-! ## The order of memory (04 R86 to R100; log entry 7) -/

/-- Whose reads and writes memory keeps apart: a fibre, an engine command, a workgroup before its first fibre (for the
fills of its schedule), a service core, the endpoints below a root port, and another chip. -/
inductive Viewer where
  | fibre (f : Nat)
  | engine (cmd : Nat)
  | start (wg : Nat)
  | service (n : Nat)
  | endpoint (port : Nat)
  | chip (c : Nat)
  deriving DecidableEq, Repr

/-- Where an agent stands, for the scopes of 01 R24. -/
structure Spot where
  chip : Nat
  part : Option Nat
  die  : Option Nat
  clus : Option Nat
  wg   : Option Nat
  deriving DecidableEq, Repr

/-- What a release and an acquire operate (04 R96). -/
inductive RelObj where
  /-- Atomic locations: bytes of memory, and of a workgroup's scratchpad. -/
  | loc (pa n : Nat)
  | spad (wg off n : Nat)
  | weir (wg i : Nat)
  | lock (line : Nat)
  /-- FENCE.ar (R95), the call ring of a partition (10 R247, 20 R465), and the end of a launch's workgroups (R105). -/
  | fence
  | call (part : Nat)
  | finish (part : Nat)
  deriving DecidableEq, Repr

/-- A release: its object, whether an acquire can pair with it now, its scope, where its agent stood, and the writes
that it covers, by name (R97). -/
structure Rel where
  obj   : RelObj
  live  : Bool
  scope : Scope
  spot  : Spot
  ids   : List Nat
  deriving DecidableEq, Repr

/-- How a write was issued: its workgroup, the bindings of that workgroup that held it (R98), whether an UNBIND has
released it since (R100), the release that it makes, and for an atomic its scope and whether its read acquires. -/
structure Issue where
  wg    : Option Nat
  binds : List Binding
  pub   : Bool
  rel   : Option Rel
  read  : Option (Scope × Bool)
  deriving DecidableEq, Repr

/-- A write outside any workgroup. -/
def Issue.plain : Issue := ⟨none, [], false, none, none⟩

/-- A write performed, while what it wrote over can still be read (R97): its name, the bytes before it, the writer,
the viewers to whom it is visible, and those that have read it (R88). -/
structure Past where
  id    : Nat
  writer : Viewer
  wg    : Option Nat
  va    : Word
  pa    : Nat
  old   : List Byte
  binds : List Binding
  pub   : Bool
  vis   : List Viewer
  read  : List Viewer
  deriving DecidableEq, Repr

/-- A digest set (05 R141): the bytes hashed since its initial state, as the hash state of whole blocks and a tail. -/
structure Digest where
  hash    : List (BitVec 64)
  tail    : List Byte
  len     : Nat
  stopped : Bool
  deriving DecidableEq, Repr

/-- The state of a physical tile (06 R160). -/
inductive TileSt where
  | free | live | retiring
  deriving DecidableEq, Repr

/-- A physical tile: its state, anchor and the 128-bit ANC128 elements (03 R69); an unlisted element is zero. -/
structure Tile where
  st     : TileSt
  anchor : Int
  elems  : Tbl Wide
  deriving DecidableEq, Repr

/-- A FREE tile. -/
def Tile.free : Tile := ⟨.free, 0, []⟩

/-- A bank of a macro with its scale store and tag (06 R148, 13 R344). Elements are listed by 128 × k + j; an
unlisted element is 0 and an unlisted scale 0x7F. -/
structure Bank where
  elems  : Tbl (BitVec 16)
  scales : Tbl Byte
  fmt    : MxFmt
  scaled : Bool
  deriving DecidableEq, Repr

/-- A bank at workgroup start (06 R149). -/
def Bank.start : Bank := ⟨[], [], .i8, false⟩

/-- A kernel descriptor as the launch took it (09 R229). -/
structure Kernel where
  entry : Word
  nv    : Nat
  ns    : Nat
  nm    : Nat
  nw    : Nat
  spad  : Nat
  nt    : Nat
  nmac  : Nat
  mcast : Bool
  deriving DecidableEq, Repr


/-- A launch as accepted (02 R31, 17 R400). -/
structure Launch where
  /-- Launch identifier (R400). -/
  ident   : Word
  part    : Nat
  queue   : Nat
  /-- The 256 bytes of the record as the queue copied them (R31). -/
  record  : List Byte
  kernel  : Kernel
  /-- The static copy schedule as read when the launch was accepted (05 R143); empty for none. -/
  sched   : List Byte
  f5      : Nat
  /-- The current private bound (18 R438). -/
  pcur    : Nat
  /-- Whether it is active (R400), and the order in which launches became active. -/
  active  : Bool
  order   : Nat
  /-- Workgroup indices started at least once, and those that have ended. -/
  started : List Nat
  ended   : List Nat
  /-- Indices returned unstarted by a flush (R405, R410). -/
  again   : List Nat
  /-- Whether a workgroup was killed, or ended with an unreported engine error (10 R251). -/
  bad     : Bool
  /-- Die of each die share once given by the headgate or taken by a sibling, and cluster of each team (R401, R403). -/
  shareOf : Tbl Nat
  teamOf  : Tbl Nat
  /-- Writes that its posting released, and those that the ends of its workgroups have released (04 R105). -/
  views   : List Nat
  ends    : List Nat
  deriving DecidableEq, Repr

/-- A workgroup's version of global memory (04 R112, 17 R412): the bytes written, by physical address, and the places in
the spill region of its blocks beyond the quota. -/
structure Version where
  cells   : Tbl Byte
  spilled : Bool
  spill   : Tbl Nat
  deriving DecidableEq, Repr

/-- A workgroup that has started and not ended (02 R26, R33; 17 R413). -/
structure Wg where
  launch  : Nat
  /-- The workgroup index, WID shifted right by WIDTH0 + WIDTH1 (R29). -/
  index   : Nat
  part    : Nat
  /-- Die and logical core on which it runs or last ran, and those of its start with the GEN taken there (05 R121). -/
  die     : Nat
  core    : Nat
  die0    : Nat
  core0   : Nat
  gen     : Nat
  /-- Lanes of a fibre, fibres, and the register counts of the kernel. -/
  width   : Nat
  nfib    : Nat
  /-- GANG of each gang of the workgroup; none while the gang is saved. -/
  gangs   : List (Option Nat)
  pbase   : Nat
  weirs   : List Weir
  /-- Private bytes that its L1 holds, by physical address (02 R47). -/
  priv    : Tbl Byte
  spad    : Mem
  sectors : Tbl Sector
  binds   : List Binding
  dgs     : List Digest
  stage   : Nat
  /-- Physical tiles of the pool and macros, 0 to NT − 1 and 0 to NMAC − 1. -/
  tiles   : Tbl Tile
  /-- Bank b of macro m at key 2m + b. -/
  banks   : Tbl Bank
  /-- Physical tile of the core's accumulator store for each tile of the pool (PTILE of 06 R163). -/
  ptile   : List Nat
  /-- P of 17 R409: retired stop sites. -/
  retired : Nat
  version : Option Version
  /-- Order of start, for victim choice (R408). -/
  born    : Nat
  /-- Gangs of the workgroup waiting for restoration, with the place of each in the order of recalls (R411). -/
  recalled  : List (Nat × Nat)
  /-- Whether a drain is chosen, and the priority below which its core is barred (R410). -/
  drainBar : Option Nat
  /-- A save in progress: gangs still to swap (R410). -/
  saving  : List Nat
  deriving DecidableEq, Repr

/-! ## Engine commands -/

/-- A range on a workgroup's scoreboard (04 R102). -/
structure Rng where
  base  : Nat
  len   : Nat
  write : Bool
  deriving DecidableEq, Repr

/-- A flume copy or schedule fill (13 R334 to R339, 05 R144). -/
structure FlCopy where
  gaddr  : Word
  spoff  : Nat
  rowb   : Nat
  nrows  : Nat
  sstr   : Nat
  gstr   : Int
  npl    : Nat
  pstr   : Nat
  gpstr  : Int
  out    : Bool
  /-- Row and column masks of a multicast. -/
  mc     : Option (Nat × Nat)
  cred   : Option Nat
  dg     : Option Nat
  /-- Offset of the digest region of a FINAL copy. -/
  fin    : Option Nat
  batch  : Nat
  /-- Whether it is a fill of the static copy schedule. -/
  fill   : Bool
  accepted : Bool
  /-- Ordinals of the sectors still outstanding. -/
  left   : List Nat
  /-- Lines already counted for the copy (18 R432). -/
  seen   : List Nat
  /-- Global sectors read, where two scratchpad sectors share them, by address div 32. -/
  kept   : Tbl (List Byte)
  /-- Source bytes of landed sectors, kept where they are hashed (05 R141). -/
  data   : Tbl (List Byte)
  /-- Whether the sector that failed first stops its set, by ordinal. -/
  failed : List Nat
  deriving DecidableEq, Repr

/-- A gather or scatter (13 R341). -/
structure GsCmd where
  tbase : Word
  rows  : Nat
  ebytes : Nat
  dstr  : Nat
  doff  : Nat
  n     : Nat
  ioff  : Nat
  tstr  : Nat
  soff  : Nat
  /-- The index list, once it has been read. -/
  list  : Option (List Nat)
  /-- Rows that the executive failed (18 R423). -/
  fails : List (Nat × Cause)
  /-- Whether the rows are written and only held writes are still due. -/
  done  : Bool
  deriving DecidableEq, Repr

/-- A bank load (13 R344). -/
structure MxLoad where
  mac    : Nat
  bank   : Nat
  fmt    : MxFmt
  boff   : Nat
  bstr   : Nat
  bsc    : Option Nat
  since : Nat
  /-- Sectors that it has read, by offset div 32 (06 R166). -/
  got    : Tbl (List Byte)
  deriving DecidableEq, Repr

/-- MXMUL, and MXLOOP of n steps (13 R345, R346, 06 R158). -/
structure MxRun where
  tile   : Nat
  mac    : Nat
  bank0  : Nat
  fmt    : MxFmt
  n      : Nat
  aoff   : Nat
  astr   : Nat
  asc    : Option Nat
  da     : Int
  das    : Int
  boff   : Nat
  bstr   : Nat
  bsc    : Nat
  db     : Int
  dbs    : Int
  /-- B format and scale flag of every slice, once the first step has started. -/
  bfmt   : MxFmt
  bscaled : Bool
  /-- Steps ended; cycle at which the running step started; slices loaded; cycle of the running load. -/
  step   : Nat
  stepAt : Option Nat
  loaded : Nat
  loadAt : Option Nat
  endAt  : Nat
  /-- Sectors read so far for the next step's capture, and for the running load (06 R166). -/
  got    : Tbl (List Byte)
  gotB   : Tbl (List Byte)
  /-- The captured A rows and A scales of the running step (06 R165). -/
  acap   : List Byte
  scap   : List Byte
  /-- The partial of the command (06 R154). -/
  partl  : Tbl Wide
  failed : Bool
  deriving DecidableEq, Repr

/-- MXDRAIN (13 R348, 06 R164); `srs` is the SRS of lane 0 at issue. -/
structure MxDrain where
  tile   : Nat
  doff   : Nat
  dstr   : Nat
  ty     : Ty
  rnd    : Rnd
  sat    : Bool
  srs    : Lane
  /-- Cycle at which it started, and the rows converted then. -/
  since : Option Nat
  rows   : List (List Byte)
  deriving DecidableEq, Repr

/-- Where a partial of an accrue line is held (07 R172). -/
inductive Node where
  | core (die core : Nat)
  | cluster (die clus : Nat)
  deriving DecidableEq, Repr

/-- An update of one accrue element or one atomic operation on its way to its execution point (12 R305, R308). -/
inductive FarKind where
  | atom (p : AtomOpr) (w : Width) (cmp : Nat)
  /-- An atomic of the scratchpad, at its bank (12 R304). -/
  | bank (p : AtomOpr) (w : Width) (cmp : Nat)
  /-- An update under a tag, at its node or, with none, at the home (07 R173). -/
  | acr (t : AcrTag) (node : Option Node)
  deriving DecidableEq, Repr

/-- One lane's far operation, with the bindings that held it and whether an UNBIND has released it since (04 R100). -/
structure FarOp where
  lane : Nat
  issue : Issue
  va   : Word
  pa   : Nat
  grain : Nat
  kind : FarKind
  data : Nat
  deriving DecidableEq, Repr

/-- The states of a collective command before DONE (13 R354). -/
inductive CollSt where
  | issued | pending | combined
  | done (status : Nat)
  deriving DecidableEq, Repr

/-- MCSR or MCLR (13 R351). -/
structure CollCmd where
  mclr   : Bool
  addr   : Word
  pa     : Nat
  window : Nat
  group  : Nat
  bytes  : Nat
  spoff  : Nat
  stoff  : Nat
  ty     : Ty
  scope   : Scope
  weir   : Nat
  st     : CollSt
  /-- Source bytes of an MCSR, and the combined output. -/
  src    : List Byte
  out    : List Byte
  members : Nat
  flags  : Nat
  deriving DecidableEq, Repr

/-- IOLD, IOST or DBELL (13 R357). -/
inductive IoKind where
  | load (signed : Bool)
  | store
  | bell (wg : Bool)
  deriving DecidableEq, Repr

/-- An I/O command. -/
structure IoCmd where
  kind : IoKind
  pa   : Nat
  va   : Word
  size : Nat
  data : Nat
  sent : Bool
  /-- For DBELL: the held stores of the payload windows that it waits for (20 R461). -/
  holds : List Nat
  /-- GTIME at which it left. -/
  since : Nat
  /-- Writes that its endpoint sees with it (04 R109). -/
  views : List Nat
  deriving DecidableEq, Repr

/-- What an engine command does. -/
inductive CmdBody where
  | flume (c : FlCopy)
  | gather (c : GsCmd)
  | scatter (c : GsCmd)
  | mxload (c : MxLoad)
  | mxrun (c : MxRun)
  | drain (c : MxDrain)
  | mxzero (tile : Nat)
  | mxstat (tile : Nat)
  | far (ops : List FarOp)
  | warrFar (handle : Word) (da : Nat) (rel : Option Rel)
  | coll (c : CollCmd)
  | io (c : IoCmd)
  deriving DecidableEq, Repr

/-- An engine command in flight (01 R18, 04 R101). Ids rise in issue order. -/
structure Cmd where
  wg    : Nat
  /-- The issuing fibre; none for a schedule fill. -/
  fib   : Option Nat
  ctr   : Option Ctr
  rngs  : List Rng
  body  : CmdBody
  /-- Where the result goes: a pending result of the fibre, or the register of an instruction that waits. -/
  back  : Option Nat
  dst   : Nat
  err   : Option (Cause × Word)
  /-- Cycle of issue. -/
  since : Nat
  /-- The bindings in force at issue (04 R98). -/
  binds : List Binding
  deriving DecidableEq, Repr

/-! ## Lines, requests and locks -/

/-- A request that waits at its home or is held there. -/
structure Waiting where
  id   : Nat
  req  : HomeReq
  /-- The pending result of the fibre that an atomic answers. -/
  back : Option Nat
  issue : Issue
  deriving DecidableEq, Repr

/-- The NORMAL states of a line's copies (19 R439). -/
inductive Moesi where
  | m | o | e | s | i
  deriving DecidableEq, Repr

/-- A queued lock request (07 R185), with the moment of its arrival and the place of its fibre: CHIP, DIE, CORE, GANG,
LANE. -/
structure LockReq where
  moment : Nat
  rank  : List Nat
  fib   : Nat
  slot  : Nat
  /-- Order of arrival at the home. -/
  seq   : Nat
  /-- Cycle of arrival at the requester's core, and its timeout in cycles. -/
  since : Nat
  limit : Option Nat
  /-- Deadlock probes made. -/
  probes : Nat
  deriving DecidableEq, Repr

/-- A line at its home (19 R439, 07 R172, R185, R187); an unlisted line is NORMAL in I, FREE, with nothing waiting. -/
structure Line where
  grain   : Nat
  dir     : Moesi
  /-- Recorded sharers: bits 0 to 47 the clusters, 48 the service complex, 49 to 64 the Nalron ports (R440). -/
  sharers : Nat
  acc     : Option AcrTag
  collect : Bool
  /-- Acknowledgements due, by sharer bit; the line is in FANOUT while any is due, in HOLD while `hold`. -/
  acks    : Nat
  hold    : Bool
  granted : Option Moesi
  /-- The fibre that holds the lock. -/
  holder  : Option Nat
  /-- The request of the holder, where it found the line FREE (R185). -/
  first   : Option LockReq
  /-- A line FREE and marked abandoned (R190). -/
  abandoned : Bool
  queue   : List LockReq
  /-- Writes held at a locked line (R187). -/
  held    : List Waiting
  /-- Requests queued during COLLECT, FANOUT or HOLD (R176, R440). -/
  waiting : List Waiting
  deriving DecidableEq, Repr

/-- The line no request has reached. -/
def Line.idle (grain : Nat) : Line :=
  { grain, dir := .i, sharers := 0, acc := none, collect := false, acks := 0, hold := false, granted := none,
    holder := none, first := none, abandoned := false, queue := [], held := [], waiting := [] }

/-- A partial: an image of a line, by element index; an unlisted element is the identity (07 R172). -/
structure Partial where
  node  : Node
  line  : Nat
  grain : Nat
  tag   : AcrTag
  elems : Tbl Nat
  /-- Sectors found uncorrectable, by ordinal in the line (R516, 12 R309). -/
  bad   : List Nat
  deriving DecidableEq, Repr

/-- A fibre of another chip that has asked for a lock of a line homed here (07 R185): its Nalron port, and its place. -/
structure Guest where
  port : Nat
  chip : Nat
  die  : Nat
  core : Nat
  gang : Nat
  lane : Nat
  line : Nat
  deriving DecidableEq, Repr

/-- A lock request on its way to the home, or a grant on its way to a weir (07 R185, R186). -/
structure LockMsg where
  grant : Bool
  line  : Nat
  grain : Nat
  fib   : Nat
  slot  : Nat
  status : LockStatus
  limit : Option Nat
  deriving DecidableEq, Repr

/-! ## Time and agents -/

/-- Who takes the next step. -/
inductive Who where
  | fibre (f : Nat)
  | service (n : Nat)
  | event (e : Event)
  deriving DecidableEq, Repr

/-- One entry of the schedule: the time that passes before the step, and who takes it. -/
structure Tick where
  ns     : Nat
  /-- Cycles that pass on each die. -/
  cycles : List Nat
  who    : Who
  /-- Lanes of an atomic instruction that its issue performs, where not all (12 R302). -/
  apart  : Option Nat
  deriving DecidableEq, Repr

/-- Who takes the current step, with the words of the instruction it runs. -/
inductive Cur where
  | none
  | fibre (f : Nat) (word ext : Word)
  | service (n : Nat)
  | event (e : Event)
  deriving DecidableEq, Repr


/-! ## Cores, dies and partitions -/

/-- An event counter (22 R488). -/
structure EvCtr where
  sel : Word
  cnt : Nat
  deriving DecidableEq, Repr

/-- The fibre instruction that a scheduler tagged (22 R486, R487), as it stood at issue. -/
structure SmpTag where
  pc    : Word
  wid   : Word
  ident : Word
  ord   : Nat
  gang  : Nat
  batch : Nat
  cause : Nat
  clk   : Nat
  deriving DecidableEq, Repr

/-- A physical core's registers (16 R398, 17 R407, 18 R428, R434, 22 R481, R486, R488) and its own counts. -/
structure Core where
  /-- CID: EN, and the logical number it carries while enabled. -/
  en      : Bool
  logical : Nat
  drain   : Bool
  online  : Bool
  partw   : Word
  lastop  : Nat
  refused : Bool
  busy    : Bool
  /-- A workgroup whose kill by PCMD waits for room in the pending store (17 R414). -/
  killing : Option Nat
  /-- The launch and number of the multicast die share for which the core is held free (17 R404). -/
  freedFor : Option (Nat × Nat)
  /-- Workgroup starts (05 R121). -/
  starts  : Nat
  xrecl   : Nat
  xwblk   : Nat
  /-- SMPCTL, SMPBASE, SMPHEAD, SMPTAIL, SMPOVF (22 R486). -/
  smpctl  : Word
  smpbase : Word
  smphead : Nat
  smptail : Nat
  smpovf  : Nat
  /-- For each scheduler: batches left before the next sample, whether the next batch is tagged, and the tag. -/
  smpleft : Tbl Nat
  smparm  : List Nat
  smptag  : Tbl SmpTag
  /-- The 16-bit generator. -/
  smpgen  : BitVec 16
  ev      : Tbl EvCtr
  /-- Scratchpad bytes left by earlier workgroups (04 R82). -/
  relics  : Mem
  deriving DecidableEq, Repr

/-- A core at reset with the given place in the repair map (16 R398). -/
def Core.start (en : Bool) (logical : Nat) : Core :=
  { en, logical, drain := false, online := false, partw := 0x00102010, lastop := 0, refused := false, busy := false,
    killing := none, freedFor := none, starts := 0, xrecl := 0, xwblk := 0, smpctl := 0, smpbase := 0, smphead := 0, smptail := 0, smpovf := 0,
    smpleft := [], smparm := [], smptag := [], smpgen := 1, ev := [], relics := [] }

/-- A die's registers (16 R398, 19 R442, 22 R485, R488, 23 R496 to R499). -/
structure Die where
  clk     : Nat
  spareDone : Bool
  /-- LANESOFF, ROUTED, DOWN, UP of CLST0 to CLST2. -/
  links   : Tbl Word
  group   : Nat
  cur     : Nat
  cap     : Nat
  temp    : Nat
  hot     : Bool
  /-- GTIME at which each clock step change on its way applies. -/
  changes : List Nat
  icSeq   : Nat
  icBusy  : Bool
  icLine  : Word
  /-- Words the die's fetch lines still hold after a store of code (22 R485), by address. -/
  stale   : Tbl Word
  ev      : Tbl EvCtr
  bbIdx   : Nat
  /-- Black-box records by slot (23 R496), and corrected errors counted (21 R477). -/
  bb      : Tbl Wide
  soft    : Nat
  /-- Thermal limit, whether cooling down, and GTIME of its last step (23 R499). -/
  limit   : Nat
  stepAt  : Nat
  deriving DecidableEq, Repr

/-- A die at reset. -/
def Die.start : Die :=
  { clk := 0, spareDone := false, links := [], group := 0, cur := 72, cap := 72, temp := 25, hot := false,
    changes := [], icSeq := 0, icBusy := false, icLine := 0, stale := [], ev := [], bbIdx := 0, bb := [], soft := 0,
    limit := 80, stepAt := 0 }

/-- A launch queue (17 R399). -/
structure LQueue where
  depth : Nat
  inuse : Nat
  prio  : Nat
  en    : Bool
  seq   : Nat
  code  : Nat
  f5    : Nat
  deriving DecidableEq, Repr

/-- A launch queue at reset. -/
def LQueue.start : LQueue := ⟨0, 0, 0, false, 0, 0, 0⟩

/-- An engine sector that waits for XRESUME (18 R423). -/
structure Token where
  token  : Nat
  cmd    : Nat
  sector : Nat
  cause  : Cause
  addr   : Word
  deriving DecidableEq, Repr

/-- A write that stalls on write-block (18 R434): who, the address, the time of its first stall, and whether it still
waits for an invalidation to complete. -/
structure Stall where
  who   : Agent
  va    : Word
  /-- The address that a trap reports. -/
  info  : Word
  since : Nat
  shut  : Bool
  deriving DecidableEq, Repr

/-- A shard check of the scrubber (20 R468). -/
structure Shard where
  index : Nat
  due   : Nat
  deriving DecidableEq, Repr

/-- A KIND 0 record that waits for room in the fault ring (17 R414): of a stopped fibre, or of one that a flush has ended
since, with its die and all of the record but CLK. -/
inductive FaultWait where
  | fibre (f : Nat)
  | kept (die : Nat) (head : List Byte)
  deriving DecidableEq, Repr

/-- A partition: its table entry (16 R395) and its register block (17 R414, 18, 19 R441, 20 R459, 21 R479). -/
structure Part where
  valid   : Bool
  dies    : Nat
  scs     : Nat
  tagsize : Nat
  rpmask  : Word
  ranges  : Tbl Word
  tagbase : Word
  ttbase  : Word
  fqbase  : Word
  fqsize  : Word
  fqhead  : Nat
  fqtail  : Nat
  nqbase  : Word
  nqsize  : Word
  nqhead  : Nat
  nqtail  : Nat
  nqovf   : Word
  vquota  : Word
  vspbase : Word
  vspsize : Word
  xroot   : Word
  xinvlo  : Word
  xinvSeq : Nat
  /-- The invalidation in progress: whole partition, or first page and number of pages. -/
  xinv    : Option (Option (Word × Nat))
  cntbase : Word
  cntwin  : Word
  cntcfg  : Word
  wblim   : Nat
  migsrc  : Word
  migdst  : Word
  migSeq  : Nat
  migSt   : Nat
  /-- Pages of the copy in progress. -/
  mig     : Option Nat
  lgid    : Word
  priven  : Bool
  retbase : Word
  rethead : Nat
  rettail : Nat
  retovf  : Nat
  /-- Fault records of KIND 1 and 2 waiting for room (R414): the die, and all of the record but CLK. -/
  pendRecs : List (Nat × List Byte)
  /-- KIND 0 records that wait for room, in order (R414). -/
  waitFibs : List FaultWait
  tokens  : List Token
  nextTok : Nat
  stalls  : List Stall
  /-- I/O block: SLTBASE, SLTN, SLTSYNC, IWWIN, IWTBASE, IWTN, SCQBASE, SCQSIZE, SCQHEAD, SCQTAIL, SHTBASE, SHTN,
  SCRUB by offset (20 R459). -/
  io      : Tbl Word
  /-- A sluice-table sync in progress: the DBELLs with names below this one are waited for (20 R462). -/
  slt     : Option Nat
  shards  : List Shard
  lqs     : Tbl LQueue
  deriving DecidableEq, Repr

/-- A partition whose registers hold their reset values. -/
def Part.start (valid : Bool) (dies scs : Nat) : Part :=
  { valid, dies, scs, tagsize := 0, rpmask := 0, ranges := [], tagbase := 0, ttbase := 0, fqbase := 0, fqsize := 0,
    fqhead := 0, fqtail := 0, nqbase := 0, nqsize := 0, nqhead := 0, nqtail := 0, nqovf := 0, vquota := 0,
    vspbase := 0, vspsize := 0, xroot := 0, xinvlo := 0, xinvSeq := 0, xinv := none, cntbase := 0, cntwin := 0,
    cntcfg := 0, wblim := 0, migsrc := 0, migdst := 0, migSeq := 0, migSt := 0, mig := none, lgid := 0,
    priven := true, retbase := 0, rethead := 0, rettail := 0, retovf := 0, pendRecs := [], waitFibs := [], tokens := [],
    nextTok := 0, stalls := [], io := [], slt := none, shards := [], lqs := [] }

/-! ## Service cores (16 R385 to R391) -/

/-- A levee: a 128-bit value and its tag. -/
structure Levee where
  val : Wide
  tag : Bool
  deriving DecidableEq, Repr

/-- RISC-V privilege modes. -/
inductive Mode where
  | user | supervisor | machine
  deriving DecidableEq, Repr

/-- A result that a service core waits for. -/
structure ScAwait where
  id   : Nat
  d    : BitVec 5
  size : Nat
  deriving DecidableEq, Repr

/-- A service core. -/
structure Sc where
  /-- x1 to x31; x0 reads as an untagged levee of all zeros. -/
  x       : Tbl Levee
  pc      : Levee
  /-- f0 to f31 as 64 bits, NaN-boxed, and fcsr (log entry 8). -/
  f       : Tbl Nat
  frm     : Nat
  fflags  : Nat
  mode    : Mode
  lvcause : Word
  mtvec   : Levee
  mepc    : Levee
  mcause  : Word
  mtval   : Word
  medeleg : Word
  stvec   : Levee
  sepc    : Levee
  scause  : Word
  stval   : Word
  satp    : Word
  /-- Whether mtvec and stvec are vectored; the other RISC-V registers. -/
  mvec    : Bool
  svec    : Bool
  mideleg : Word
  ie      : Word
  ip      : Word
  mscratch : Word
  sscratch : Word
  /-- FS, MPRV, SUM, MXR, TVM, TW and TSR of mstatus, in place. -/
  mst     : Word
  /-- mstatus: MIE, MPIE, MPP, SIE, SPIE, SPP. -/
  mie     : Bool
  mpie    : Bool
  mpp     : Mode
  sie     : Bool
  spie    : Bool
  spp     : Bool
  running : Bool
  /-- Writes that a fence would acquire by earlier loads, and whether the next store is a release by an earlier fence
  (04 R111). -/
  acqIds  : List Nat
  relMark : Bool
  /-- An AMO held at a locked line whose result is due: its name, register, size and extension. -/
  await   : Option ScAwait
  deriving DecidableEq, Repr

/-- An untagged levee of all zeros. -/
def Levee.null : Levee := ⟨0, false⟩

/-- The levee over the whole address space with every right, cursor 0: GR 47, LEN 2^17 granules (log entry 6). -/
def Levee.root : Levee := ⟨BitVec.ofNat 128 (0xFF * 2 ^ 120 + 47 * 2 ^ 102 + 0x20000 * 2 ^ 64), true⟩

/-- A service core at reset (log entry 6). -/
def Sc.start (running : Bool) : Sc :=
  { x := [], pc := .root, f := [], frm := 0, fflags := 0, mode := .machine, lvcause := 0, mtvec := .null, mepc := .null
    mcause := 0, mtval := 0, medeleg := 0, stvec := .null, sepc := .null, scause := 0, stval := 0, satp := 0
    mvec := false, svec := false, mideleg := 0, ie := 0, ip := 0, mscratch := 0, sscratch := 0, mst := 0
    mie := false, mpie := false, mpp := .machine, sie := false, spie := false, spp := false, running, acqIds := [], relMark := false, await := none }


/-! ## The package outside the dies -/

/-- A Nalron port (19 R443, R444). -/
structure Port where
  en      : Bool
  up      : Bool
  down    : Bool
  evt     : Bool
  lanes   : Nat
  switch  : Nat
  crcerr  : Nat
  replays : Nat
  /-- Whether the peer paused it, and consecutive failed replays. -/
  paused  : Bool
  run     : Nat
  /-- GTIME of the DOWN that holds lines. -/
  since   : Option Nat
  deriving DecidableEq, Repr

/-- A port at reset. -/
def Port.start : Port := ⟨false, false, false, false, 0, 0, 0, 0, false, 0, none⟩

/-- A round or an MCLR pending at the switch (13 R353). -/
structure Round where
  offset : Nat
  bytes  : Nat
  /-- For an MCLR, the chip that asks. -/
  mclr   : Option Nat
  /-- Chip, the command of this chip, and the input. -/
  parts  : List (Nat × Option Nat × List Byte)
  deriving DecidableEq, Repr

/-- A multicast-reduce group of the switch (19 R448). -/
structure Group where
  valid   : Bool
  ty      : Nat
  anchor  : Int
  members : Nat
  absent  : Nat
  rounds  : Nat
  pending : List Round
  deriving DecidableEq, Repr

/-- A group at reset. -/
def Group.start : Group := ⟨false, 0, 0, 0, 0, 0, []⟩

/-- A logical root port (20 R455). -/
structure RootPort where
  cto   : Nat
  en    : Bool
  up    : Bool
  flit  : Bool
  evt   : Bool
  dpc   : Bool
  cxl   : Bool
  speed : Nat
  width : Nat
  pasid : Word
  deriving DecidableEq, Repr

/-- A logical root port at reset. -/
def RootPort.start : RootPort := ⟨50000, false, false, false, false, false, false, 0, 0, 0⟩

/-- An HBM4E stack (21 R474), with the corrected errors it counts (R477). -/
structure Stack where
  alerts : Nat
  temp   : Nat
  rmode  : Nat
  mth    : Nat
  soft   : Nat
  deriving DecidableEq, Repr

/-- A stack at reset. -/
def Stack.start : Stack := ⟨0, 25, 0, 2048, 0⟩

/-- A way of a cistern set: the 512-byte block, and the valid and dirty bits of its sectors (21 R471). -/
structure Way where
  block : Nat
  valid : Nat
  dirty : Nat
  deriving DecidableEq, Repr

/-- Reset, boot and firmware (23 R491 to R495). -/
structure Boot where
  memready : Bool
  warm     : Bool
  recov    : Bool
  fw       : Nat
  imageOk  : Bool
  image    : List Byte
  staged   : List Byte
  /-- The measurement register. -/
  measure  : List Byte
  deriving DecidableEq, Repr

/-- Boot state at cold reset. -/
def Boot.start : Boot := ⟨false, false, false, 0, true, [], [], []⟩

/-- What the package sends to the outside, oldest first. -/
inductive Msg where
  | ioWrite (pa size data : Nat)
  | ioRead (cmd pa size : Nat)
  | doorbell (pa size data : Nat)
  | prg (port pasid rid index code : Nat)
  | answer (dst : Agent) (data : List Byte)
  | unsupported (dst : Agent)
  | abort (dst : Agent)
  | translation (port rid pa bits : Nat) (r w : Bool)
  | atsInvalidate (port rid : Nat)
  | invalidate (line sharer : Nat)
  /-- The grant of a lock to a fibre of another chip, or the end of its request, with the status (07 R184, R186). -/
  | lockAnswer (to' : Guest) (status : LockStatus)
  /-- A count for a weir of another chip, of a WARR.far or of DONE, and the answer to one of another chip: whether it was refused (05 R122). -/
  | farArrival (handle : Word) (da : Nat) (e done : Bool)
  | farAnswer (chip : Nat) (handle : Word) (refused : Bool)
  | round (group offset : Nat) (out : List Byte)
  | withdrawal (group : Nat)
  | configRead (pa size : Nat)
  | configWrite (pa size data : Nat)
  | quote (message : List Byte) (rsa slh : Nat)
  deriving DecidableEq, Repr

/-- A Nalron window (19 R445). -/
structure Window where
  en      : Bool
  kind    : Nat
  part    : Nat
  peer    : Nat
  group   : Nat
  ty      : Nat
  size    : Nat
  base    : Nat
  xbase   : Nat
  lost    : Nat
  severed : Bool
  deriving DecidableEq, Repr

/-- A window at reset. -/
def Window.start : Window := ⟨false, 0, 0, 0, 0, 0, 0, 0, 0, 0, false⟩

/-! ## The package -/

/-- A cached translation (18 R424): partition, page, and the leaf as the walk read it. -/
structure TlbEntry where
  part : Nat
  va   : Nat
  bits : Nat
  leaf : Word
  deriving DecidableEq, Repr

/-- A vector call record that fibres of one batch are gathered in (10 R247): the address of its slot, the call number
and S2 that they agree in, and the fibres it holds. -/
structure Gathered where
  slot : Nat
  num  : Nat
  arg  : Word
  nfib : Nat
  deriving DecidableEq, Repr

/-- The batch that a scheduler issues (02 R37): the fibres still to issue, in ascending LANE, the number of fibres it
began with, whether none has issued yet, the call record of its SYSC, and the lanes of an atomic that each performs at
issue, where not all. -/
structure Batch where
  rest  : List Nat
  size  : Nat
  fresh : Bool
  call  : Option Gathered
  apart : Option Nat
  deriving DecidableEq, Repr

/-- No batch. -/
def Batch.none : Batch := ⟨[], 0, false, .none, .none⟩

/-- The state of one SX9 package. -/
structure State where
  /-- The model's own field: the schedule of agents and elapsed time (log entry 1). -/
  sched    : List Tick
  /-- The model's own field: who takes the current step. -/
  cur      : Cur
  /-- The batch being issued (02 R37). -/
  batch    : Batch
  /-- The model's own field: the argument of the free values (log entry 2). -/
  free     : Nat
  /-- The model's own field: fresh names of fibres, workgroups, launches, commands and requests. -/
  nextId   : Nat
  /-- The model's own field: how often time has passed; what happens in between happens at one moment. -/
  moment   : Nat
  /-- Nanoseconds since cold reset (23 R498). -/
  gtime    : Nat
  /-- The chip's index in its Nalron domain (02 R30). -/
  chip     : Nat
  /-- Physical memory, addresses strictly rising, no zero byte listed (log entry 4). -/
  mem      : Mem
  /-- Writes that some agents need not see yet, newest first, the name of the next one, and releases (04 R96, R97). -/
  past     : List Past
  pastN    : Nat
  rels     : List Rel
  /-- Granules whose levee tag is 1 (16 R391). -/
  tags     : List Nat
  /-- Sectors that hold uncorrectable data, and sectors lost at their homes, by address div 32 (21 R476, R478). -/
  bad      : List Nat
  lost     : List Nat
  /-- Home lines by first address (19 R439, 07 R172, R185). -/
  lines    : Tbl Line
  partials : List Partial
  lockMsgs : List LockMsg
  /-- Fibres of other chips that hold or ask for locks here, by the name that stands for their requests. -/
  guests   : Tbl Guest
  /-- Requests that wait for a turnout-table entry (21 R472). -/
  tableWait : List LockMsg
  tlb      : List TlbEntry
  /-- Cistern sets by 256 × channel + set, most recently used way first (21 R471). -/
  sets     : Tbl (List Way)
  /-- Row activation counts, and banks in refresh management with its end and the requests backed off (21 R475). -/
  rows     : List ((BankRef × Nat) × Nat)
  busyBanks : List (BankRef × Nat)
  backed   : List ((BankRef × Nat) × Waiting)
  hbms   : Tbl Stack
  /-- Frames retired since the last reset (21 R479). -/
  retired  : List Nat
  /-- Physical core p of die d at key 32d + p. -/
  cores    : Tbl Core
  dies     : Tbl Die
  parts    : Tbl Part
  scs      : Tbl Sc
  /-- LR reservations of service cores: physical address and size. -/
  resvs    : Tbl (Nat × Nat)
  launches : Tbl Launch
  wgs      : Tbl Wg
  fibres   : Tbl Fibre
  cmds     : Tbl Cmd
  /-- Nalron: ports, link-failure timeout in µs, windows, scope table and its lock, the switch's groups, its snoop
  filter, and severed chips (19). -/
  ports    : Tbl Port
  nlfto    : Nat
  windows  : Tbl Window
  sct      : Tbl Word
  sctLock  : Bool
  groups   : Tbl Group
  snoop    : Tbl (List Nat)
  severed  : List Nat
  /-- Root complex: MODE of each physical port, logical ports, and functions whose ATS is disabled (20). -/
  rpMode   : Tbl Nat
  rps      : Tbl RootPort
  atsOff   : List (Nat × Nat)
  /-- Functions, by port and requester ID, that may hold ATS translations (18 R427). -/
  atsFns   : List (Nat × Nat)
  boot     : Boot
  /-- Messages to the outside, oldest first. -/
  out      : List Msg
  deriving DecidableEq, Repr

/-- The machine right after cold reset: every register at its Reset value, tables and lists empty (an unlisted key of
a table stands for an object in its start state), and SC0 running (log entries 3 to 6). -/
def State.reset : State :=
  { sched := [], cur := .none, batch := Batch.none, free := 0, nextId := 0, moment := 0, gtime := 0, chip := 0, mem := [], past := [], pastN := 0, rels := [], tags := [], bad := [],
    lost := [], lines := [], partials := [], lockMsgs := [], guests := [], tableWait := [], tlb := [], sets := [], rows := [],
    busyBanks := [], backed := [], hbms := [], retired := [], cores := [], dies := [], parts := [],
    scs := [(0, Sc.start true)], resvs := [], launches := [], wgs := [], fibres := [], cmds := [], ports := [], nlfto := 50,
    windows := [], sct := [], sctLock := false, groups := [], snoop := [], severed := [], rpMode := [], rps := [],
    atsOff := [], atsFns := [], boot := Boot.start, out := [] }

/-- Reasons to stop with a fault. Every fault the spec gives is a next state here (a trap, an upcall, an engine error,
an exception of a service core), so no step raises the one constructor, and it can make no claim false. Safe. -/
inductive Fault where
  | none
  deriving DecidableEq, Repr

/-- Why a step is refused. -/
inductive Refusal where
  /-- An instruction without a meaning, by its mnemonic. Raised by the arms of exec that have none. Safe. -/
  | notModelled (mnemonic : String)
  deriving DecidableEq, Repr

end Sys2Proof.Machine
end

