-- ==== Sys2Proof/Machine/Mem.lean ====
section
/-! DEFINITION. Byte memories in their one canonical form: addresses strictly rising, no entry equal to what an
unlisted address reads as, which is 0 (log entry 4). Physical memory and each scratchpad are such lists. -/

namespace Sys2Proof.Machine

/-- What an unlisted address reads as (log entry 4). -/
def unlisted : Byte := 0

/-- The byte at an address. -/
def Mem.get : Mem → Nat → Byte
  | [], _ => unlisted
  | (b, v) :: m, a => if b = a then v else if a < b then unlisted else Mem.get m a

/-- The memory with byte `v` at `a`. -/
def Mem.put : Mem → Nat → Byte → Mem
  | [], a, v => if v = unlisted then [] else [(a, v)]
  | (b, w) :: m, a, v =>
    if b = a then (if v = unlisted then m else (a, v) :: m)
    else if a < b then (if v = unlisted then (b, w) :: m else (a, v) :: (b, w) :: m)
    else (b, w) :: Mem.put m a v

/-- The canonical form. -/
def Mem.wf : Mem → Bool
  | [] => true
  | [(_, v)] => v != unlisted
  | (a, v) :: (b, w) :: m => v != unlisted && decide (a < b) && Mem.wf ((b, w) :: m)

/-- `n` bytes from address `a` up. -/
def Mem.bytes (m : Mem) (a : Nat) : Nat → List Byte
  | 0 => []
  | n + 1 => m.get a :: Mem.bytes m (a + 1) n

/-- The memory with the bytes `l` from address `a` up. -/
def Mem.putBytes (m : Mem) (a : Nat) : List Byte → Mem
  | [] => m
  | v :: l => Mem.putBytes (m.put a v) (a + 1) l

/-- Little-endian value of bytes (00 R4). -/
def leNat : List Byte → Nat
  | [] => 0
  | v :: l => v.toNat + 256 * leNat l

/-- `n` bytes of a value, little-endian. -/
def toLe (x : Nat) : Nat → List Byte
  | 0 => []
  | n + 1 => BitVec.ofNat 8 x :: toLe (x / 256) n

/-- The `n`-byte value at address `a`. -/
def Mem.read (m : Mem) (a n : Nat) : Nat := leNat (m.bytes a n)

/-- The memory with the `n`-byte value `x` at address `a`. -/
def Mem.write (m : Mem) (a n x : Nat) : Mem := m.putBytes a (toLe x n)

/-- A big-endian value of bytes. -/
def beNat (l : List Byte) : Nat := l.foldl (fun x v => 256 * x + v.toNat) 0

/-- Field of a byte string: `n` bytes at offset `o`, little-endian. -/
def fieldLe (l : List Byte) (o n : Nat) : Nat := leNat ((l.drop o).take n)

end Sys2Proof.Machine
end

