-- ==== Sys2Proof/Machine/Operands.lean ====
section
/-! DEFINITION. Every operand form of the Ferja instructions: the registers of a fibre, their shapes and valid bits
(02 R42 to R44), the operand checks of orders 2 and 3 of 08 R216, the sources of class S (10 R252) and class V
(11 R263, R264), the result shapes (11 R267) and the addresses of class M (12 R290). -/

namespace Sys2Proof.Machine

/-! ## Registers of a fibre -/

/-- The value of Sn. -/
def Fibre.sreg (f : Fibre) (n : Nat) : Word := f.s.getD n 0

/-- The value of Mn. -/
def Fibre.mreg (f : Fibre) (n : Nat) : Wide := f.m.getD n 0

/-- M0, the live lanes, as a number. -/
def Fibre.live (f : Fibre) : Nat := (f.mreg 0).toNat

/-- active(F) under mask selector `m` (R34): bits at or above W are zero because M0 holds zero there. -/
def Fibre.active (f : Fibre) (m : BitVec 4) : Nat := (f.mreg m.toNat &&& f.mreg 0).toNat

/-- The active lanes below `w`, ascending. -/
def lanesOf (w act : Nat) : List Nat := (List.range w).filter fun l => act.testBit l

/-- The flags of a fibre. -/
def Fibre.flags (f : Fibre) : Flags := { z := f.z, n := f.n, c := f.c, v := f.o }

/-- The fibre with all four flags written together (R255). -/
def Fibre.setFlags (f : Fibre) (x : Flags) : Fibre := { f with z := x.z, n := x.n, c := x.c, o := x.v }

/-- LaneValue of R44. -/
def VVal.lane (x : VVal) (l : Nat) : Lane :=
  match x with
  | .uni b => b
  | .aff b s => b + s * BitVec.ofNat 32 l
  | .gen v => v.getD l 0

/-- The value in every lane, shape G. -/
def VVal.toGen (w : Nat) (x : VVal) : VVal := .gen (tabulate w x.lane)

/-- Whether a register value has shape U. -/
def VVal.isUni : VVal → Bool
  | .uni _ => true
  | _ => false

/-- The base and stride of a U or A value. -/
def VVal.affine : VVal → Option (Lane × Lane)
  | .uni b => some (b, 0)
  | .aff b s => some (b, s)
  | .gen _ => none


/-- Vn, or U zero where it is invalid (a valid source is checked before). -/
def Fibre.vreg (f : Fibre) (n : Nat) : VVal := (f.v.find? n).getD (.uni 0)

/-- The registers Vn to V(n + k − 1). -/
def Fibre.vregs (f : Fibre) (n k : Nat) : List VVal := tabulate k fun i => f.vreg (n + i)

/-- Registers that hold one element of a width (R263). -/
def regsOf (w : Nat) : Nat := if w = 64 then 2 else if w = 128 then 4 else 1

/-- The bits of a lane across the registers of an element, least significant register first. -/
def elemOf (rs : List VVal) (l : Nat) : Nat :=
  match rs with
  | [] => 0
  | r :: rs => (r.lane l).toNat + 2 ^ 32 * elemOf rs l

/-- The element of width `w` in lane `l` (R263): bits above w are ignored. -/
def elemW (w : Nat) (rs : List VVal) (l : Nat) : Nat := elemOf rs l % 2 ^ w

/-- A value in every lane of `k` registers, shape U. -/
def uniRegs (k x : Nat) : List VVal := tabulate k fun i => .uni (BitVec.ofNat 32 (x / 2 ^ (32 * i)))

/-! ## Operand checks (08 R216, orders 2 and 3) -/

/-- The class of a named operand (08 R206). -/
inductive OpClass where
  | v | s | m | mac | tile
  deriving DecidableEq, Repr

/-- The CLASS code of R206. -/
def OpClass.code : OpClass → Nat
  | .v => 0 | .s => 1 | .mac => 2 | .m => 3 | .tile => 4

/-- An operand that an instruction names or uses implicitly: class, first index, count, read, written. -/
structure Opnd where
  cls : OpClass
  idx : Nat
  cnt : Nat
  rd  : Bool
  wr  : Bool
  deriving DecidableEq, Repr

/-- A V source of `k` registers. -/
def vSrc (n : Nat) (k : Nat) : Opnd := ⟨.v, n, k, true, false⟩
/-- A V destination of `k` registers. -/
def vDst (n : Nat) (k : Nat) : Opnd := ⟨.v, n, k, false, true⟩
/-- A scalar source. -/
def sSrc (n : BitVec 6) : Opnd := ⟨.s, n.toNat, 1, true, false⟩
/-- A scalar destination. -/
def sDst (n : BitVec 6) : Opnd := ⟨.s, n.toNat, 1, false, true⟩
/-- A mask source. -/
def mSrc (n : BitVec 4) : Opnd := ⟨.m, n.toNat, 1, true, false⟩
/-- A mask destination. -/
def mDst (n : BitVec 4) : Opnd := ⟨.m, n.toNat, 1, false, true⟩

/-- The registers of an operand that lookahead counts. -/
def Opnd.refs (o : Opnd) : List RegRef :=
  match o.cls with
  | .v => tabulate o.cnt fun i => .v (o.idx + i)
  | .s => tabulate o.cnt fun i => .s (o.idx + i)
  | .m => tabulate o.cnt fun i => .m (o.idx + i)
  | .mac => []
  | .tile => []

/-- The information value of a REGBOUND or INVREG trap (R206). -/
def regInfo (c : OpClass) (la : Bool) (idx : Nat) : Word := BitVec.ofNat 64 (c.code * 2 ^ 60 + bit la * 2 ^ 59 + idx)

/-- The declared counts an instruction is checked against (R42, R149). -/
structure Counts where
  nv   : Nat
  ns   : Nat
  nm   : Nat
  nmac : Nat
  deriving DecidableEq, Repr

/-- Whether an operand lies beyond the declared counts; SP and LK are never checked (R42). -/
def Opnd.beyond (o : Opnd) (k : Counts) : Bool :=
  match o.cls with
  | .v => decide (k.nv < o.idx + o.cnt)
  | .s => decide (k.ns < o.idx + o.cnt) && decide (o.idx + o.cnt ≤ 62)
  | .m => decide (k.nm < o.idx + o.cnt)
  | .mac => decide (k.nmac ≤ o.idx)
  | .tile => false

/-- INDEX of a REGBOUND trap: the lowest register at or beyond NS for a descriptor block (13 R328); the first
register for a pair or quad (R206). -/
def Opnd.boundIndex (o : Opnd) (k : Counts) : Nat :=
  match o.cls with
  | .s => if o.idx < k.ns then k.ns else o.idx
  | _ => o.idx

/-- The lookahead count of a register. -/
def Fibre.winOf (f : Fibre) (r : RegRef) : Nat :=
  match f.wins.find? fun p => p.1 == r with
  | some p => p.2
  | none => 0

/-- Whether a register's lookahead count is not zero. -/
def Opnd.inWindow (o : Opnd) (f : Fibre) : Bool := o.refs.any fun r => decide (f.winOf r ≠ 0)

/-- A pending result that has a register among its destinations. -/
def Fibre.pendingOn (f : Fibre) (r : RegRef) : Option Pend :=
  f.pend.find? fun p => p.dst.any fun d => d.1 == r

/-- Whether a source operand is invalid: a V register without its valid bit (R43), or an unallocated tile (R161). A
register whose result is pending is waited for first (R204). -/
def Opnd.invalidIn (o : Opnd) (f : Fibre) : Bool :=
  o.rd && match o.cls with
    | .v => (List.range o.cnt).any fun i => (f.v.find? (o.idx + i)).isNone && (f.pendingOn (.v (o.idx + i))).isNone
    | .tile => (f.tiles.find? o.idx).isNone
    | _ => false

/-- What keeps an instruction from its effect. -/
inductive Block where
  /-- A precise trap with its information value. -/
  | trap (c : Cause) (info : Word)
  /-- A wait: the fibre takes the state and tries the instruction again. -/
  | wait (st : FibreState)
  deriving DecidableEq, Repr

/-- The information value of the trap, among those of the operands that fail one check (log entry 9). -/
def reported (l : List Word) : Option Word :=
  match l with
  | [x] => some x
  | _ => l[Config.failingPick l % l.length]?

/-- Order 2 of R216 over the operands. -/
def boundCheck (k : Counts) (l : List Opnd) : Option Block :=
  (reported ((l.filter (Opnd.beyond · k)).map fun o => regInfo o.cls false (o.boundIndex k))).map (Block.trap .regbound)

/-- What an operand that fails order 3 of R216 may report: its lookahead count, or a missing valid bit; in a descriptor
block each register whose count is not zero. -/
def Opnd.validInfos (f : Fibre) (o : Opnd) : List Word :=
  if o.inWindow f then
    match o.cls with
    | .s => (List.range o.cnt).filterMap fun i =>
        if f.winOf (.s (o.idx + i)) ≠ 0 then some (regInfo .s true (o.idx + i)) else none
    | c => [regInfo c true o.idx]
  else if o.invalidIn f then [regInfo o.cls false o.idx]
  else []

/-- Order 3 of R216 over the operands. -/
def validCheck (f : Fibre) (l : List Opnd) : Option Block :=
  (reported (l.flatMap (Opnd.validInfos f))).map (Block.trap .invreg)

/-- The wait for pending results (R204), and the deferred ECCUNC of the first consumer (R205). -/
def pendCheck (f : Fibre) : List RegRef → Option Block
  | [] => none
  | r :: l =>
    match f.pendingOn r with
    | none => pendCheck f l
    | some p =>
      match p.st with
      | .poison a => some (.trap .eccunc a)
      | _ => some (.wait .interlock)

/-- Orders 2 and 3 of R216, then the wait for pending results. -/
def operandCheck (k : Counts) (f : Fibre) (l : List Opnd) : Option Block :=
  match boundCheck k l with
  | some b => some b
  | none =>
    match validCheck f l with
    | some b => some b
    | none => pendCheck f (l.flatMap Opnd.refs)

/-! ## Scalar sources (10 R252) -/

/-- The operand that source B of class S names. -/
def SSrc.opnds : SSrc → List Opnd
  | .reg b => [sSrc b]
  | _ => []

/-- The `w` bits of source B. -/
def SSrc.value (b : SSrc) (f : Fibre) (w : Nat) : Nat :=
  match b with
  | .reg b => (f.sreg b.toNat).toNat % 2 ^ w
  | .imm v => (v.signExtend 64).toNat % 2 ^ w
  | .long v => (v.signExtend 64).toNat % 2 ^ w

/-- IMM58, sign-extended to 64 bits (R199). -/
def sext58 (v : BitVec 58) : Word := v.signExtend 64

/-! ## Vector sources (11 R263, R264) -/

/-- The operand that source B of class V names, read as `k` registers. -/
def VSrc.opnds (b : VSrc) (k : Nat) : List Opnd :=
  match b with
  | .vec n => [vSrc n.toNat k]
  | .sca n => [sSrc n]
  | _ => []

/-- Source B as a value of width `w`. -/
def VSrc.regs (b : VSrc) (f : Fibre) (w : Nat) : List VVal :=
  let k := regsOf w
  match b with
  | .absent => uniRegs k 0
  | .vec n => f.vregs n.toNat k
  | .sca n => uniRegs k ((f.sreg n.toNat).toNat % 2 ^ w)
  | .long v => uniRegs k ((sext58 v).toNat % 2 ^ w)

/-! ## Writing a V register (R43, R44) -/

/-- The shape that a form proposes for a V register (R267): U with the value written, A, or G. -/
inductive Shape where
  | uni
  | aff (b s : Lane)
  | gen
  deriving DecidableEq, Repr

/-- The shape of a base and a stride; a stride of 0 is U. -/
def mkShape (b s : Lane) : Shape := if s = 0 then .uni else .aff b s

/-- The value that a proposed shape stands for, `x` being the value written to the lowest active lane. -/
def Shape.value (x : Lane) : Shape → Option VVal
  | .uni => some (.uni x)
  | .aff b s => some (.aff b s)
  | .gen => none

/-- A write of one V register: the lanes of `act` receive `val`. The proposed shape is used only where the active set
is M0 and not empty (an empty one changes no lane, R34) and the shape holds the values (R44). `old` is the register
before, none where it was invalid. -/
def writeV (w act live : Nat) (old : Option VVal) (shape : Shape) (val : Nat → Lane) : VVal :=
  let g := VVal.gen (tabulate w fun l => if act.testBit l then val l else (old.getD (.uni 0)).lane l)
  match shape.value (((lanesOf w act).map val).headD 0) with
  | some x => if act = live ∧ act ≠ 0 ∧ (lanesOf w act).all (fun l => x.lane l == val l) then x else g
  | none => g

/-- The writes of a destination of `k` registers from lane values of up to 128 bits. -/
def writeRegs (f : Fibre) (w act : Nat) (d k : Nat) (shape : Nat → Shape) (val : Nat → Nat) :
    List (RegRef × WVal) :=
  tabulate k fun i =>
    (.v (d + i), .v (writeV w act f.live (f.v.find? (d + i)) (shape i)
      fun l => BitVec.ofNat 32 (val l / 2 ^ (32 * i))))

/-- Rule P for register `i` of a result (R267): U where the corresponding registers of all value sources are U (log
entry 10); else G. Control operands that are not U make it G. -/
def shapeP (srcs : List (List VVal)) (ctl : List VVal) (i : Nat) : Shape :=
  if srcs.all (fun rs => match rs[i]? with | some r => r.isUni | none => rs.all VVal.isUni) && ctl.all VVal.isUni then
    .uni
  else .gen

/-- The shape of register `i` of a source. -/
def shapeOf (src : List VVal) (i : Nat) : Shape :=
  match src[i]? with
  | some (.uni _) => .uni
  | some (.aff b s) => .aff b s
  | some (.gen _) => .gen
  | none => .gen

/-- Rule S (R267): for 32- and 64-bit types and .x128 the shape of the corresponding source register; for narrower
types as rule P (log entry 10). -/
def shapeS (ty : Ty) (src : List VVal) (i : Nat) : Shape := if 32 ≤ ty.width then shapeOf src i else shapeP [src] [] i

/-! ## Addresses (12 R290) -/

/-- The displacement in bytes. -/
def Disp.bytes (d : Disp) (size : Nat) : Word :=
  match d with
  | .imm v => BitVec.ofInt 64 (v.toInt * size)
  | .long v => sext58 v

/-- EA(l) of majors 0x15 to 0x17, and with a zero displacement of the atomics and ACR. -/
def eaLane (base : Word) (a : VVal) (disp : Word) (l : Nat) : Word := base + (a.lane l).signExtend 64 + disp

end Sys2Proof.Machine
end

