-- ==== Sys2Proof/Machine/Atoms.lean ====
section
/-! DEFINITION. The operators of atomic operations (12 R302) and of accrue lines (07 R170, R171, 03 R76), and the
stores of NARROW pages (03 R78). -/

namespace Sys2Proof

/-- Whether an operator reads its location. -/
def AtomOpr.reads : AtomOpr → Bool
  | .st => false
  | _ => true

/-- Whether an operator may write its location. -/
def AtomOpr.writes : AtomOpr → Bool
  | .ld => false
  | _ => true

/-- Orderings that release. -/
def Ord.releases : Ord → Bool
  | .rel | .ar => true
  | _ => false

/-- Bytes of an element (R170). -/
def AcrTag.size : AcrTag → Nat
  | .iadd64 | .or | .and | .xor => 8
  | .xadd => 16
  | _ => 4

/-- The identity of a tag (R170). -/
def AcrTag.identity : AcrTag → Nat
  | .iadd32 | .iadd64 | .xadd | .imaxu | .or | .xor => 0
  | .fadd32 => 0x80000000
  | .fmin32 => 0x7F800000
  | .fmax32 => 0xFF800000
  | .imins => 0x7FFFFFFF
  | .iminu => 0xFFFFFFFF
  | .imaxs => 0x80000000
  | .and => 0xFFFFFFFFFFFFFFFF

end Sys2Proof

namespace Sys2Proof.Machine

/-! ## Atomic operators -/

/-- The floating-point format of an atomic or accrue width. -/
def widthFmt (w : Width) : Fmt := fmtOf (if w = .f64 then .f64 else .f32)

/-- The sum of two encodings, rounded to nearest (R302, R171): FTZ plays no part. -/
def faddBits (f : Fmt) (a b : Nat) : Nat := roundTo f .rne false 0 (fvAdd false (decodeFV f a) (decodeFV f b))

/-- The lesser or greater of two encodings, with the canonical NaN where either is a NaN (R171). -/
def fpickBits (f : Fmt) (greater : Bool) (a b : Nat) : Nat :=
  roundTo f .rne false 0 (fvPick greater (decodeFV f a) (decodeFV f b))

/-- What an atomic operator writes over `old`, with operand `c` and compare value `d`; none where it writes nothing. -/
def atomNew (p : AtomOpr) (w : Width) (old c d : Nat) : Option Nat :=
  let n := 8 * w.bytes
  match p with
  | .ld => none
  | .st => some c
  | .xchg => some c
  | .cas => if old = d then some c else none
  | .add => some ((old + c) % 2 ^ n)
  | .and => some (old &&& c)
  | .or => some (old ||| c)
  | .xor => some (old ^^^ c)
  | .min => some (pick n w.signed false old c)
  | .max => some (pick n w.signed true old c)
  | .fadd => some (faddBits (widthFmt w) old c)
  | .fmin => some (fpickBits (widthFmt w) false old c)
  | .fmax => some (fpickBits (widthFmt w) true old c)

/-! ## Accrue tags -/

/-- Merge of R171. -/
def merge (t : AcrTag) (a b : Nat) : Nat :=
  match t with
  | .iadd32 => (a + b) % 2 ^ 32
  | .iadd64 => (a + b) % 2 ^ 64
  | .fadd32 => faddBits (fmtOf .f32) a b
  | .xadd => ((Anc.ofBits a).combine (Anc.ofBits b)).bits
  | .fmin32 => fpickBits (fmtOf .f32) false a b
  | .fmax32 => fpickBits (fmtOf .f32) true a b
  | .imins => pick 32 true false a b
  | .iminu => pick 32 false false a b
  | .imaxs => pick 32 true true a b
  | .imaxu => pick 32 false true a b
  | .or => a ||| b
  | .and => a &&& b
  | .xor => a ^^^ b

/-- The operand of an ACR as it travels: the register value, and for XADD the .f32 value with the scale above it. A
.bf16 value widens to .f32 without change. -/
def acrData (t : AcrTag) (w : Width) (x : Nat) (scale : BitVec 8) : Nat :=
  match t with
  | .xadd => (if w = .n16 then x % 2 ^ 16 * 2 ^ 16 else x % 2 ^ 32) + 2 ^ 32 * scale.toNat
  | _ => x % 2 ^ (8 * t.size)

/-- The contribution of an XADD operand (R76). -/
def xaddValue (d : Nat) : FV :=
  match decodeFV (fmtOf .f32) (d % 2 ^ 32) with
  | .fin s m e => .fin s m (e + (BitVec.ofNat 8 (d / 2 ^ 32)).toInt)
  | v => v

/-- An element after an update (R308, R76). -/
def acrApply (t : AcrTag) (old d : Nat) : Nat :=
  match t with
  | .xadd => (Anc.add 32 (Anc.ofBits old) (.val (xaddValue d))).bits
  | _ => merge t old d

/-! ## NARROW pages (R78) -/

/-- A word as a NARROW page stores it. -/
def narrowWord (x : Nat) : Nat := roundTo (fmtOf .bf16) .rne false 0 (decodeFV (fmtOf .f32) x) * 2 ^ 16

/-- The bytes of whole words as a NARROW page stores them. -/
def narrowBytes (l : List Byte) : List Byte :=
  match l with
  | a :: b :: c :: d :: l => toLe (narrowWord (leNat [a, b, c, d])) 4 ++ narrowBytes l
  | _ => []

end Sys2Proof.Machine
end

