-- ==== Sys2Proof/WellFormed.lean ====
section
/-! DEFINITION. Well-formed instructions. -/

namespace Sys2Proof

/-- A well-formed instruction: its operands lie inside the encodings that order 1 of R216 admits. -/
def Instr.wf (i : Instr) : Bool := formOk i

end Sys2Proof
end

