-- ==== Sys2Proof/Decode.lean ====
section
/-! DEFINITION. Decoding of instruction words and the encoder beside it: the 64-bit word split into the fields of
08 R195, the opcode map of R211 to R215, and the operands of each form. A word is accepted only when its operands
encode to exactly that word, so every field and bit a form does not use is zero (R197). -/

namespace Sys2Proof

/-- The fields of an instruction word (R195). -/
structure Fields where
  maj  : BitVec 6
  mi   : BitVec 6
  d    : BitVec 8
  a    : BitVec 8
  b    : BitVec 8
  c    : BitVec 8
  m    : BitVec 4
  l    : BitVec 4
  stop : Bool
  long : Bool
  mod  : BitVec 10
  deriving DecidableEq, Repr

/-- The words of an instruction: the fields of the first, and the extension word of a long form (R199). -/
structure Image where
  f   : Fields
  ext : Option Word
  deriving DecidableEq, Repr

/-- The instruction word that holds the fields (R195). -/
def Fields.word (f : Fields) : Word :=
  f.maj ++ f.mi ++ f.d ++ f.a ++ f.b ++ f.c ++ f.m ++ f.l ++ BitVec.ofBool f.stop ++ BitVec.ofBool f.long ++ f.mod

/-- The fields of an instruction word (R195). -/
def Fields.ofWord (w : Word) : Fields where
  maj := w.extractLsb' 58 6
  mi := w.extractLsb' 52 6
  d := w.extractLsb' 44 8
  a := w.extractLsb' 36 8
  b := w.extractLsb' 28 8
  c := w.extractLsb' 20 8
  m := w.extractLsb' 16 4
  l := w.extractLsb' 12 4
  stop := w.getLsbD 11
  long := w.getLsbD 10
  mod := w.extractLsb' 0 10

/-- A word of the given opcode and STOPI with every other field zero. -/
def Fields.base (maj mi : BitVec 6) (stop : Bool) : Fields :=
  { maj, mi, d := 0, a := 0, b := 0, c := 0, m := 0, l := 0, stop, long := false, mod := 0 }

/-- The fields with no extension word. -/
def Fields.short (f : Fields) : Image := { f, ext := none }

/-- The fields with IMM58 in an extension word, whose bits [63:58] are zero (R199). -/
def Fields.withLong (f : Fields) (v : BitVec 58) : Image := { f := { f with long := true }, ext := some (v.setWidth 64) }

/-- IMM58 of an extension word. -/
def imm58 (x : Word) : BitVec 58 := x.setWidth 58

/-! The subfields of MOD (R200). -/

/-- MOD of class C. -/
def modC (cond : BitVec 4) (imm : Bool) : BitVec 10 := cond ++ BitVec.ofBool imm ++ 0#5

/-- MOD of class S. -/
def modS (ty : Ty) (sf imm : Bool) : BitVec 10 := ty.code ++ BitVec.ofBool sf ++ 0#3 ++ BitVec.ofBool imm

/-- MOD of class V. -/
def modV (ty : Ty) (rnd : Rnd) (sat sb : Bool) : BitVec 10 :=
  ty.code ++ rnd.code ++ BitVec.ofBool sat ++ BitVec.ofBool sb

/-- MOD of class M. -/
def modM (scope : BitVec 4) (ord : BitVec 2) (width : BitVec 4) : BitVec 10 := scope ++ ord ++ width

/-- TYPE, MOD[9:5]. -/
def Fields.tyBits (f : Fields) : BitVec 5 := f.mod.extractLsb' 5 5
/-- COND, MOD[9:6], and the scope of class M. -/
def Fields.scopeBits (f : Fields) : BitVec 4 := f.mod.extractLsb' 6 4
/-- ORD, MOD[5:4]. -/
def Fields.ordBits (f : Fields) : BitVec 2 := f.mod.extractLsb' 4 2
/-- WIDTH, MOD[3:0]. -/
def Fields.widthBits (f : Fields) : BitVec 4 := f.mod.extractLsb' 0 4
/-- RND, MOD[4:2]. -/
def Fields.rndBits (f : Fields) : BitVec 3 := f.mod.extractLsb' 2 3

/-- The TYPE of a code (R201); codes 0x15 to 0x1F are reserved. -/
def tyOfCode (c : BitVec 5) : Option Ty :=
  match c.toNat with
  | 0x00 => some .i8 | 0x01 => some .i16 | 0x02 => some .i32 | 0x03 => some .i64 | 0x04 => some .i4
  | 0x05 => some .n8 | 0x06 => some .n16 | 0x07 => some .n32 | 0x08 => some .n64 | 0x09 => some .n4
  | 0x0A => some .f64 | 0x0B => some .f32 | 0x0C => some .f16 | 0x0D => some .bf16 | 0x0E => some .e4m3
  | 0x0F => some .e5m2 | 0x10 => some .e3m2 | 0x11 => some .e2m3 | 0x12 => some .e2m1 | 0x13 => some .e8m0
  | 0x14 => some .x128
  | _ => none

/-- The condition of a COND code (R203). -/
def condOfCode (c : BitVec 4) : Option Cond :=
  match c.toNat with
  | 0 => some .eq | 1 => some .ne | 2 => some .hs | 3 => some .lo | 4 => some .mi | 5 => some .pl
  | 6 => some .vs | 7 => some .vc | 8 => some .hi | 9 => some .ls | 10 => some .ge | 11 => some .lt
  | 12 => some .gt | 13 => some .le | 14 => some .always
  | _ => none

/-- The rounding of a RND code (R61). -/
def rndOfCode (c : BitVec 3) : Option Rnd :=
  match c.toNat with
  | 0 => some .rne | 1 => some .rtz | 2 => some .rup | 3 => some .rdn | 4 => some .rsr
  | _ => none

/-- The width of a WIDTH code (R202); codes 11 to 15 are reserved. -/
def widthOfCode (c : BitVec 4) : Option Width :=
  match c.toNat with
  | 0 => some .n8 | 1 => some .i8 | 2 => some .n16 | 3 => some .i16 | 4 => some .n32 | 5 => some .i32
  | 6 => some .n64 | 7 => some .i64 | 8 => some .f32 | 9 => some .x128 | 10 => some .f64
  | _ => none

/-- The scope of a SCOPE code (R202). -/
def scopeOfCode (c : BitVec 4) : Scope :=
  match c.toNat with
  | 0 => .wg | 1 => .cl | 2 => .di | 3 => .pk | 4 => .h1 | 5 => .h2 | 6 => .h3 | 7 => .h4 | 8 => .h5
  | 9 => .h6 | 10 => .h7 | 11 => .h8 | 12 => .h9 | 13 => .h10 | 14 => .h11 | _ => .sys

/-- The ordering of an ORD code (R202). -/
def ordOfCode (c : BitVec 2) : Ord :=
  match c.toNat with
  | 0 => .rlx | 1 => .acq | 2 => .rel | _ => .ar

/-- The counter of a WAITOC WIDTH code (R317). -/
def ctrOfCode (c : BitVec 4) : Option Ctr :=
  match c.toNat with
  | 0 => some .ocm | 1 => some .ocf | 2 => some .ocg | 3 => some .occ | 4 => some .oca | 5 => some .oci
  | _ => none

/-- The special register of a selector (R258). -/
def sregOfCode (c : BitVec 8) : Option SReg :=
  match c.toNat with
  | 0x00 => some .wid | 0x01 => some .wf0 | 0x02 => some .wf1 | 0x03 => some .wf2 | 0x04 => some .wf3
  | 0x05 => some .wf4 | 0x06 => some .wf5 | 0x07 => some .lane | 0x08 => some .fwidth | 0x09 => some .gang
  | 0x0A => some .core | 0x0B => some .clus | 0x0C => some .die | 0x0D => some .chip | 0x0E => some .clk
  | 0x0F => some .partw | 0x10 => some .ucause | 0x11 => some .upc | 0x12 => some .uinfo | 0x13 => some .fmode
  | 0x14 => some .lkst0 | 0x15 => some .lkst1 | 0x16 => some .lkst2 | 0x17 => some .lkst3 | 0x18 => some .flags
  | 0x19 => some .lsdepth | 0x1A => some .ocnt | 0x1B => some .fbatch
  | _ => none

/-- The matrix format of a code (06 R151). -/
def mxFmtOfCode (c : BitVec 4) : Option MxFmt :=
  match c.toNat with
  | 0 => some .i8 | 1 => some .i4 | 2 => some .e4m3 | 3 => some .e5m2 | 4 => some .e3m2 | 5 => some .e2m3
  | 6 => some .e2m1 | 7 => some .bf16 | 8 => some .f16
  | _ => none

/-- A 6-bit register number in an 8-bit field. -/
def f6 (x : BitVec 8) : BitVec 6 := x.setWidth 6
/-- A 4-bit mask number in an 8-bit field. -/
def f4 (x : BitVec 8) : BitVec 4 := x.setWidth 4
/-- A 3-bit tile number in an 8-bit field. -/
def f3 (x : BitVec 8) : BitVec 3 := x.setWidth 3
/-- A register, mask or tile number placed in an 8-bit field. -/
def to8 {n : Nat} (x : BitVec n) : BitVec 8 := x.setWidth 8

/-! The branch layout (R196). -/

/-- OFF20 in bits [51:32]: D, A and the upper half of B. -/
def Fields.withOff20 (f : Fields) (o : BitVec 20) : Fields :=
  { f with d := o.extractLsb' 12 8, a := o.extractLsb' 4 8, b := o.extractLsb' 0 4 ++ 0#4 }

/-- OFF20 of the branch layout. -/
def Fields.off20 (f : Fields) : BitVec 20 := f.d ++ f.a ++ f.b.extractLsb' 4 4

/-- A branch offset in OFF20, or in IMM58 with OFF20 zero. -/
def Off.place (o : Off) (f : Fields) : Image :=
  match o with
  | .short o => (f.withOff20 o).short
  | .long v => f.withLong v

/-- The branch offset of a word. -/
def Off.read (f : Fields) (x : Word) : Off := if f.long then .long (imm58 x) else .short f.off20

def BOp.image (maj mi : BitVec 6) (st : Bool) (o : BOp) : Image :=
  o.off.place { Fields.base maj mi st with mod := modC o.cond.code false }
def BOp.read (f : Fields) (x : Word) : Option BOp :=
  (condOfCode f.scopeBits).map fun cond => { cond, off := Off.read f x  }

def BmOp.image (maj mi : BitVec 6) (st : Bool) (o : BmOp) : Image := o.off.place { Fields.base maj mi st with m := o.m }
def BmOp.read (f : Fields) (x : Word) : Option BmOp := some { m := f.m, off := Off.read f x  }

def CallOp.image (maj mi : BitVec 6) (st : Bool) (o : CallOp) : Image := o.off.place (Fields.base maj mi st)
def CallOp.read (f : Fields) (x : Word) : Option CallOp := some { off := Off.read f x  }

def LoopOp.image (maj mi : BitVec 6) (st : Bool) (o : LoopOp) : Image :=
  let f := Fields.base maj mi st
  match o.count with
  | .imm n off => ({ f with c := n, mod := modC 0 true }.withOff20 off).short
  | .long n off => ({ f with mod := modC 0 true }.withOff20 off).withLong n
  | .reg c off => off.place { f with c := to8 c }
def LoopOp.read (f : Fields) (x : Word) : Option LoopOp :=
  some { count := if f.mod.getLsbD 5 then
                    if f.long then .long (imm58 x) f.off20 else .imm f.c f.off20
                  else .reg (f6 f.c) (Off.read f x) }

/-! Control, system and scalar forms (R212). -/

def SaOp.image (maj mi : BitVec 6) (st : Bool) (o : SaOp) : Image := { Fields.base maj mi st with a := to8 o.a }.short
def SaOp.read (f : Fields) (_ : Word) : Option SaOp := some { a := f6 f.a  }

def ImmOp.image (maj mi : BitVec 6) (st : Bool) (o : ImmOp) : Image := { Fields.base maj mi st with c := o.n }.short
def ImmOp.read (f : Fields) (_ : Word) : Option ImmOp := some { n := f.c  }

def LaunchOp.image (maj mi : BitVec 6) (st : Bool) (o : LaunchOp) : Image :=
  { Fields.base maj mi st with d := to8 o.d, a := to8 o.a }.short
def LaunchOp.read (f : Fields) (_ : Word) : Option LaunchOp := some { d := f6 f.d, a := f6 f.a  }

/-- Source B of class S placed in a word: Sb, imm8 in C with IMM, or IMM58 (R199, R252). -/
def SSrc.place (b : SSrc) (f : Fields) (ty : Ty) (sf : Bool) : Image :=
  match b with
  | .reg n => { f with b := to8 n, mod := modS ty sf false }.short
  | .imm v => { f with c := v, mod := modS ty sf true }.short
  | .long v => { f with mod := modS ty sf false }.withLong v
/-- Source B of a class S word. -/
def SSrc.read (f : Fields) (x : Word) : SSrc :=
  if f.mod.getLsbD 0 then .imm f.c else if f.long then .long (imm58 x) else .reg (f6 f.b)

def SOp.image (maj mi : BitVec 6) (st : Bool) (o : SOp) : Image :=
  o.b.place { Fields.base maj mi st with d := to8 o.d, a := to8 o.a, l := o.look } o.ty o.sf
def SOp.read (f : Fields) (x : Word) : Option SOp :=
  (tyOfCode f.tyBits).map fun ty =>
    { d := f6 f.d, a := f6 f.a, b := SSrc.read f x, ty, sf := f.mod.getLsbD 4, look := f.l  }

def SUn.image (maj mi : BitVec 6) (st : Bool) (o : SUn) : Image :=
  { Fields.base maj mi st with d := to8 o.d, a := to8 o.a, l := o.look, mod := modS o.ty o.sf false }.short
def SUn.read (f : Fields) (_ : Word) : Option SUn :=
  (tyOfCode f.tyBits).map fun ty =>
    { d := f6 f.d, a := f6 f.a, ty, sf := f.mod.getLsbD 4, look := f.l  }

def SliOp.image (maj mi : BitVec 6) (st : Bool) (o : SliOp) : Image :=
  let f := { Fields.base maj mi st with d := to8 o.d, l := o.look }
  match o.imm with
  | .imm v => { f with c := v, mod := modS o.ty o.sf true }.short
  | .long v => { f with mod := modS o.ty o.sf false }.withLong v
def SliOp.read (f : Fields) (x : Word) : Option SliOp :=
  (tyOfCode f.tyBits).map fun ty =>
    { d := f6 f.d, imm := if f.long then .long (imm58 x) else .imm f.c, ty, sf := f.mod.getLsbD 4, look := f.l  }

def SadrOp.image (maj mi : BitVec 6) (st : Bool) (o : SadrOp) : Image :=
  { Fields.base maj mi st with d := to8 o.d, l := o.look, mod := modS .i64 false false }.withLong o.off
def SadrOp.read (f : Fields) (x : Word) : Option SadrOp :=
  some { d := f6 f.d, off := imm58 x, look := f.l  }

def GetSrOp.image (maj mi : BitVec 6) (st : Bool) (o : GetSrOp) : Image :=
  { Fields.base maj mi st with d := to8 o.d, b := o.sel.code, l := o.look, mod := modS .i64 false false }.short
def GetSrOp.read (f : Fields) (_ : Word) : Option GetSrOp :=
  (sregOfCode f.b).map fun sel => { d := f6 f.d, sel, look := f.l  }

def SetSrOp.image (maj mi : BitVec 6) (st : Bool) (o : SetSrOp) : Image :=
  { Fields.base maj mi st with a := to8 o.a, b := o.sel.code, mod := modS .i64 false false }.short
def SetSrOp.read (f : Fields) (_ : Word) : Option SetSrOp :=
  (sregOfCode f.b).map fun sel => { sel, a := f6 f.a  }

def SselOp.image (maj mi : BitVec 6) (st : Bool) (o : SselOp) : Image :=
  let f := { Fields.base maj mi st with
               d := to8 o.d, a := to8 o.a, c := to8 o.cond.code, l := o.look, mod := modS o.ty false false }
  match o.b with
  | .reg n => { f with b := to8 n }.short
  | .long v => f.withLong v
def SselOp.read (f : Fields) (x : Word) : Option SselOp :=
  match tyOfCode f.tyBits, condOfCode (f4 f.c) with
  | some ty, some cond =>
    some { d := f6 f.d, a := f6 f.a, b := if f.long then .long (imm58 x) else .reg (f6 f.b), cond, ty, look := f.l  }
  | _, _ => none

def ScmpOp.image (maj mi : BitVec 6) (st : Bool) (o : ScmpOp) : Image :=
  o.b.place { Fields.base maj mi st with a := to8 o.a } o.ty false
def ScmpOp.read (f : Fields) (x : Word) : Option ScmpOp :=
  (tyOfCode f.tyBits).map fun ty => { a := f6 f.a, b := SSrc.read f x, ty  }

/-! Mask forms (R262). -/

def K3Op.image (maj mi : BitVec 6) (st : Bool) (o : K3Op) : Image :=
  { Fields.base maj mi st with d := to8 o.d, a := to8 o.a, b := to8 o.b }.short
def K3Op.read (f : Fields) (_ : Word) : Option K3Op := some { d := f4 f.d, a := f4 f.a, b := f4 f.b  }

def K2Op.image (maj mi : BitVec 6) (st : Bool) (o : K2Op) : Image :=
  { Fields.base maj mi st with d := to8 o.d, a := to8 o.a }.short
def K2Op.read (f : Fields) (_ : Word) : Option K2Op := some { d := f4 f.d, a := f4 f.a  }

def KsOp.image (maj mi : BitVec 6) (st : Bool) (o : KsOp) : Image :=
  { Fields.base maj mi st with d := to8 o.d, a := to8 o.a }.short
def KsOp.read (f : Fields) (_ : Word) : Option KsOp := some { d := f6 f.d, a := f4 f.a  }

def KfOp.image (maj mi : BitVec 6) (st : Bool) (o : KfOp) : Image :=
  { Fields.base maj mi st with d := to8 o.d, a := to8 o.a, b := to8 o.b }.short
def KfOp.read (f : Fields) (_ : Word) : Option KfOp := some { d := f4 f.d, a := f6 f.a, b := f6 f.b  }

def KtOp.image (maj mi : BitVec 6) (st : Bool) (o : KtOp) : Image :=
  { Fields.base maj mi st with d := to8 o.d, a := to8 o.a, c := o.n }.short
def KtOp.read (f : Fields) (_ : Word) : Option KtOp := some { d := f6 f.d, a := f4 f.a, n := f.c  }

/-! Vector forms (R213, 11 R264, R265). -/

/-- Source B of class V placed in a word (R264). -/
def VSrc.place (b : VSrc) (f : Fields) (ty : Ty) (rnd : Rnd) (sat : Bool) : Image :=
  match b with
  | .absent => { f with mod := modV ty rnd sat false }.short
  | .vec n => { f with b := n, mod := modV ty rnd sat false }.short
  | .sca n => { f with b := to8 n, mod := modV ty rnd sat true }.short
  | .long v => { f with mod := modV ty rnd sat false }.withLong v
/-- Source B of a class V word that has one. -/
def VSrc.read (f : Fields) (x : Word) : VSrc :=
  if f.mod.getLsbD 0 then .sca (f6 f.b) else if f.long then .long (imm58 x) else .vec f.b

def VOp.image (maj mi : BitVec 6) (st : Bool) (o : VOp) : Image :=
  o.b.place { Fields.base maj mi st with d := o.d, a := o.a, c := o.c, m := o.m, l := o.look } o.ty o.rnd o.sat
/-- The operands of a class V word with the given source B. -/
def VOp.readWith (f : Fields) (b : VSrc) : Option VOp :=
  match tyOfCode f.tyBits, rndOfCode f.rndBits with
  | some ty, some rnd =>
    some { d := f.d, a := f.a, b, c := f.c, m := f.m, ty, rnd, sat := f.mod.getLsbD 1, look := f.l  }
  | _, _ => none
/-- A form with a source B. -/
def VOp.read (f : Fields) (x : Word) : Option VOp := VOp.readWith f (VSrc.read f x)
/-- A form that R265 marks as having no source B. -/
def VOp.readBare (f : Fields) : Option VOp := VOp.readWith f .absent

def CvtOp.image (maj mi : BitVec 6) (st : Bool) (o : CvtOp) : Image :=
  { Fields.base maj mi st with
      d := o.d, a := o.a, c := to8 o.src.code, m := o.m, l := o.look, mod := modV o.ty o.rnd o.sat false }.short
def CvtOp.read (f : Fields) (_ : Word) : Option CvtOp :=
  match tyOfCode f.tyBits, rndOfCode f.rndBits, tyOfCode (f.c.setWidth 5) with
  | some ty, some rnd, some src =>
    some { d := f.d, a := f.a, src, m := f.m, ty, rnd, sat := f.mod.getLsbD 1, look := f.l  }
  | _, _, _ => none

/-! Memory and synchronisation forms (R214, 12 R288, R310, R312, R317). -/

/-- A displacement placed in a word: imm8 in C, or IMM58 with C zero (R289). -/
def Disp.place (o : Disp) (f : Fields) : Image :=
  match o with
  | .imm v => { f with c := v }.short
  | .long v => f.withLong v
/-- The displacement of a word. -/
def Disp.read (f : Fields) (x : Word) : Disp := if f.long then .long (imm58 x) else .imm f.c

def MemV.image (maj mi : BitVec 6) (st : Bool) (o : MemV) : Image :=
  o.disp.place { Fields.base maj mi st with
    d := o.d, a := o.a, b := to8 o.b, m := o.m, l := o.look, mod := modM 0 0 o.w.code }
def MemV.read (f : Fields) (x : Word) : Option MemV :=
  (widthOfCode f.widthBits).map fun w =>
    { d := f.d, a := f.a, b := f6 f.b, disp := Disp.read f x, w, m := f.m, look := f.l  }

def MemU.image (maj mi : BitVec 6) (st : Bool) (o : MemU) : Image :=
  o.disp.place { Fields.base maj mi st with
    d := o.d, b := to8 o.b, m := o.m, l := o.look, mod := modM 0 0 o.w.code }
def MemU.read (f : Fields) (x : Word) : Option MemU :=
  (widthOfCode f.widthBits).map fun w =>
    { d := f.d, b := f6 f.b, disp := Disp.read f x, w, m := f.m, look := f.l  }

def MemS.image (maj mi : BitVec 6) (st : Bool) (o : MemS) : Image :=
  o.disp.place { Fields.base maj mi st with
    d := to8 o.d, a := to8 o.a, l := o.look, mod := modM 0 0 o.w.code }
def MemS.read (f : Fields) (x : Word) : Option MemS :=
  (widthOfCode f.widthBits).map fun w =>
    { d := f6 f.d, a := f6 f.a, disp := Disp.read f x, w, look := f.l  }

def AtomOp.image (maj mi : BitVec 6) (st : Bool) (o : AtomOp) : Image :=
  { Fields.base maj mi st with
      d := o.d, a := o.a, b := to8 o.b, c := o.c, m := o.m, l := o.look
      mod := modM o.scope.code o.ord.code o.w.code }.short
def AtomOp.read (f : Fields) (_ : Word) : Option AtomOp :=
  (widthOfCode f.widthBits).map fun w =>
    { d := f.d, a := f.a, b := f6 f.b, c := f.c, w, ord := ordOfCode f.ordBits, scope := scopeOfCode f.scopeBits,
      m := f.m, look := f.l  }

def AcrOp.image (maj mi : BitVec 6) (st : Bool) (o : AcrOp) : Image :=
  { Fields.base maj mi st with
      d := o.d, a := o.a, b := to8 o.b, c := o.scale, m := o.m, mod := modM o.scope.code 0 o.w.code }.short
def AcrOp.read (f : Fields) (_ : Word) : Option AcrOp :=
  (widthOfCode f.widthBits).map fun w =>
    { d := f.d, a := f.a, b := f6 f.b, scale := f.c, w, scope := scopeOfCode f.scopeBits, m := f.m  }

def LckOp.image (maj mi : BitVec 6) (st : Bool) (o : LckOp) : Image :=
  { Fields.base maj mi st with
      d := to8 o.d, a := to8 o.a, b := to8 o.b, l := o.look, mod := modM o.scope.code 0 0 }.short
def LckOp.read (f : Fields) (_ : Word) : Option LckOp :=
  some { d := f6 f.d, a := f6 f.a, b := f6 f.b, scope := scopeOfCode f.scopeBits, look := f.l  }

def LckcanOp.image (maj mi : BitVec 6) (st : Bool) (o : LckcanOp) : Image :=
  { Fields.base maj mi st with d := to8 o.d, a := to8 o.a, l := o.look }.short
def LckcanOp.read (f : Fields) (_ : Word) : Option LckcanOp :=
  some { d := f6 f.d, a := f6 f.a, look := f.l  }

def SaScope.image (maj mi : BitVec 6) (st : Bool) (o : SaScope) : Image :=
  { Fields.base maj mi st with a := to8 o.a, mod := modM o.scope.code 0 0 }.short
def SaScope.read (f : Fields) (_ : Word) : Option SaScope :=
  some { a := f6 f.a, scope := scopeOfCode f.scopeBits  }

def BindWOp.image (maj mi : BitVec 6) (width : BitVec 4) (st : Bool) (o : BindWOp) : Image :=
  { Fields.base maj mi st with a := to8 o.a, b := to8 o.b, c := to8 o.w, mod := modM 0 0 width }.short
def BindWOp.read (f : Fields) (_ : Word) : Option BindWOp :=
  some { a := f6 f.a, b := f6 f.b, w := f6 f.c  }

def BindSOp.image (maj mi : BitVec 6) (width : BitVec 4) (st : Bool) (o : BindSOp) : Image :=
  { Fields.base maj mi st with a := to8 o.a, b := to8 o.b, d := to8 o.c, mod := modM 0 0 width }.short
def BindSOp.read (f : Fields) (_ : Word) : Option BindSOp :=
  some { a := f6 f.a, b := f6 f.b, c := f6 f.d  }

def FenceOp.image (maj mi : BitVec 6) (ord : BitVec 2) (st : Bool) (o : FenceOp) : Image :=
  { Fields.base maj mi st with mod := modM o.scope.code ord 0 }.short
def FenceOp.read (f : Fields) (_ : Word) : Option FenceOp :=
  some { scope := scopeOfCode f.scopeBits  }

def WinitOp.image (maj mi : BitVec 6) (st : Bool) (o : WinitOp) : Image :=
  { Fields.base maj mi st with b := to8 o.b, c := to8 o.w }.short
def WinitOp.read (f : Fields) (_ : Word) : Option WinitOp := some { b := f6 f.b, w := f6 f.c  }

def WarrOp.image (maj mi : BitVec 6) (width : BitVec 4) (st : Bool) (o : WarrOp) : Image :=
  { Fields.base maj mi st with
      d := to8 o.d, c := to8 o.w, m := o.m, l := o.look, mod := modM o.scope.code 0 width }.short
def WarrOp.read (f : Fields) (_ : Word) : Option WarrOp :=
  some { d := f6 f.d, w := f6 f.c, scope := scopeOfCode f.scopeBits, m := f.m, look := f.l  }

def WarrFarOp.image (maj mi : BitVec 6) (width : BitVec 4) (st : Bool) (o : WarrFarOp) : Image :=
  { Fields.base maj mi st with a := to8 o.a, m := o.m, mod := modM o.scope.code 0 width }.short
def WarrFarOp.read (f : Fields) (_ : Word) : Option WarrFarOp :=
  some { a := f6 f.a, scope := scopeOfCode f.scopeBits, m := f.m  }

def WwaitOp.image (maj mi : BitVec 6) (st : Bool) (o : WwaitOp) : Image :=
  { Fields.base maj mi st with
      d := to8 o.d, a := to8 o.a, b := to8 o.b, c := to8 o.w, l := o.look, mod := modM o.scope.code 0 0 }.short
def WwaitOp.read (f : Fields) (_ : Word) : Option WwaitOp :=
  some { d := f6 f.d, a := f6 f.a, b := f6 f.b, w := f6 f.c, scope := scopeOfCode f.scopeBits, look := f.l  }

def WqryOp.image (maj mi : BitVec 6) (width : BitVec 4) (st : Bool) (o : WqryOp) : Image :=
  { Fields.base maj mi st with d := to8 o.d, c := to8 o.w, l := o.look, mod := modM 0 0 width }.short
def WqryOp.read (f : Fields) (_ : Word) : Option WqryOp :=
  some { d := f6 f.d, w := f6 f.c, look := f.l  }

def WaitocOp.image (maj mi : BitVec 6) (st : Bool) (o : WaitocOp) : Image :=
  { Fields.base maj mi st with c := o.n, mod := modM 0 0 o.ctr.code }.short
def WaitocOp.read (f : Fields) (_ : Word) : Option WaitocOp :=
  (ctrOfCode f.widthBits).map fun ctr => { ctr, n := f.c  }

/-! Engine forms (13 R327). -/

/-- MOD of FLCOPY: DIR, MC, CRED, DGE, DG, FINAL. -/
def modFl (out mc cred dge : Bool) (dg : BitVec 2) (final : Bool) : BitVec 10 :=
  BitVec.ofBool out ++ BitVec.ofBool mc ++ BitVec.ofBool cred ++ BitVec.ofBool dge ++ dg ++ BitVec.ofBool final ++ 0#3

def FlcopyOp.image (maj mi : BitVec 6) (st : Bool) (o : FlcopyOp) : Image :=
  let f := { Fields.base maj mi st with
               a := to8 o.a, c := to8 (o.cred.getD 0)
               mod := modFl o.out o.mc o.cred.isSome o.dg.isSome (o.dg.getD 0) o.final }
  match o.opt with
  | .none => f.short
  | .reg b => { f with b := to8 b }.short
  | .long v => f.withLong v
def FlcopyOp.read (f : Fields) (x : Word) : Option FlcopyOp :=
  some { a := f6 f.a
         opt := if f.long then .long (imm58 x) else if f.b = 0 then .none else .reg (f6 f.b)
         out := f.mod.getLsbD 9, mc := f.mod.getLsbD 8
         cred := if f.mod.getLsbD 7 then some (f6 f.c) else none
         dg := if f.mod.getLsbD 6 then some (f.mod.extractLsb' 4 2) else none
         final := f.mod.getLsbD 3  }

/-- The macro and bank field in C: the macro in C[1:0], the bank in C[2]. -/
def macBank (mac : BitVec 2) (bank : Bool) : BitVec 8 := 0#5 ++ BitVec.ofBool bank ++ mac

/-- MOD of the matrix forms: the format in [9:6] and the scale bit in [5]. -/
def modX (fmt : MxFmt) (scale : Bool) : BitVec 10 := fmt.code ++ BitVec.ofBool scale ++ 0#5

def MxOp.image (maj mi : BitVec 6) (st : Bool) (o : MxOp) : Image :=
  { Fields.base maj mi st with
      d := to8 o.t, a := to8 o.a, b := to8 (o.scale.getD 0), c := macBank o.mac o.bank
      mod := modX o.fmt o.scale.isSome }.short
def MxOp.read (f : Fields) (_ : Word) : Option MxOp :=
  (mxFmtOfCode f.scopeBits).map fun fmt =>
    { t := f3 f.d, a := f6 f.a, scale := if f.mod.getLsbD 5 then some (f6 f.b) else none
      mac := f.c.extractLsb' 0 2, bank := f.c.getLsbD 2, fmt  }

def MxinitOp.image (maj mi : BitVec 6) (st : Bool) (o : MxinitOp) : Image :=
  let f := { Fields.base maj mi st with d := to8 o.t }
  match o.anchor with
  | .reg a => { f with a := to8 a }.short
  | .long v => f.withLong v
def MxinitOp.read (f : Fields) (x : Word) : Option MxinitOp :=
  some { t := f3 f.d, anchor := if f.long then .long (imm58 x) else .reg (f6 f.a)  }

def MxloopOp.image (maj mi : BitVec 6) (st : Bool) (o : MxloopOp) : Image :=
  let f := { Fields.base maj mi st with
               d := to8 o.t, a := to8 o.a, c := macBank o.mac o.bank, mod := modX o.fmt o.ascale }
  match o.count with
  | .reg b => { f with b := to8 b }.short
  | .long v => f.withLong v
def MxloopOp.read (f : Fields) (x : Word) : Option MxloopOp :=
  (mxFmtOfCode f.scopeBits).map fun fmt =>
    { t := f3 f.d, a := f6 f.a, count := if f.long then .long (imm58 x) else .reg (f6 f.b)
      mac := f.c.extractLsb' 0 2, bank := f.c.getLsbD 2, fmt, ascale := f.mod.getLsbD 5  }

def MxdrainOp.image (maj mi : BitVec 6) (st : Bool) (o : MxdrainOp) : Image :=
  { Fields.base maj mi st with d := to8 o.t, a := to8 o.a, mod := modV o.ty o.rnd o.sat false }.short
def MxdrainOp.read (f : Fields) (_ : Word) : Option MxdrainOp :=
  match tyOfCode f.tyBits, rndOfCode f.rndBits with
  | some ty, some rnd => some { t := f3 f.d, a := f6 f.a, ty, rnd, sat := f.mod.getLsbD 1  }
  | _, _ => none

def MxswapOp.image (maj mi : BitVec 6) (st : Bool) (o : MxswapOp) : Image :=
  { Fields.base maj mi st with d := to8 o.t, a := to8 o.u }.short
def MxswapOp.read (f : Fields) (_ : Word) : Option MxswapOp := some { t := f3 f.d, u := f3 f.a  }

def MxzeroOp.image (maj mi : BitVec 6) (st : Bool) (o : MxzeroOp) : Image := { Fields.base maj mi st with d := to8 o.t }.short
def MxzeroOp.read (f : Fields) (_ : Word) : Option MxzeroOp := some { t := f3 f.d  }

def MxstatOp.image (maj mi : BitVec 6) (st : Bool) (o : MxstatOp) : Image :=
  { Fields.base maj mi st with d := to8 o.d, a := to8 o.t, l := o.look }.short
def MxstatOp.read (f : Fields) (_ : Word) : Option MxstatOp :=
  some { d := f6 f.d, t := f3 f.a, look := f.l  }

def McOp.image (maj mi : BitVec 6) (st : Bool) (o : McOp) : Image :=
  { Fields.base maj mi st with a := to8 o.a, c := to8 o.w, mod := o.ty.code ++ o.scope.code ++ 0#1 }.short
def McOp.read (f : Fields) (_ : Word) : Option McOp :=
  (tyOfCode f.tyBits).map fun ty =>
    { a := f6 f.a, w := f6 f.c, ty, scope := scopeOfCode (f.mod.extractLsb' 1 4)  }

def IoOp.image (maj mi : BitVec 6) (st : Bool) (o : IoOp) : Image :=
  o.disp.place { Fields.base maj mi st with
    d := to8 o.d, a := to8 o.a, l := o.look, mod := BitVec.ofBool o.wg ++ 0#5 ++ o.w.code }
def IoOp.read (f : Fields) (x : Word) : Option IoOp :=
  (widthOfCode f.widthBits).map fun w =>
    { d := f6 f.d, a := f6 f.a, disp := Disp.read f x, w, wg := f.mod.getLsbD 9, look := f.l  }

/-! The opcode map (R211 to R215). -/

/-- The minors of major 0x1. -/
def candidate01 (f : Fields) (x : Word) : Option Instr :=
  match f.mi.toNat with
  | 0x0 => (BOp.read f x).map .b
  | 0x1 => (BmOp.read f x).map .bmz
  | 0x2 => (BmOp.read f x).map .bmnz
  | 0x3 => (BmOp.read f x).map .bmall
  | 0x4 => (BmOp.read f x).map .bmnall
  | 0x5 => (SaOp.read f x).map .bri
  | _ => none

/-- The minors of major 0x2. -/
def candidate02 (f : Fields) (x : Word) : Option Instr :=
  match f.mi.toNat with
  | 0x0 => (CallOp.read f x).map .call
  | 0x1 => (SaOp.read f x).map .calli
  | 0x2 => (SaOp.read f x).map .ret
  | 0x3 => (LoopOp.read f x).map .loop
  | 0x4 => (BmOp.read f x).map .spawn
  | 0x5 => some .fend
  | 0x6 => some .yield
  | 0x7 => some .halt
  | 0x8 => (SaOp.read f x).map .upret
  | _ => none

/-- The minors of major 0x3. -/
def candidate03 (f : Fields) (x : Word) : Option Instr :=
  match f.mi.toNat with
  | 0x0 => some .nop
  | 0x1 => (ImmOp.read f x).map .trap
  | 0x2 => some .bkpt
  | 0x3 => (ImmOp.read f x).map .sysc
  | 0x4 => (LaunchOp.read f x).map .launch
  | _ => none

/-- The minors of major 0x4. -/
def candidate04 (f : Fields) (x : Word) : Option Instr :=
  match f.mi.toNat with
  | 0x0 => (SOp.read f x).map .sadd
  | 0x1 => (SOp.read f x).map .ssub
  | 0x2 => (SOp.read f x).map .smul
  | 0x3 => (SOp.read f x).map .smulh
  | 0x4 => (SOp.read f x).map .smulhu
  | 0x5 => (SOp.read f x).map .sdiv
  | 0x6 => (SOp.read f x).map .sdivu
  | 0x7 => (SOp.read f x).map .srem
  | 0x8 => (SOp.read f x).map .sremu
  | 0x9 => (SOp.read f x).map .sand
  | 0xa => (SOp.read f x).map .sor
  | 0xb => (SOp.read f x).map .sxor
  | 0xc => (SOp.read f x).map .sandn
  | 0xd => (SOp.read f x).map .sshl
  | 0xe => (SOp.read f x).map .sshr
  | 0xf => (SOp.read f x).map .ssra
  | 0x10 => (SOp.read f x).map .srot
  | 0x11 => (SOp.read f x).map .smin
  | 0x12 => (SOp.read f x).map .smax
  | 0x13 => (SOp.read f x).map .sminu
  | 0x14 => (SOp.read f x).map .smaxu
  | 0x15 => (SUn.read f x).map .sclz
  | 0x16 => (SUn.read f x).map .sctz
  | 0x17 => (SUn.read f x).map .spop
  | 0x18 => (SUn.read f x).map .sext
  | _ => none

/-- The minors of major 0x5. -/
def candidate05 (f : Fields) (x : Word) : Option Instr :=
  match f.mi.toNat with
  | 0x0 => (SUn.read f x).map .smov
  | 0x1 => (SliOp.read f x).map .sli
  | 0x2 => (SadrOp.read f x).map .sadr
  | 0x3 => (GetSrOp.read f x).map .sgetsr
  | 0x4 => (SetSrOp.read f x).map .ssetsr
  | 0x5 => (SselOp.read f x).map .ssel
  | _ => none

/-- The minors of major 0x6. -/
def candidate06 (f : Fields) (x : Word) : Option Instr :=
  match f.mi.toNat with
  | 0x0 => (ScmpOp.read f x).map .scmp
  | 0x1 => (ScmpOp.read f x).map .scmn
  | 0x2 => (ScmpOp.read f x).map .stst
  | _ => none

/-- The minors of major 0x7. -/
def candidate07 (f : Fields) (x : Word) : Option Instr :=
  match f.mi.toNat with
  | 0x0 => (K3Op.read f x).map .kand
  | 0x1 => (K3Op.read f x).map .kor
  | 0x2 => (K3Op.read f x).map .kxor
  | 0x3 => (K3Op.read f x).map .kandn
  | 0x4 => (K2Op.read f x).map .knot
  | 0x5 => (K2Op.read f x).map .kmov
  | 0x6 => (KsOp.read f x).map .kpop
  | 0x7 => (KsOp.read f x).map .kfirst
  | 0x8 => (KfOp.read f x).map .kfroms
  | 0x9 => (KtOp.read f x).map .ktos
  | _ => none

/-- The minors of major 0x8. -/
def candidate08 (f : Fields) (x : Word) : Option Instr :=
  match f.mi.toNat with
  | 0x0 => (VOp.read f x).map .vadd
  | 0x1 => (VOp.read f x).map .vsub
  | 0x2 => (VOp.read f x).map .vmul
  | 0x3 => (VOp.read f x).map .vmulh
  | 0x4 => (VOp.read f x).map .vmad
  | 0x5 => (VOp.readBare f).map .vabs
  | 0x6 => (VOp.readBare f).map .vneg
  | 0x7 => (VOp.read f x).map .vmin
  | 0x8 => (VOp.read f x).map .vmax
  | 0x9 => (VOp.read f x).map .vavg
  | 0xa => (VOp.read f x).map .vabsd
  | 0xb => (VOp.read f x).map .vdiv
  | 0xc => (VOp.read f x).map .vrem
  | _ => none

/-- The minors of major 0x9. -/
def candidate09 (f : Fields) (x : Word) : Option Instr :=
  match f.mi.toNat with
  | 0x0 => (VOp.read f x).map .vand
  | 0x1 => (VOp.read f x).map .vor
  | 0x2 => (VOp.read f x).map .vxor
  | 0x3 => (VOp.read f x).map .vandn
  | 0x4 => (VOp.readBare f).map .vnot
  | 0x5 => (VOp.read f x).map .vshl
  | 0x6 => (VOp.read f x).map .vshr
  | 0x7 => (VOp.read f x).map .vrot
  | 0x8 => (VOp.read f x).map .vbext
  | 0x9 => (VOp.read f x).map .vbins
  | 0xa => (VOp.readBare f).map .vclz
  | 0xb => (VOp.readBare f).map .vctz
  | 0xc => (VOp.readBare f).map .vpop
  | 0xd => (VOp.readBare f).map .vbrev
  | _ => none

/-- The minors of major 0xa. -/
def candidate0A (f : Fields) (x : Word) : Option Instr :=
  match f.mi.toNat with
  | 0x0 => (VOp.read f x).map .vcmp
  | 0x1 => (VOp.read f x).map .vtest
  | 0x2 => (VOp.read f x).map .vsel
  | _ => none

/-- The minors of major 0xb. -/
def candidate0B (f : Fields) (x : Word) : Option Instr :=
  match f.mi.toNat with
  | 0x0 => (VOp.read f x).map .vfadd
  | 0x1 => (VOp.read f x).map .vfsub
  | 0x2 => (VOp.read f x).map .vfmul
  | 0x3 => (VOp.read f x).map .vfdiv
  | 0x4 => (VOp.readBare f).map .vfabs
  | 0x5 => (VOp.readBare f).map .vfneg
  | 0x6 => (VOp.read f x).map .vfsgn
  | _ => none

/-- The minors of major 0xc. -/
def candidate0C (f : Fields) (x : Word) : Option Instr :=
  match f.mi.toNat with
  | 0x0 => (VOp.read f x).map .vfma
  | 0x1 => (VOp.read f x).map .vfms
  | 0x2 => (VOp.read f x).map .vfnma
  | 0x3 => (VOp.read f x).map .vfnms
  | _ => none

/-- The minors of major 0xd. -/
def candidate0D (f : Fields) (x : Word) : Option Instr :=
  match f.mi.toNat with
  | 0x0 => (VOp.read f x).map .vfmin
  | 0x1 => (VOp.read f x).map .vfmax
  | 0x2 => (VOp.read f x).map .vfcmp
  | 0x3 => (VOp.readBare f).map .vfclass
  | _ => none

/-- The minors of major 0xe. -/
def candidate0E (f : Fields) (x : Word) : Option Instr :=
  match f.mi.toNat with
  | 0x0 => (CvtOp.read f x).map .vcvt
  | 0x1 => (VOp.read f x).map .vpack
  | 0x2 => (VOp.readBare f).map .vunpk
  | _ => none

/-- The minors of major 0xf. -/
def candidate0F (f : Fields) (_ : Word) : Option Instr :=
  match f.mi.toNat with
  | 0x0 => (VOp.readBare f).map .vexp2
  | 0x1 => (VOp.readBare f).map .vlog2
  | 0x2 => (VOp.readBare f).map .vrcp
  | 0x3 => (VOp.readBare f).map .vrsq
  | 0x4 => (VOp.readBare f).map .vsqrt
  | _ => none

/-- The minors of major 0x10. -/
def candidate10 (f : Fields) (x : Word) : Option Instr :=
  match f.mi.toNat with
  | 0x0 => (VOp.read f x).map .vdot2
  | 0x1 => (VOp.read f x).map .vdot4
  | _ => none

/-- The minors of major 0x11. -/
def candidate11 (f : Fields) (x : Word) : Option Instr :=
  match f.mi.toNat with
  | 0x0 => (VOp.read f x).map .vmov
  | 0x1 => (VOp.read f x).map .vbcast
  | 0x2 => (VOp.read f x).map .viota
  | 0x3 => (VOp.readBare f).map .vgetsrs
  | 0x4 => (VOp.readBare f).map .vsetsrs
  | 0x5 => (VOp.read f x).map .vlane
  | 0x6 => (VOp.read f x).map .vins
  | _ => none

/-- The minors of major 0x12. -/
def candidate12 (f : Fields) (x : Word) : Option Instr :=
  match f.mi.toNat with
  | 0x0 => (VOp.read f x).map .vshuf
  | 0x1 => (VOp.read f x).map .vrotl
  | 0x2 => (VOp.read f x).map .vshup
  | 0x3 => (VOp.read f x).map .vshdn
  | 0x4 => (VOp.read f x).map .vbfly
  | _ => none

/-- The minors of major 0x13. -/
def candidate13 (f : Fields) (_ : Word) : Option Instr :=
  match f.mi.toNat with
  | 0x0 => (VOp.readBare f).map .vscan
  | 0x1 => (VOp.readBare f).map .vred
  | _ => none

/-- The minors of major 0x14. -/
def candidate14 (f : Fields) (_ : Word) : Option Instr :=
  match f.mi.toNat with
  | 0x0 => (VOp.readBare f).map .vmatch
  | 0x1 => (VOp.readBare f).map .vcompact
  | 0x2 => (VOp.readBare f).map .vexpand
  | 0x3 => (VOp.readBare f).map .vballot
  | _ => none

/-- The minors of major 0x15. -/
def candidate15 (f : Fields) (x : Word) : Option Instr :=
  match f.mi.toNat with
  | 0x0 => (MemV.read f x).map .vlds
  | 0x1 => (MemV.read f x).map .vsts
  | 0x2 => (MemU.read f x).map .vldsu
  | _ => none

/-- The minors of major 0x16. -/
def candidate16 (f : Fields) (x : Word) : Option Instr :=
  match f.mi.toNat with
  | 0x0 => (MemV.read f x).map .vldg
  | 0x1 => (MemV.read f x).map .vstg
  | 0x2 => (MemU.read f x).map .vldgu
  | 0x3 => (MemV.read f x).map .vpref
  | _ => none

/-- The minors of major 0x17. -/
def candidate17 (f : Fields) (x : Word) : Option Instr :=
  match f.mi.toNat with
  | 0x0 => (MemV.read f x).map .vldp
  | 0x1 => (MemV.read f x).map .vstp
  | _ => none

/-- The minors of major 0x18. -/
def candidate18 (f : Fields) (x : Word) : Option Instr :=
  match f.mi.toNat with
  | 0x0 => (MemS.read f x).map .sldg
  | 0x1 => (MemS.read f x).map .sstg
  | 0x2 => (MemS.read f x).map .slds
  | 0x3 => (MemS.read f x).map .ssts
  | _ => none

/-- The minors of major 0x19. -/
def candidate19 (f : Fields) (x : Word) : Option Instr :=
  match f.mi.toNat with
  | 0x0 => (AtomOp.read f x).map .atlLd
  | 0x1 => (AtomOp.read f x).map .atlSt
  | 0x2 => (AtomOp.read f x).map .atlXchg
  | 0x3 => (AtomOp.read f x).map .atlCas
  | 0x4 => (AtomOp.read f x).map .atlAdd
  | 0x5 => (AtomOp.read f x).map .atlAnd
  | 0x6 => (AtomOp.read f x).map .atlOr
  | 0x7 => (AtomOp.read f x).map .atlXor
  | 0x8 => (AtomOp.read f x).map .atlMin
  | 0x9 => (AtomOp.read f x).map .atlMax
  | 0xa => (AtomOp.read f x).map .atlFadd
  | 0xb => (AtomOp.read f x).map .atlFmin
  | 0xc => (AtomOp.read f x).map .atlFmax
  | _ => none

/-- The minors of major 0x1a. -/
def candidate1A (f : Fields) (x : Word) : Option Instr :=
  match f.mi.toNat with
  | 0x0 => (AtomOp.read f x).map .atgLd
  | 0x1 => (AtomOp.read f x).map .atgSt
  | 0x2 => (AtomOp.read f x).map .atgXchg
  | 0x3 => (AtomOp.read f x).map .atgCas
  | 0x4 => (AtomOp.read f x).map .atgAdd
  | 0x5 => (AtomOp.read f x).map .atgAnd
  | 0x6 => (AtomOp.read f x).map .atgOr
  | 0x7 => (AtomOp.read f x).map .atgXor
  | 0x8 => (AtomOp.read f x).map .atgMin
  | 0x9 => (AtomOp.read f x).map .atgMax
  | 0xa => (AtomOp.read f x).map .atgFadd
  | 0xb => (AtomOp.read f x).map .atgFmin
  | 0xc => (AtomOp.read f x).map .atgFmax
  | _ => none

/-- The minors of major 0x1b. -/
def candidate1B (f : Fields) (x : Word) : Option Instr :=
  match f.mi.toNat with
  | 0x4 => (AtomOp.read f x).map .redgAdd
  | 0x5 => (AtomOp.read f x).map .redgAnd
  | 0x6 => (AtomOp.read f x).map .redgOr
  | 0x7 => (AtomOp.read f x).map .redgXor
  | 0x8 => (AtomOp.read f x).map .redgMin
  | 0x9 => (AtomOp.read f x).map .redgMax
  | 0xa => (AtomOp.read f x).map .redgFadd
  | 0xb => (AtomOp.read f x).map .redgFmin
  | 0xc => (AtomOp.read f x).map .redgFmax
  | _ => none

/-- The minors of major 0x1c. -/
def candidate1C (f : Fields) (x : Word) : Option Instr :=
  match f.mi.toNat with
  | 0x0 => (AcrOp.read f x).map .acrIadd32
  | 0x1 => (AcrOp.read f x).map .acrIadd64
  | 0x2 => (AcrOp.read f x).map .acrFadd32
  | 0x3 => (AcrOp.read f x).map .acrXadd
  | 0x4 => (AcrOp.read f x).map .acrFmin32
  | 0x5 => (AcrOp.read f x).map .acrFmax32
  | 0x6 => (AcrOp.read f x).map .acrImins
  | 0x7 => (AcrOp.read f x).map .acrIminu
  | 0x8 => (AcrOp.read f x).map .acrImaxs
  | 0x9 => (AcrOp.read f x).map .acrImaxu
  | 0xa => (AcrOp.read f x).map .acrOr
  | 0xb => (AcrOp.read f x).map .acrAnd
  | 0xc => (AcrOp.read f x).map .acrXor
  | _ => none

/-- The minors of major 0x1d. -/
def candidate1D (f : Fields) (x : Word) : Option Instr :=
  match f.mi.toNat with
  | 0x0 => (LckOp.read f x).map .lck
  | 0x1 => (LckcanOp.read f x).map .lckcan
  | 0x2 => (SaScope.read f x).map .ulk
  | _ => none

/-- The minors of major 0x1e. -/
def candidate1E (f : Fields) (x : Word) : Option Instr :=
  match f.mi.toNat with
  | 0x0 =>
    match (f.widthBits).toNat with
    | 0 => (BindWOp.read f x).map .bindWeir
    | 1 => (BindSOp.read f x).map .bindLock
    | 2 => (BindSOp.read f x).map .bindSync
    | _ => none
  | 0x1 => (SaOp.read f x).map .unbind
  | 0x2 =>
    match (f.ordBits).toNat with
    | 1 => (FenceOp.read f x).map .fenceAcq
    | 2 => (FenceOp.read f x).map .fenceRel
    | 3 => (FenceOp.read f x).map .fenceAr
    | _ => none
  | _ => none

/-- The minors of major 0x1f. -/
def candidate1F (f : Fields) (x : Word) : Option Instr :=
  match f.mi.toNat with
  | 0x0 => (WinitOp.read f x).map .winit
  | 0x1 =>
    match (f.widthBits).toNat with
    | 0 => (WarrOp.read f x).map .warr
    | 1 => (WarrOp.read f x).map .warrLanes
    | _ => none
  | 0x2 =>
    match (f.widthBits).toNat with
    | 0 => (WarrFarOp.read f x).map .warrFar
    | 1 => (WarrFarOp.read f x).map .warrFarLanes
    | _ => none
  | 0x3 => (WwaitOp.read f x).map .wwait
  | 0x4 =>
    match (f.widthBits).toNat with
    | 0 => (WqryOp.read f x).map .wqryLo
    | 1 => (WqryOp.read f x).map .wqryHi
    | 2 => (WqryOp.read f x).map .wqryHandle
    | _ => none
  | 0x5 => (WaitocOp.read f x).map .waitoc
  | _ => none

/-- The minors of major 0x20. -/
def candidate20 (f : Fields) (x : Word) : Option Instr :=
  match f.mi.toNat with
  | 0x0 => (FlcopyOp.read f x).map .flcopy1d
  | 0x1 => (FlcopyOp.read f x).map .flcopy2d
  | 0x2 => (FlcopyOp.read f x).map .flcopy3d
  | 0x3 => some .flseal
  | 0x4 => (ImmOp.read f x).map .flwait
  | 0x5 => some .flstage
  | _ => none

/-- The minors of major 0x21. -/
def candidate21 (f : Fields) (x : Word) : Option Instr :=
  match f.mi.toNat with
  | 0x0 => (SaOp.read f x).map .gather
  | 0x1 => (SaOp.read f x).map .scatter
  | _ => none

/-- The minors of major 0x22. -/
def candidate22 (f : Fields) (x : Word) : Option Instr :=
  match f.mi.toNat with
  | 0x0 => (MxOp.read f x).map .mxloadb
  | 0x1 => (MxinitOp.read f x).map .mxinit
  | 0x2 => (MxOp.read f x).map .mxmul
  | 0x3 => (MxloopOp.read f x).map .mxloop
  | 0x4 => (MxdrainOp.read f x).map .mxdrain
  | 0x5 => (MxswapOp.read f x).map .mxswap
  | 0x6 => (MxzeroOp.read f x).map .mxzero
  | 0x7 => (MxstatOp.read f x).map .mxstat
  | _ => none

/-- The minors of major 0x23. -/
def candidate23 (f : Fields) (x : Word) : Option Instr :=
  match f.mi.toNat with
  | 0x0 => (McOp.read f x).map .mcsr
  | 0x1 => (McOp.read f x).map .mclr
  | _ => none

/-- The minors of major 0x24. -/
def candidate24 (f : Fields) (x : Word) : Option Instr :=
  match f.mi.toNat with
  | 0x0 => (IoOp.read f x).map .iold
  | 0x1 => (IoOp.read f x).map .iost
  | 0x2 => (IoOp.read f x).map .dbell
  | _ => none

/-- The instruction that the major and minor opcodes of a word name, with its operands read from the fields. -/
def candidate (f : Fields) (x : Word) : Option Instr :=
  match f.maj.toNat with
  | 0x1 => candidate01 f x
  | 0x2 => candidate02 f x
  | 0x3 => candidate03 f x
  | 0x4 => candidate04 f x
  | 0x5 => candidate05 f x
  | 0x6 => candidate06 f x
  | 0x7 => candidate07 f x
  | 0x8 => candidate08 f x
  | 0x9 => candidate09 f x
  | 0xa => candidate0A f x
  | 0xb => candidate0B f x
  | 0xc => candidate0C f x
  | 0xd => candidate0D f x
  | 0xe => candidate0E f x
  | 0xf => candidate0F f x
  | 0x10 => candidate10 f x
  | 0x11 => candidate11 f x
  | 0x12 => candidate12 f x
  | 0x13 => candidate13 f x
  | 0x14 => candidate14 f x
  | 0x15 => candidate15 f x
  | 0x16 => candidate16 f x
  | 0x17 => candidate17 f x
  | 0x18 => candidate18 f x
  | 0x19 => candidate19 f x
  | 0x1a => candidate1A f x
  | 0x1b => candidate1B f x
  | 0x1c => candidate1C f x
  | 0x1d => candidate1D f x
  | 0x1e => candidate1E f x
  | 0x1f => candidate1F f x
  | 0x20 => candidate20 f x
  | 0x21 => candidate21 f x
  | 0x22 => candidate22 f x
  | 0x23 => candidate23 f x
  | 0x24 => candidate24 f x
  | _ => none

/-- The words of a Ferja instruction: its fields and the extension word, by the opcode map of R211 to R215. -/
def Instr.image (st : Bool) : Instr → Option Image
  | .b o => some (o.image 0x1 0x0 st)
  | .bmz o => some (o.image 0x1 0x1 st)
  | .bmnz o => some (o.image 0x1 0x2 st)
  | .bmall o => some (o.image 0x1 0x3 st)
  | .bmnall o => some (o.image 0x1 0x4 st)
  | .bri o => some (o.image 0x1 0x5 st)
  | .call o => some (o.image 0x2 0x0 st)
  | .calli o => some (o.image 0x2 0x1 st)
  | .ret o => some (o.image 0x2 0x2 st)
  | .loop o => some (o.image 0x2 0x3 st)
  | .spawn o => some (o.image 0x2 0x4 st)
  | .fend => some (Fields.base 0x2 0x5 st).short
  | .yield => some (Fields.base 0x2 0x6 st).short
  | .halt => some (Fields.base 0x2 0x7 st).short
  | .upret o => some (o.image 0x2 0x8 st)
  | .nop => some (Fields.base 0x3 0x0 st).short
  | .trap o => some (o.image 0x3 0x1 st)
  | .bkpt => some (Fields.base 0x3 0x2 st).short
  | .sysc o => some (o.image 0x3 0x3 st)
  | .launch o => some (o.image 0x3 0x4 st)
  | .sadd o => some (o.image 0x4 0x0 st)
  | .ssub o => some (o.image 0x4 0x1 st)
  | .smul o => some (o.image 0x4 0x2 st)
  | .smulh o => some (o.image 0x4 0x3 st)
  | .smulhu o => some (o.image 0x4 0x4 st)
  | .sdiv o => some (o.image 0x4 0x5 st)
  | .sdivu o => some (o.image 0x4 0x6 st)
  | .srem o => some (o.image 0x4 0x7 st)
  | .sremu o => some (o.image 0x4 0x8 st)
  | .sand o => some (o.image 0x4 0x9 st)
  | .sor o => some (o.image 0x4 0xa st)
  | .sxor o => some (o.image 0x4 0xb st)
  | .sandn o => some (o.image 0x4 0xc st)
  | .sshl o => some (o.image 0x4 0xd st)
  | .sshr o => some (o.image 0x4 0xe st)
  | .ssra o => some (o.image 0x4 0xf st)
  | .srot o => some (o.image 0x4 0x10 st)
  | .smin o => some (o.image 0x4 0x11 st)
  | .smax o => some (o.image 0x4 0x12 st)
  | .sminu o => some (o.image 0x4 0x13 st)
  | .smaxu o => some (o.image 0x4 0x14 st)
  | .sclz o => some (o.image 0x4 0x15 st)
  | .sctz o => some (o.image 0x4 0x16 st)
  | .spop o => some (o.image 0x4 0x17 st)
  | .sext o => some (o.image 0x4 0x18 st)
  | .smov o => some (o.image 0x5 0x0 st)
  | .sli o => some (o.image 0x5 0x1 st)
  | .sadr o => some (o.image 0x5 0x2 st)
  | .sgetsr o => some (o.image 0x5 0x3 st)
  | .ssetsr o => some (o.image 0x5 0x4 st)
  | .ssel o => some (o.image 0x5 0x5 st)
  | .scmp o => some (o.image 0x6 0x0 st)
  | .scmn o => some (o.image 0x6 0x1 st)
  | .stst o => some (o.image 0x6 0x2 st)
  | .kand o => some (o.image 0x7 0x0 st)
  | .kor o => some (o.image 0x7 0x1 st)
  | .kxor o => some (o.image 0x7 0x2 st)
  | .kandn o => some (o.image 0x7 0x3 st)
  | .knot o => some (o.image 0x7 0x4 st)
  | .kmov o => some (o.image 0x7 0x5 st)
  | .kpop o => some (o.image 0x7 0x6 st)
  | .kfirst o => some (o.image 0x7 0x7 st)
  | .kfroms o => some (o.image 0x7 0x8 st)
  | .ktos o => some (o.image 0x7 0x9 st)
  | .vadd o => some (o.image 0x8 0x0 st)
  | .vsub o => some (o.image 0x8 0x1 st)
  | .vmul o => some (o.image 0x8 0x2 st)
  | .vmulh o => some (o.image 0x8 0x3 st)
  | .vmad o => some (o.image 0x8 0x4 st)
  | .vabs o => some (o.image 0x8 0x5 st)
  | .vneg o => some (o.image 0x8 0x6 st)
  | .vmin o => some (o.image 0x8 0x7 st)
  | .vmax o => some (o.image 0x8 0x8 st)
  | .vavg o => some (o.image 0x8 0x9 st)
  | .vabsd o => some (o.image 0x8 0xa st)
  | .vdiv o => some (o.image 0x8 0xb st)
  | .vrem o => some (o.image 0x8 0xc st)
  | .vand o => some (o.image 0x9 0x0 st)
  | .vor o => some (o.image 0x9 0x1 st)
  | .vxor o => some (o.image 0x9 0x2 st)
  | .vandn o => some (o.image 0x9 0x3 st)
  | .vnot o => some (o.image 0x9 0x4 st)
  | .vshl o => some (o.image 0x9 0x5 st)
  | .vshr o => some (o.image 0x9 0x6 st)
  | .vrot o => some (o.image 0x9 0x7 st)
  | .vbext o => some (o.image 0x9 0x8 st)
  | .vbins o => some (o.image 0x9 0x9 st)
  | .vclz o => some (o.image 0x9 0xa st)
  | .vctz o => some (o.image 0x9 0xb st)
  | .vpop o => some (o.image 0x9 0xc st)
  | .vbrev o => some (o.image 0x9 0xd st)
  | .vcmp o => some (o.image 0xa 0x0 st)
  | .vtest o => some (o.image 0xa 0x1 st)
  | .vsel o => some (o.image 0xa 0x2 st)
  | .vfadd o => some (o.image 0xb 0x0 st)
  | .vfsub o => some (o.image 0xb 0x1 st)
  | .vfmul o => some (o.image 0xb 0x2 st)
  | .vfdiv o => some (o.image 0xb 0x3 st)
  | .vfabs o => some (o.image 0xb 0x4 st)
  | .vfneg o => some (o.image 0xb 0x5 st)
  | .vfsgn o => some (o.image 0xb 0x6 st)
  | .vfma o => some (o.image 0xc 0x0 st)
  | .vfms o => some (o.image 0xc 0x1 st)
  | .vfnma o => some (o.image 0xc 0x2 st)
  | .vfnms o => some (o.image 0xc 0x3 st)
  | .vfmin o => some (o.image 0xd 0x0 st)
  | .vfmax o => some (o.image 0xd 0x1 st)
  | .vfcmp o => some (o.image 0xd 0x2 st)
  | .vfclass o => some (o.image 0xd 0x3 st)
  | .vcvt o => some (o.image 0xe 0x0 st)
  | .vpack o => some (o.image 0xe 0x1 st)
  | .vunpk o => some (o.image 0xe 0x2 st)
  | .vexp2 o => some (o.image 0xf 0x0 st)
  | .vlog2 o => some (o.image 0xf 0x1 st)
  | .vrcp o => some (o.image 0xf 0x2 st)
  | .vrsq o => some (o.image 0xf 0x3 st)
  | .vsqrt o => some (o.image 0xf 0x4 st)
  | .vdot2 o => some (o.image 0x10 0x0 st)
  | .vdot4 o => some (o.image 0x10 0x1 st)
  | .vmov o => some (o.image 0x11 0x0 st)
  | .vbcast o => some (o.image 0x11 0x1 st)
  | .viota o => some (o.image 0x11 0x2 st)
  | .vgetsrs o => some (o.image 0x11 0x3 st)
  | .vsetsrs o => some (o.image 0x11 0x4 st)
  | .vlane o => some (o.image 0x11 0x5 st)
  | .vins o => some (o.image 0x11 0x6 st)
  | .vshuf o => some (o.image 0x12 0x0 st)
  | .vrotl o => some (o.image 0x12 0x1 st)
  | .vshup o => some (o.image 0x12 0x2 st)
  | .vshdn o => some (o.image 0x12 0x3 st)
  | .vbfly o => some (o.image 0x12 0x4 st)
  | .vscan o => some (o.image 0x13 0x0 st)
  | .vred o => some (o.image 0x13 0x1 st)
  | .vmatch o => some (o.image 0x14 0x0 st)
  | .vcompact o => some (o.image 0x14 0x1 st)
  | .vexpand o => some (o.image 0x14 0x2 st)
  | .vballot o => some (o.image 0x14 0x3 st)
  | .vlds o => some (o.image 0x15 0x0 st)
  | .vldg o => some (o.image 0x16 0x0 st)
  | .vldp o => some (o.image 0x17 0x0 st)
  | .vsts o => some (o.image 0x15 0x1 st)
  | .vstg o => some (o.image 0x16 0x1 st)
  | .vstp o => some (o.image 0x17 0x1 st)
  | .vldsu o => some (o.image 0x15 0x2 st)
  | .vldgu o => some (o.image 0x16 0x2 st)
  | .vpref o => some (o.image 0x16 0x3 st)
  | .sldg o => some (o.image 0x18 0x0 st)
  | .sstg o => some (o.image 0x18 0x1 st)
  | .slds o => some (o.image 0x18 0x2 st)
  | .ssts o => some (o.image 0x18 0x3 st)
  | .atlLd o => some (o.image 0x19 0x0 st)
  | .atlSt o => some (o.image 0x19 0x1 st)
  | .atlXchg o => some (o.image 0x19 0x2 st)
  | .atlCas o => some (o.image 0x19 0x3 st)
  | .atlAdd o => some (o.image 0x19 0x4 st)
  | .atlAnd o => some (o.image 0x19 0x5 st)
  | .atlOr o => some (o.image 0x19 0x6 st)
  | .atlXor o => some (o.image 0x19 0x7 st)
  | .atlMin o => some (o.image 0x19 0x8 st)
  | .atlMax o => some (o.image 0x19 0x9 st)
  | .atlFadd o => some (o.image 0x19 0xa st)
  | .atlFmin o => some (o.image 0x19 0xb st)
  | .atlFmax o => some (o.image 0x19 0xc st)
  | .atgLd o => some (o.image 0x1a 0x0 st)
  | .atgSt o => some (o.image 0x1a 0x1 st)
  | .atgXchg o => some (o.image 0x1a 0x2 st)
  | .atgCas o => some (o.image 0x1a 0x3 st)
  | .atgAdd o => some (o.image 0x1a 0x4 st)
  | .atgAnd o => some (o.image 0x1a 0x5 st)
  | .atgOr o => some (o.image 0x1a 0x6 st)
  | .atgXor o => some (o.image 0x1a 0x7 st)
  | .atgMin o => some (o.image 0x1a 0x8 st)
  | .atgMax o => some (o.image 0x1a 0x9 st)
  | .atgFadd o => some (o.image 0x1a 0xa st)
  | .atgFmin o => some (o.image 0x1a 0xb st)
  | .atgFmax o => some (o.image 0x1a 0xc st)
  | .redgAdd o => some (o.image 0x1b 0x4 st)
  | .redgAnd o => some (o.image 0x1b 0x5 st)
  | .redgOr o => some (o.image 0x1b 0x6 st)
  | .redgXor o => some (o.image 0x1b 0x7 st)
  | .redgMin o => some (o.image 0x1b 0x8 st)
  | .redgMax o => some (o.image 0x1b 0x9 st)
  | .redgFadd o => some (o.image 0x1b 0xa st)
  | .redgFmin o => some (o.image 0x1b 0xb st)
  | .redgFmax o => some (o.image 0x1b 0xc st)
  | .acrIadd32 o => some (o.image 0x1c 0x0 st)
  | .acrIadd64 o => some (o.image 0x1c 0x1 st)
  | .acrFadd32 o => some (o.image 0x1c 0x2 st)
  | .acrXadd o => some (o.image 0x1c 0x3 st)
  | .acrFmin32 o => some (o.image 0x1c 0x4 st)
  | .acrFmax32 o => some (o.image 0x1c 0x5 st)
  | .acrImins o => some (o.image 0x1c 0x6 st)
  | .acrIminu o => some (o.image 0x1c 0x7 st)
  | .acrImaxs o => some (o.image 0x1c 0x8 st)
  | .acrImaxu o => some (o.image 0x1c 0x9 st)
  | .acrOr o => some (o.image 0x1c 0xa st)
  | .acrAnd o => some (o.image 0x1c 0xb st)
  | .acrXor o => some (o.image 0x1c 0xc st)
  | .lck o => some (o.image 0x1d 0x0 st)
  | .lckcan o => some (o.image 0x1d 0x1 st)
  | .ulk o => some (o.image 0x1d 0x2 st)
  | .bindWeir o => some (o.image 0x1e 0x0 0 st)
  | .bindLock o => some (o.image 0x1e 0x0 1 st)
  | .bindSync o => some (o.image 0x1e 0x0 2 st)
  | .unbind o => some (o.image 0x1e 0x1 st)
  | .fenceAcq o => some (o.image 0x1e 0x2 1 st)
  | .fenceRel o => some (o.image 0x1e 0x2 2 st)
  | .fenceAr o => some (o.image 0x1e 0x2 3 st)
  | .winit o => some (o.image 0x1f 0x0 st)
  | .warr o => some (o.image 0x1f 0x1 0 st)
  | .warrLanes o => some (o.image 0x1f 0x1 1 st)
  | .warrFar o => some (o.image 0x1f 0x2 0 st)
  | .warrFarLanes o => some (o.image 0x1f 0x2 1 st)
  | .wwait o => some (o.image 0x1f 0x3 st)
  | .wqryLo o => some (o.image 0x1f 0x4 0 st)
  | .wqryHi o => some (o.image 0x1f 0x4 1 st)
  | .wqryHandle o => some (o.image 0x1f 0x4 2 st)
  | .waitoc o => some (o.image 0x1f 0x5 st)
  | .flcopy1d o => some (o.image 0x20 0x0 st)
  | .flcopy2d o => some (o.image 0x20 0x1 st)
  | .flcopy3d o => some (o.image 0x20 0x2 st)
  | .flseal => some (Fields.base 0x20 0x3 st).short
  | .flwait o => some (o.image 0x20 0x4 st)
  | .flstage => some (Fields.base 0x20 0x5 st).short
  | .gather o => some (o.image 0x21 0x0 st)
  | .scatter o => some (o.image 0x21 0x1 st)
  | .mxloadb o => some (o.image 0x22 0x0 st)
  | .mxinit o => some (o.image 0x22 0x1 st)
  | .mxmul o => some (o.image 0x22 0x2 st)
  | .mxloop o => some (o.image 0x22 0x3 st)
  | .mxdrain o => some (o.image 0x22 0x4 st)
  | .mxswap o => some (o.image 0x22 0x5 st)
  | .mxzero o => some (o.image 0x22 0x6 st)
  | .mxstat o => some (o.image 0x22 0x7 st)
  | .mcsr o => some (o.image 0x23 0x0 st)
  | .mclr o => some (o.image 0x23 0x1 st)
  | .iold o => some (o.image 0x24 0x0 st)
  | .iost o => some (o.image 0x24 0x1 st)
  | .dbell o => some (o.image 0x24 0x2 st)
  | _ => none

/-- Why a Ferja word is ILLEGAL at order 1 of R216. -/
inductive DecodeError where
  /-- MAJOR 0x3F where an instruction word is expected (R195, R210). -/
  | header
  /-- MAJOR and MINOR, or a code of MOD, not assigned (R200, R211). -/
  | unassigned
  /-- A bit that must be zero is not, or LONG on a form that takes none (R197, R199). -/
  | reserved
  /-- An operand outside its encoding (R197), or a type, rounding or code the form does not admit. -/
  | operand
  deriving DecidableEq, Repr

/-- An instruction word decoded: the instruction, and whether the word is a stop site (R207). -/
structure Decoded where
  i    : Instr
  stop : Bool
  deriving DecidableEq, Repr

/-- The fields that the operands of `i` fix. BKPT's imm8 and its LONG, under which the following word is skipped
unchecked (R217), are read from the word itself when it executes. -/
def Fields.fixedFor (f : Fields) : Instr → Fields
  | .bkpt => { f with c := 0, long := false }
  | _ => f

/-- Decoding of the word `w`, with `x` the word that follows it in its block (R216, order 1). -/
def decode (w x : Word) : Except DecodeError Decoded :=
  let f := Fields.ofWord w
  if f.maj = 0x3F then .error .header
  else match candidate f x with
    | none => .error .unassigned
    | some i =>
      let g := f.fixedFor i
      if i.image f.stop = some { f := g, ext := if g.long then some x else none } then
        if i.wf then .ok { i, stop := f.stop } else .error .operand
      else .error .reserved

/-- The words of a Ferja instruction with the given STOPI, in ascending address order; none for the other rows. -/
def encode (i : Instr) (stop : Bool) : Option (List Word) :=
  (i.image stop).map fun g => g.f.word :: g.ext.toList

/-! Levee instruction words (16 R389, R390). -/

/-- The immediate of LV.ST: [31:25] and [11:7]. -/
def lvStImm (w : BitVec 32) : BitVec 12 := w.extractLsb' 25 7 ++ w.extractLsb' 7 5

/-- A register form of funct3 = 0 with the given funct7. -/
def lvReg (funct7 : BitVec 7) (t s d : BitVec 5) : BitVec 32 := funct7 ++ t ++ s ++ 0#3 ++ d ++ 0x5B#7

/-- The levee instruction of a 32-bit word with opcode 0x5B, before LV.INFO's selector is checked. -/
def lvCandidate (w : BitVec 32) : Option Instr :=
  let d := w.extractLsb' 7 5
  let s := w.extractLsb' 15 5
  let t := w.extractLsb' 20 5
  match (w.extractLsb' 12 3).toNat with
  | 1 => some (.lvLd { d, s, imm := w.extractLsb' 20 12 })
  | 2 => some (.lvSt { s, t, imm := lvStImm w })
  | 0 =>
    match (w.extractLsb' 25 7).toNat with
    | 0x10 => some (.lvMove { d, s, t })
    | 0x11 => some (.lvStep { d, s, t })
    | 0x12 => some (.lvDrop { d, s, t })
    | 0x18 => some (.lvNarrow { d, s, t })
    | 0x19 => some (.lvNarrowx { d, s, t })
    | 0x20 => some (.lvLock { d, s, t })
    | 0x21 => some (.lvOpen { d, s, t })
    | 0x28 => some (.lvInfo { d, s, sel := t })
    | 0x29 => if t = 0 then some (.lvUntag { d, s }) else none
    | 0x2A => some (.lvSame { d, s, t })
    | _ => none
  | _ => none

/-- What a service core's 32-bit word is. -/
inductive LvDecoded where
  /-- A levee instruction. -/
  | ok (i : Instr)
  /-- A word of major opcode 0x5B that R389 or R390 makes an illegal-instruction exception. -/
  | illegal
  /-- A word outside the levee extension: an RV64 base or standard-extension word. -/
  | base
  deriving DecidableEq, Repr

/-- Decoding of a service core's instruction word (R389). -/
def decodeLv (w : BitVec 32) : LvDecoded :=
  if w.extractLsb' 0 7 = 0x5B then
    match lvCandidate w with
    | some i => if i.wf then .ok i else .illegal
    | none => .illegal
  else .base

/-- The word of a levee instruction. -/
def encodeLv : Instr → Option (BitVec 32)
  | .lvLd o => some (o.imm ++ o.s ++ 1#3 ++ o.d ++ 0x5B#7)
  | .lvSt o => some (o.imm.extractLsb' 5 7 ++ o.t ++ o.s ++ 2#3 ++ o.imm.extractLsb' 0 5 ++ 0x5B#7)
  | .lvMove o => some (lvReg 0x10 o.t o.s o.d)
  | .lvStep o => some (lvReg 0x11 o.t o.s o.d)
  | .lvDrop o => some (lvReg 0x12 o.t o.s o.d)
  | .lvNarrow o => some (lvReg 0x18 o.t o.s o.d)
  | .lvNarrowx o => some (lvReg 0x19 o.t o.s o.d)
  | .lvLock o => some (lvReg 0x20 o.t o.s o.d)
  | .lvOpen o => some (lvReg 0x21 o.t o.s o.d)
  | .lvInfo o => some (lvReg 0x28 o.sel o.s o.d)
  | .lvUntag o => some (lvReg 0x29 0 o.s o.d)
  | .lvSame o => some (lvReg 0x2A o.t o.s o.d)
  | _ => none

/-- The instruction the decoder reads from the bits of a table row: 32 bits are a service core's word, 64 or 128
bits a Ferja word with its extension word (the bits above `nbits` are zero). -/
def decodeTableWord (nbits w : Nat) : Option Instr :=
  if nbits ≤ 32 then
    match decodeLv (BitVec.ofNat 32 w) with
    | .ok i => some i
    | _ => none
  else
    match decode (BitVec.ofNat 64 w) (BitVec.ofNat 64 (w >>> 64)) with
    | .ok r => some r.i
    | .error _ => none

/-! The block header (08 R208). -/

/-- The fields of a block header. -/
structure Header where
  len    : Nat
  reconv : BitVec 20
  pref   : BitVec 3
  livev  : BitVec 8
  lives  : BitVec 6
  livem  : BitVec 4
  stop   : Bool
  deriving DecidableEq, Repr

/-- Whether a word has MAJOR 0x3F. -/
def isHeader (w : Word) : Bool := w.extractLsb' 58 6 == 0x3F

/-- The header of a header-formed word; none where it is malformed: reserved bits set, LEN 0 or PREF 5 to 7. -/
def decodeHeader (w : Word) : Option Header :=
  let h : Header :=
    { len := (w.extractLsb' 50 8).toNat, reconv := w.extractLsb' 30 20, pref := w.extractLsb' 27 3
      livev := w.extractLsb' 19 8, lives := w.extractLsb' 13 6, livem := w.extractLsb' 9 4, stop := w.getLsbD 8 }
  if isHeader w && w.extractLsb' 0 8 == 0 && h.len != 0 && decide (h.pref.toNat < 5) then some h else none

/-- The word of a header. -/
def Header.word (h : Header) : Word :=
  0x3F#6 ++ BitVec.ofNat 8 h.len ++ h.reconv ++ h.pref ++ h.livev ++ h.lives ++ h.livem ++ BitVec.ofBool h.stop ++ 0#8

end Sys2Proof
end

