-- ==== Sys2Proof/Machine/Translate.lean ====
section
/-! DEFINITION. Address translation (18): the walk of R417 over the tree in memory, leaf fields, the fault classes of
R421, cached translations and the choice between old and new (R424, R427), first touch (R428), isolation by ranges
and windows (16 R397, 19 R445), and access counting (R432). -/

namespace Sys2Proof.Machine

/-! ## Parts of the state -/

/-- Partition `p` (an unlisted one holds the cold reset values of R395). -/
def State.part (s : State) (p : Nat) : Part :=
  s.parts.getD p (if p = 0 then Part.start true 0xFF 0xFFFF else Part.start false 0 0)
/-- The state with partition `p` replaced. -/
def State.setPart (s : State) (p : Nat) (x : Part) : State := { s with parts := s.parts.put p x }
/-- Window `k`. -/
def State.window (s : State) (k : Nat) : Window := s.windows.getD k Window.start
/-- Die `d`. -/
def State.die (s : State) (d : Nat) : Die := s.dies.getD d Die.start
/-- The state with die `d` replaced. -/
def State.setDie (s : State) (d : Nat) (x : Die) : State := { s with dies := s.dies.put d x }
/-- CLK of the cores of die `d`. -/
def State.clk (s : State) (d : Nat) : Nat := (s.die d).clk
/-- Physical core `p` of die `d`; before the repair map changes it, cores 0 to 23 carry the logical numbers 0 to 23
and cores 24 and 25 are spare (log entry 5). -/
def State.pcore (s : State) (d p : Nat) : Core := s.cores.getD (32 * d + p) (Core.start (decide (p < 24)) (if p < 24 then p else 0))
/-- The state with a physical core replaced. -/
def State.setPcore (s : State) (d p : Nat) (x : Core) : State := { s with cores := s.cores.put (32 * d + p) x }
/-- The physical core that carries logical core `c` of die `d` (16 R398); `c` itself where none does. -/
def State.physOf (s : State) (d c : Nat) : Nat :=
  ((List.range 26).find? fun p => (s.pcore d p).en && decide ((s.pcore d p).logical = c)).getD c
/-- Logical core `c` of die `d`. -/
def State.lcore (s : State) (d c : Nat) : Core := s.pcore d (s.physOf d c)
/-- The state with a logical core replaced. -/
def State.setLcore (s : State) (d c : Nat) (x : Core) : State := s.setPcore d (s.physOf d c) x
/-- The cluster of a logical core (01 R17). -/
def clusOf (core : Nat) : Nat := core / 4

/-! ## Physical writes -/

/-- The levee tags after a write of `n` bytes at `a` (16 R391). -/
def untag (tags : List Nat) (a n : Nat) : List Nat := tags.filter fun g => !(decide (a < 16 * g + 16) && decide (16 * g < a + n))

/-- The reservations after a write of `n` bytes at `a`: those it touches are gone. -/
def unreserve (t : Tbl (Nat × Nat)) (a n : Nat) : Tbl (Nat × Nat) :=
  t.filter fun r => !(decide (a < r.2.1 + r.2.2) && decide (r.2.1 < a + n))

/-- Whether a past write touches `n` bytes at `a`. -/
def Past.meets (r : Past) (a n : Nat) : Bool := decide (a < r.pa + r.old.length) && decide (r.pa < a + n)

/-- Whether a release was made at a location that `n` bytes at `a` touch. -/
def RelObj.meets (o : RelObj) (a n : Nat) : Bool :=
  match o with
  | .loc b m => decide (a < b + m) && decide (b < a + n)
  | _ => false

/-- The releases after a write of `n` bytes at `a`: an acquire that reads it pairs with those at its location only where
the write is a read-modify-write (04 R96). -/
def relsAfter (l : List Rel) (a n : Nat) (rmw : Bool) : List Rel :=
  l.map fun r => if r.obj.meets a n then { r with live := rmw } else r

/-- Bytes written at a physical address; every granule they touch loses its tag, and every reservation ends. -/
def State.put (s : State) (a : Nat) (l : List Byte) : State :=
  { s with mem := s.mem.putBytes a l, tags := untag s.tags a l.length, resvs := unreserve s.resvs a l.length }

/-- A write that every agent sees at once: one of the device itself. What stood in its bytes can be read no more. -/
def State.poke (s : State) (a : Nat) (l : List Byte) : State :=
  { s.put a l with
    past := s.past.filter fun r => !r.meets a l.length
    rels := relsAfter s.rels a l.length false }

/-- A merge of the device into the bytes at an address: a read-modify-write that every agent sees at once (04 R96, R106). -/
def State.merged (s : State) (a : Nat) (l : List Byte) : State :=
  { s.put a l with
    past := s.past.filter fun r => !r.meets a l.length
    rels := relsAfter s.rels a l.length true }

/-! ## Canonical addresses and page-table entries -/

/-- Bits [63:53] all equal to bit [52] (04 R81). -/
def canonical (va : Word) : Bool :=
  let top := va.extractLsb' 52 12
  top == 0 || top == 0xFFF

/-- A bit of an entry. -/
def ebit (e : Word) (i : Nat) : Bool := e.getLsbD i
/-- CPOL of a leaf (R419). -/
def leafCpol (e : Word) : Nat := (e.extractLsb' 62 2).toNat
/-- Physical address of an entry's PPN. -/
def leafPpn (e : Word) : Nat := (e.extractLsb' 13 39).toNat * 8192
/-- GRAIN of a leaf in bytes (R419). -/
def leafGrain (e : Word) : Nat :=
  match (e.extractLsb' 5 2).toNat with
  | 0 => 32
  | 1 => 128
  | _ => 512
/-- Owner: die and logical core (R419). -/
def leafOwner (e : Word) : Nat × Nat := ((e.extractLsb' 57 3).toNat, (e.extractLsb' 52 5).toNat)

/-- Index of `va` at level `n` (R417). -/
def vaIndex (va : Word) (n : Nat) : Nat := va.toNat / 2 ^ (43 - 10 * n) % 1024

/-- A malformed entry at level `n` with index `i` (R417, R419, R420). -/
def malformed (e : Word) (n i : Nat) : Bool :=
  if ebit e 1 then
    decide (n = 0)
      || decide (leafCpol e = 3) || decide ((e.extractLsb' 5 2).toNat = 3)
      || (ebit e 3 && !ebit e 2)
      || (decide (leafCpol e = 2) && (ebit e 4 || ebit e 8 || ebit e 9 || ebit e 10 || ebit e 12))
      || (decide (n = 2) && decide (leafPpn e / 8192 % 1024 ≠ 0))
      || (decide (n = 1) && decide (leafPpn e / 8192 % 2 ^ 20 ≠ 0))
      || (ebit e 61 && (decide (n ≠ 3) || decide (leafPpn e / 8192 % 32 ≠ i % 32)))
  else
    decide (e &&& (BitVec.ofNat 64 (0x7FFFFFFFFF * 8192 + 3)) ≠ e)

/-- A leaf that a walk reached: the entry, where it stands, and the page size as a power of two. -/
structure Leaf where
  e    : Word
  addr : Nat
  bits : Nat
  deriving DecidableEq, Repr

/-- The walk of R417 from table `t` at level `n`. -/
def walkFrom (m : Mem) (va : Word) (t n : Nat) : Nat → Option Leaf
  | 0 => none
  | k + 1 =>
    let a := t + 8 * vaIndex va n
    let e : Word := BitVec.ofNat 64 (m.read a 8)
    if !ebit e 0 || malformed e n (vaIndex va n) then none
    else if ebit e 1 then some { e, addr := a, bits := 43 - 10 * n }
    else walkFrom m va (leafPpn e) (n + 1) k

/-- The walk of a partition's tree. -/
def State.walk (s : State) (p : Nat) (va : Word) : Option Leaf :=
  let x := (s.part p).xroot
  if !canonical va || !ebit x 63 then none else walkFrom s.mem va (leafPpn x) 0 4

/-- The level-3 table of an address, where the walk reaches it. -/
def tableFrom (m : Mem) (va : Word) (t n : Nat) : Nat → Option Nat
  | 0 => some t
  | k + 1 =>
    let e : Word := BitVec.ofNat 64 (m.read (t + 8 * vaIndex va n) 8)
    if !ebit e 0 || malformed e n (vaIndex va n) || ebit e 1 then none else tableFrom m va (leafPpn e) (n + 1) k

/-- The entries of the CONTIG members of the group at `first`, each as it translates page `i` of the group (R420). -/
def State.contigMembers (s : State) (first i : Nat) : List Word :=
  (List.range 32).filterMap fun j =>
    let e : Word := BitVec.ofNat 64 (s.mem.read (first + 8 * j) 8)
    if ebit e 0 && ebit e 1 && ebit e 61 && !malformed e 3 j then some (e - BitVec.ofNat 64 (8192 * j) + BitVec.ofNat 64 (8192 * i))
    else none

/-- The translation of an address by its own entry `own`, or in a CONTIG group whose entries are not identical apart
from consecutive PPN by the entry of any other CONTIG member, extended by the offset: a free choice (R420). -/
def State.contig (s : State) (p : Nat) (va : Word) (n : Nat) (own : Option Leaf) : Option Leaf :=
  let x := (s.part p).xroot
  if !canonical va || !ebit x 63 then own
  else match tableFrom s.mem va (leafPpn x) 0 3 with
    | none => own
    | some t =>
      let first := t + 256 * (vaIndex va 3 / 32)
      let i := vaIndex va 3 % 32
      let l := s.contigMembers first i
      if l.length = 32 ∧ l.all (fun e => some e == own.map Leaf.e) then own
      else (own :: l.map fun e => some { e, addr := first + 8 * i, bits := 13 }).getD (Config.contigPick n % (l.length + 1)) own

/-- The cached translation of a page, if one is held (R424). -/
def State.cached (s : State) (p : Nat) (va : Word) : Option Leaf :=
  (s.tlb.find? fun t => decide (t.part = p) && decide (va.toNat / 2 ^ t.bits = t.va / 2 ^ t.bits)).map
    fun t => { e := t.leaf, addr := 0, bits := t.bits }

/-- The fields of a leaf that the home also writes, masked off where cached and walked leaves are compared (R425). -/
def homeMask (e : Word) : Word := e &&& ~~~(BitVec.ofNat 64 (0x1FF * 2 ^ 52 + 128))

/-- The translation an access uses: the walk, or while a cached translation differs from it, either (R427); `n` is the
argument of the free choice. -/
def State.leafOf (s : State) (p : Nat) (va : Word) (n : Nat) : Option Leaf :=
  let w := s.contig p va n (s.walk p va)
  match s.cached p va with
  | none => w
  | some c =>
    match w with
    | some l => if homeMask l.e = homeMask c.e then some l else if Config.tlbOld n then some { c with addr := l.addr } else some l
    | none => if Config.tlbOld n && canonical va then some c else none

/-- The physical address of `va` under a leaf. -/
def Leaf.pa (l : Leaf) (va : Word) : Nat := alignDown (leafPpn l.e) (2 ^ l.bits) + va.toNat % 2 ^ l.bits

/-! ## Isolation -/

/-- What lies at a physical address for partition `p`. -/
inductive Place where
  /-- Memory homed on this package. -/
  | home
  /-- Memory of a peer, through window `k` of KIND 0 or 2. -/
  | peer (k : Nat)
  /-- A multicast-reduce window. -/
  | reduce (k : Nat)
  /-- A switch configuration window. -/
  | switch (k : Nat)
  /-- A severed window. -/
  | severed (k : Nat)
  /-- Outside the partition's ranges, or another partition's window. -/
  | refused
  deriving DecidableEq, Repr

/-- The first address of the control registers, which no Ferja agent and no endpoint reaches (16 R393). -/
def ctlSpace : Nat := 0x000F000000000000

/-- Whether physical address `a` lies in an EN range of partition `p`, whose entry is in force (16 R395, R397). -/
def State.inRange (s : State) (p a : Nat) : Bool :=
  (s.part p).valid && (List.range 4).any fun i =>
    let r := (s.part p).ranges.getD i 0
    ebit r 63 && decide ((r.extractLsb' 0 22).toNat ≤ a / 2 ^ 30) && decide (a / 2 ^ 30 ≤ (r.extractLsb' 32 22).toNat)

/-- Whether physical address `a` lies in a partition's tag table, which only the tag logic of the homes reaches (16 R392). -/
def State.inTagTable (s : State) (a : Nat) : Bool :=
  (List.range 8).any fun p =>
    let x := s.part p
    x.valid && decide (x.ttbase.toNat ≤ a) && decide (a < x.ttbase.toNat + x.tagsize * 2 ^ 23)

/-- The enabled window that holds physical address `a` (19 R445). -/
def State.windowAt (s : State) (a : Nat) : Option Nat :=
  s.windows.keys.find? fun k =>
    let w := s.window k
    w.en && decide (w.base ≤ a / 2 ^ 30) && decide (a / 2 ^ 30 < w.base + w.size)

/-- A COHLOST outcome counted (19 R452) in its window. -/
def State.countLost (s : State) (k : Nat) : State :=
  let w := s.window k
  { s with windows := s.windows.put k { w with lost := (w.lost + 1) % 2 ^ 32 } }

/-- The BAR aperture of root port 0 (20 R457). -/
def barBase : Nat := 0x0007000000000000

/-- Whether an address lies in a BAR aperture, which only leaves with CPOL 2 reach (20 R457). -/
def inBar (a : Nat) : Bool := decide (barBase ≤ a) && decide (a < barBase + 32 * 2 ^ 40)

/-- What an access of partition `p` finds at physical address `a`. -/
def State.place (s : State) (p a : Nat) : Place :=
  if 0x0008000000000000 ≤ a ∧ a ≤ 0x000EFFFFFFFFFFFF then
    match s.windowAt a with
    | none => .refused
    | some k =>
      let w := s.window k
      if w.part ≠ p then .refused
      else if w.severed && decide (w.kind ≠ 3) then .severed k
      else match w.kind with
        | 1 => .reduce k
        | 3 => .switch k
        | _ => .peer k
  else if a < ctlSpace ∧ !inBar a ∧ s.inRange p a ∧ !s.inTagTable a then .home else .refused

/-! ## Fault classes (R421) -/

/-- Kinds of access by their attribute rules. -/
inductive AccKind where
  | load | fetch
  | store (size : Nat)
  | atomic | accrue | lock | io
  /-- ULK and LCKCAN, which write nothing. -/
  | unlock
  deriving DecidableEq, Repr

/-- Whether a kind writes. -/
def AccKind.writes : AccKind → Bool
  | .store _ | .atomic | .accrue | .lock => true
  | _ => false

/-- A translated access. -/
structure Xl where
  va   : Word
  pa   : Nat
  leaf : Leaf
  away : Bool
  deriving DecidableEq, Repr

/-- The grain, and the line's first address. -/
def Xl.grain (x : Xl) : Nat := leafGrain x.leaf.e
/-- The first physical address of the line (04 R85). -/
def Xl.line (x : Xl) : Nat := alignDown x.pa x.grain

/-- Whether RD, WR or EX is missing. -/
def permMissing (k : AccKind) (e : Word) : Bool :=
  match k with
  | .fetch => !ebit e 4
  | .load => !ebit e 2
  | .io => !ebit e 2
  | .lock | .unlock => false
  | _ => !ebit e 3

/-- Whether an attribute of the page refuses the access (R78, R81, R174, R182, R299, R306). -/
def attrRefuses (k : AccKind) (va : Word) (e : Word) : Bool :=
  let io := decide (leafCpol e = 2)
  match k with
  | .io => !io
  | .load | .fetch => io
  | .store n => io || (ebit e 10 && (decide (n < 4) || decide (va.toNat % 4 ≠ 0)))
  | .atomic => io || ebit e 10
  | .accrue => io || ebit e 10 || !ebit e 8
  | .lock | .unlock => io || ebit e 10 || !ebit e 9

/-- Translation of one access with the checks of R421 up to write-block; the error is the cause. -/
def State.xlate (s : State) (p : Nat) (k : AccKind) (va : Word) (n : Nat) : Except Cause Xl :=
  if !canonical va then .error .xlate
  else match s.leafOf p va n with
    | none => .error .xlate
    | some l =>
      let a := l.pa va
      if permMissing k l.e then .error .perm
      else match (if k = .io then Place.home else s.place p a) with
        | .refused => .error .perm
        | .severed _ => .error .cohlost
        | .reduce _ => .error .perm
        | .switch _ => .error .perm
        | .home => if attrRefuses k va l.e then .error .perm else .ok { va, pa := a, leaf := l, away := false }
        | .peer _ => if attrRefuses k va l.e then .error .perm else .ok { va, pa := a, leaf := l, away := true }

/-! ## Effects of a translated access -/

/-- The cached translations after an access (R424). -/
def State.cacheLeaf (s : State) (p : Nat) (x : Xl) : State :=
  if s.tlb.any fun t => decide (t.part = p) && decide (x.va.toNat / 2 ^ t.bits = t.va / 2 ^ t.bits) then s
  else { s with tlb := { part := p, va := x.va.toNat, bits := x.leaf.bits, leaf := x.leaf.e } :: s.tlb }

/-- The leaf word that a touch by an agent leaves, if it changes it (R428): a first touch by a compute core takes the
page, another agent's request makes it shared. `who` is the die and logical core, none for other agents. -/
def touched (priven : Bool) (who : Option (Nat × Nat)) (e : Word) : Option Word :=
  if ebit e 7 then none
  else if ebit e 60 then
    if who = some (leafOwner e) then none else some (e ||| 0x80)
  else match who with
    | some (d, c) =>
      if priven then
        some ((e &&& ~~~(BitVec.ofNat 64 (0xFF * 2 ^ 52))) ||| BitVec.ofNat 64 (2 ^ 60 + d * 2 ^ 57 + c * 2 ^ 52))
      else none
    | none => some (e ||| 0x80)

/-- The lines of a page that is reclassified: its owner writes back and invalidates them (R428). -/
def pageRecalled (lines : Tbl Line) (first size : Nat) : Tbl Line :=
  lines.mapVal fun a l => if first ≤ a ∧ a < first + size ∧ l.holder.isNone then { l with dir := .i, sharers := 0 } else l

/-- The home's update of a private leaf of a page homed here (R425, R428): a first touch, or the reclassification by
another agent's request, which the core `by'` is counted to have caused. -/
def State.touchBy (s : State) (p : Nat) (who by' : Option (Nat × Nat)) (x : Xl) : State :=
  if x.leaf.addr = 0 || x.away then s
  else
    let e : Word := BitVec.ofNat 64 (s.mem.read x.leaf.addr 8)
    match touched (s.part p).priven who e with
    | none => s
    | some e' =>
      let s := s.poke x.leaf.addr (toLe e'.toNat 8)
      if ebit e' 7 then
        let s := { s with
          lines := pageRecalled s.lines (alignDown (leafPpn x.leaf.e) (2 ^ x.leaf.bits)) (2 ^ x.leaf.bits)
          tlb := s.tlb.filter fun t => !(ebit e 60 && decide (t.part = p) && decide (x.va.toNat / 2 ^ t.bits = t.va / 2 ^ t.bits)) }
        match by' with
        | some (d, c) =>
          let k := s.lcore d c
          s.setLcore d c { k with xrecl := (k.xrecl + 1) % 2 ^ 32 }
        | none => s
      else s

/-- The touch of a page by an agent itself. -/
def State.touch (s : State) (p : Nat) (who : Option (Nat × Nat)) (x : Xl) : State := s.touchBy p who who x

/-- The address of the counter of a physical address in the counted window (R432). -/
def State.counterOf (s : State) (p a : Nat) : Option Nat :=
  let q := s.part p
  let lo := (q.cntwin.extractLsb' 0 22).toNat
  let span := (q.cntwin.extractLsb' 32 12).toNat
  if lo * 2 ^ 30 ≤ a ∧ a < (lo + span) * 2 ^ 30 then
    some ((q.cntbase.extractLsb' 12 40).toNat * 4096 + 2 * ((a - lo * 2 ^ 30) / 65536))
  else none

end Sys2Proof.Machine
end

