-- ==== Sys2Proof/Machine/Order.lean ====
section
/-! DEFINITION. The order of memory (04 R86 to R100, R105, R109 to R111; log entry 7): memory holds the newest write of
each byte; a plain read returns it, or what a newer write not yet visible to the reader wrote over; releases name the
writes they cover, and acquires make them visible. -/

namespace Sys2Proof.Machine

/-! ## Where agents stand (01 R24, 04 R90) -/

/-- The partition that owns a service core (16 R395). -/
def State.scPart (s : State) (n : Nat) : Option Nat :=
  (List.range 8).find? fun p => (s.part p).valid && (s.part p).scs.testBit n

/-- Where a workgroup stands. -/
def State.spotOfWg (s : State) (w : Nat) : Spot :=
  match s.wgs.find? w with
  | some g => { chip := s.chip, part := some g.part, die := some g.die, clus := some (clusOf g.core), wg := some w }
  | none => { chip := s.chip, part := none, die := none, clus := none, wg := some w }

/-- Where an agent stands. -/
def State.spotOf (s : State) (v : Viewer) : Spot :=
  let outer (c : Nat) (p : Option Nat) : Spot := { chip := c, part := p, die := none, clus := none, wg := none }
  match v with
  | .fibre f => match s.fibres.find? f with
    | some fb => s.spotOfWg fb.wg
    | none => outer s.chip none
  | .engine c => match s.cmds.find? c with
    | some x => s.spotOfWg x.wg
    | none => outer s.chip none
  | .start w => s.spotOfWg w
  | .service n => outer s.chip (s.scPart n)
  | .endpoint _ => outer s.chip none
  | .chip c => outer c none

/-- Switch hops of a scope beyond the package. -/
def Scope.hops : Scope → Option Nat
  | .h1 => some 1 | .h2 => some 2 | .h3 => some 3 | .h4 => some 4 | .h5 => some 5 | .h6 => some 6 | .h7 => some 7
  | .h8 => some 8 | .h9 => some 9 | .h10 => some 10 | .h11 => some 11
  | _ => none

/-- Hops from this chip to chip `d` in the scope table (19 R447): nibbles 12 to 14 read as 15. -/
def State.hopsTo (s : State) (d : Nat) : Nat :=
  let n := (s.sct.getD (d / 16) (BitVec.allOnes 64)).toNat / 16 ^ (d % 16) % 16
  if 12 ≤ n then 15 else n

/-- Whether the agent at `b` is within scope `sc` of the agent at `a`. Each scope covers the agents of the scopes above
it, and an agent of another partition is within .sys only. A chip other than this one keeps its partitions to itself,
so hops alone decide for it. -/
def State.within (s : State) (sc : Scope) (a b : Spot) : Bool :=
  let wg := a.wg.isSome && decide (a.wg = b.wg)
  let near := decide (a.chip = b.chip) && a.part.isSome && decide (a.part = b.part)
  let die := near && a.die.isSome && decide (a.die = b.die)
  match sc with
  | .wg => wg
  | .cl => wg || (die && decide (a.clus = b.clus))
  | .di => wg || die
  | .pk => wg || near
  | .sys => true
  | h => wg || near || (decide (a.chip ≠ b.chip) && match Scope.hops h with
    | some n => decide (s.hopsTo (if a.chip = s.chip then b.chip else a.chip) ≤ n)
    | none => false)

/-! ## Reading (R87, R88, R97) -/

/-- Whether a viewer cannot read past a write: it is visible to it, or the viewer has read it. -/
def Past.known (r : Past) (v : Viewer) : Bool := r.vis.contains v || r.read.contains v

/-- The newest writes to `n` bytes at `a` that viewer `v` need not see yet, newest first. -/
def State.unseen (s : State) (v : Viewer) (a n : Nat) : List Past :=
  (s.past.filter fun r => r.meets a n).takeWhile fun r => !r.known v

/-- The bytes of `l` at `a` before a write. -/
def Past.undo (r : Past) (a : Nat) (l : List Byte) : List Byte :=
  l.mapIdx fun i b => if r.pa ≤ a + i then r.old.getD (a + i - r.pa) b else b

/-- The past after viewer `v` has read `n` bytes at `a` with the writes `skip` undone. -/
def readMarks (past : List Past) (v : Viewer) (a n : Nat) (skip : List Nat) : List Past :=
  past.map fun r => if r.meets a n && !skip.contains r.id && !r.known v then { r with read := v :: r.read } else r

/-- A plain read of `n` bytes at `a`: the newest bytes, or those before some of the newest writes that the viewer need
not see, by a free choice (ReadValue of R97). -/
def State.look (s : State) (v : Viewer) (a n : Nat) : List Byte × State :=
  match s.unseen v a n with
  | [] => (s.mem.bytes a n, s)
  | l =>
    let u := l.take (Config.staleBy s.free % (l.length + 1))
    (u.foldl (fun b r => r.undo a b) (s.mem.bytes a n),
      { s with past := readMarks s.past v a n (u.map Past.id), free := s.free + 1 })

/-- An atomic read of `n` bytes at `a`: the newest bytes (R93), which the viewer then cannot read past. -/
def State.sawNewest (s : State) (v : Viewer) (a n : Nat) : State := { s with past := readMarks s.past v a n [] }

/-! ## Writing -/

/-- A write performed for viewer `v`: it is kept with the bytes it wrote over, and visible to its writer. -/
def State.storeBy (s : State) (v : Viewer) (va : Word) (i : Issue) (a : Nat) (l : List Byte) (rmw : Bool) : State :=
  { s.put a l with
    past := { id := s.pastN, writer := v, wg := i.wg, va, pa := a, old := s.mem.bytes a l.length, binds := i.binds, pub := i.pub
              vis := [v], read := [] } :: s.past
    pastN := s.pastN + 1
    rels := (match i.rel with
      | some r => [r]
      | none => []) ++ relsAfter s.rels a l.length rmw }

/-! ## Releases and acquires (R94 to R98) -/

/-- Whether a binding of workgroup `w`, of partition `p`, is to the object of a release (12 R314): the lock's address is
translated now. -/
def State.boundTo (s : State) (w : Option Nat) (p : Nat) (b : Binding) (o : RelObj) : Bool :=
  let at' (a : Word) : Option (Nat × Nat) := (s.walk p a).map fun l => (l.pa a, leafGrain l.e)
  match b.obj, o with
  | .weir i, .weir v j => decide (w = some v) && decide (i = j)
  | .lock a, .lock line => (at' a).any fun x => decide (alignDown x.1 x.2 = line)
  | .sync a, .loc pa _ => (at' a).any fun x => decide (x.1 = pa)
  | _, .fence => true
  | _, .finish _ => true
  | _, _ => false

/-- The writes that a release of the viewers `v` on object `o` covers (R97, R98). -/
def State.covered (s : State) (v : List Viewer) (p : Nat) (o : RelObj) : List Nat :=
  (s.past.filter fun r => v.any (fun x => r.vis.contains x) && (r.binds.isEmpty || r.binds.any fun b => s.boundTo r.wg p b o)).map Past.id

/-- A release by viewer `v` on an object. -/
def State.relOf (s : State) (v : Viewer) (sc : Scope) (o : RelObj) (live : Bool) : Rel :=
  { obj := o, live, scope := sc, spot := s.spotOf v, ids := s.covered [v] ((s.spotOf v).part.getD 0) o }

/-- A release recorded, where it covers a write. -/
def State.released (s : State) (r : Rel) : State := if r.ids.isEmpty then s else { s with rels := r :: s.rels }

/-- The writes that an acquire by viewer `v` at a scope takes from the releases on the objects that `sel` selects
(R96). -/
def State.idsFrom (s : State) (v : Viewer) (sc : Scope) (sel : RelObj → Bool) : List Nat :=
  let b := s.spotOf v
  (s.rels.filter fun r => r.live && sel r.obj && s.within r.scope r.spot b && s.within sc b r.spot).flatMap Rel.ids

/-- The past after the writes `ids`, and those that an UNBIND released (R100), are visible to `v`. -/
def shown (past : List Past) (v : Viewer) (ids : List Nat) : List Past :=
  past.map fun r => if (r.pub || ids.contains r.id) && !r.vis.contains v then { r with vis := v :: r.vis } else r

/-- The writes that viewer `v` has made. -/
def State.writesOf (s : State) (v : Viewer) : List Nat := (s.past.filter fun r => decide (r.writer = v)).map Past.id

/-- An acquire of the writes `ids` by viewer `v`. -/
def State.learn (s : State) (v : Viewer) (ids : List Nat) : State := { s with past := shown s.past v ids }

/-- An acquire by viewer `v` at a scope. -/
def State.acquire (s : State) (v : Viewer) (sc : Scope) (sel : RelObj → Bool) : State := s.learn v (s.idsFrom v sc sel)

/-- Viewer `u` sees all that `v` sees (02 R35, R39, 04 R87). -/
def State.inherit (s : State) (u v : Viewer) : State :=
  { s with past := s.past.map fun r =>
      { r with vis := if r.vis.contains v && !r.vis.contains u then u :: r.vis else r.vis
               read := if r.read.contains v && !r.read.contains u then u :: r.read else r.read } }

/-- The writes of engine commands of a fibre that a WAITOC covers become its own (R101). -/
def State.adopt (s : State) (f : Nat) (cmds : List Nat) : State :=
  { s with past := s.past.map fun r => match r.writer with
      | .engine c => if cmds.contains c && !r.vis.contains (.fibre f) then { r with vis := .fibre f :: r.vis } else r
      | _ => r }

/-- Whether a write of `n` bytes at `va` meets the region of a binding. -/
def Binding.meets (b : Binding) (va n : Nat) : Bool := decide (va < b.base.toNat + b.len) && decide (b.base.toNat < va + n)

/-- The past after a binding of workgroup `w` is removed: its writes to the region are unbound, and those of its fibres
are released at .sys (R100). -/
def unbound (past : List Past) (w : Nat) (b : Binding) : List Past :=
  past.map fun r =>
    if r.wg = some w && b.meets r.va.toNat r.old.length then
      { r with binds := r.binds.filter fun x => x.base != b.base
               pub := r.pub || match r.writer with
                 | .engine c => r.vis != [.engine c]
                 | _ => true }
    else r

/-- A held or far write of workgroup `w` after a binding of it is removed; `own` for a fibre's write. -/
def Issue.unbound (i : Issue) (w : Nat) (va n : Nat) (b : Binding) (own : Bool) : Issue :=
  if i.wg = some w ∧ b.meets va n then
    { i with binds := i.binds.filter (fun x => x.base != b.base), pub := i.pub || own }
  else i

/-- The bindings of a workgroup that hold a write of `n` bytes at `va`. -/
def Wg.bindsAt (w : Wg) (va n : Nat) : List Binding :=
  w.binds.filter fun b => b.meets va n

end Sys2Proof.Machine
end

