-- ==== Sys2Proof/Machine/Ops.lean ====
section
/-! DEFINITION. The named operations that the meanings share: objects of the state by name, physical writes, event
counters, record rings, weir counts, taking a trap (02 R48) and resuming, the block structure of 08 R207 to R210 with
holds and joins (02 R38, R39), loops (R40, R41), upcalls (R50, R51), and the issue of one Ferja instruction. -/

namespace Sys2Proof.Machine

/-- The outcome of a step. -/
abbrev Out := Host.Outcome State Fault Refusal

/-! ## Objects by name -/

/-- The state with fibre `f` replaced. -/
def State.setFib (s : State) (f : Nat) (x : Fibre) : State := { s with fibres := s.fibres.put f x }
/-- The state with fibre `f` changed by `g`. -/
def State.modFib (s : State) (f : Nat) (g : Fibre → Fibre) : State :=
  match s.fibres.find? f with
  | some x => s.setFib f (g x)
  | none => s
/-- The state with workgroup `w` replaced. -/
def State.setWg (s : State) (w : Nat) (x : Wg) : State := { s with wgs := s.wgs.put w x }
/-- The state with workgroup `w` changed by `g`. -/
def State.modWg (s : State) (w : Nat) (g : Wg → Wg) : State :=
  match s.wgs.find? w with
  | some x => s.setWg w (g x)
  | none => s
/-- The state with command `c` replaced. -/
def State.setCmd (s : State) (c : Nat) (x : Cmd) : State := { s with cmds := s.cmds.put c x }
/-- The state with command `c` changed by `g`. -/
def State.modCmd (s : State) (c : Nat) (g : Cmd → Cmd) : State :=
  match s.cmds.find? c with
  | some x => s.setCmd c (g x)
  | none => s
/-- The state with launch `l` changed by `g`. -/
def State.modLaunch (s : State) (l : Nat) (g : Launch → Launch) : State :=
  match s.launches.find? l with
  | some x => { s with launches := s.launches.put l (g x) }
  | none => s
/-- The home line at `a`. -/
def State.line (s : State) (a grain : Nat) : Line := s.lines.getD a (Line.idle grain)
/-- The state with the home line at `a` replaced. -/
def State.setLine (s : State) (a : Nat) (x : Line) : State := { s with lines := s.lines.put a x }
/-- The state with partition `p` changed by `g`. -/
def State.modPart (s : State) (p : Nat) (g : Part → Part) : State := s.setPart p (g (s.part p))
/-- The state after a fresh name is taken; the name is `s.nextId`. -/
def State.named (s : State) : State := { s with nextId := s.nextId + 1 }
/-- The state after a free value is taken; its argument is `s.free`. -/
def State.drawn (s : State) : State := { s with free := s.free + 1 }
/-- A message to the outside. -/
def State.send (s : State) (m : Msg) : State := { s with out := s.out ++ [m] }

/-! ## Launch records (02 R31) -/

/-- A field of a launch record. -/
def Launch.field (l : Launch) (o n : Nat) : Nat := fieldLe l.record o n
/-- A bit of LFLAGS. -/
def Launch.flag (l : Launch) (i : Nat) : Bool := (l.field 8 8).testBit i
/-- LFLAGS.PREEMPT. -/
def Launch.preempt (l : Launch) : Nat := l.field 8 8 / 16 % 4
/-- WIDTHi. -/
def Launch.width (l : Launch) (i : Nat) : Nat := l.field (0x14 + i) 1
/-- COUNTi for i from 1 to 5. -/
def Launch.count (l : Launch) (i : Nat) : Nat := l.field (0x18 + 8 * i) 8
/-- The position of field Fi in a WID (R28). -/
def Launch.shift (l : Launch) (i : Nat) : Nat := ((List.range i).map l.width).foldl (· + ·) 0
/-- Field Fi of a workgroup index, for i from 2 to 5. -/
def Launch.fieldOf (l : Launch) (index i : Nat) : Nat := index / 2 ^ (l.shift i - l.shift 2) % 2 ^ l.width i
/-- The number of workgroups of a launch on this chip, which takes one value of F5 (17 R401). -/
def Launch.total (l : Launch) : Nat := l.count 2 * l.count 3 * l.count 4

/-- The launch of a workgroup. -/
def State.launchOf (s : State) (w : Wg) : Option Launch := s.launches.find? w.launch

/-- WID of fibre number `num` of a workgroup, F0 zero (R28, R29). -/
def widOf (l : Launch) (w : Wg) (num : Nat) : Word := BitVec.ofNat 64 (w.index * 2 ^ l.shift 2 + num * 2 ^ l.width 0)

/-- The gang of the workgroup that holds a fibre number (R27). -/
def Wg.gangIx (w : Wg) (num : Nat) : Nat := num * w.width / 128
/-- LANE of a fibre number. -/
def Wg.slot (w : Wg) (num : Nat) : Nat := num * w.width % 128
/-- The core's gang number of a fibre number; none while the gang is saved. -/
def Wg.gangOf (w : Wg) (num : Nat) : Option Nat := (w.gangs.getD (w.gangIx num) none)
/-- Whether any gang is resident. -/
def Wg.resident (w : Wg) : Bool := w.gangs.any Option.isSome
/-- Whether a fibre's gang is resident. -/
def State.present (s : State) (f : Nat) : Bool :=
  match s.fibres.find? f with
  | none => false
  | some fb => match s.wgs.find? fb.wg with
    | none => false
    | some w => (w.gangOf fb.num).isSome
/-- CLK of the core of a workgroup. -/
def State.clkOf (s : State) (w : Wg) : Nat := s.clk w.die
/-- Whether two fibres lie in one gang. -/
def sameGang (w : Wg) (a b : Fibre) : Bool := decide (a.wg = b.wg) && decide (w.gangIx a.num = w.gangIx b.num)
/-- The live fibres of a workgroup, by name. -/
def State.fibresOf (s : State) (w : Nat) : List (Nat × Fibre) :=
  s.fibres.filter fun p => decide (p.2.wg = w) && p.2.st != .ended

/-! ## Uncorrectable data -/

/-- Whether any of `n` bytes at `a` lies in uncorrectable or lost data (21 R478). -/
def State.dead (s : State) (a n : Nat) : Bool :=
  (List.range (ceilDiv (a % 32 + n) 32)).any fun i => s.bad.contains (a / 32 + i) || s.lost.contains (a / 32 + i)

/-! ## Event counters (22 R488, R489) -/

/-- A counter after `n` events. -/
def EvCtr.add (c : EvCtr) (n : Nat) : EvCtr :=
  let frozen := c.sel.getLsbD 9
  if c.cnt + n < 2 ^ 48 then { c with cnt := c.cnt + n }
  else { sel := c.sel ||| 0x8000, cnt := if frozen then 2 ^ 48 - 1 else (c.cnt + n) % 2 ^ 48 }

/-- The counters of a table that count source `src`, after `n` events. -/
def bumpTbl (t : Tbl EvCtr) (src n : Nat) : Tbl EvCtr :=
  t.mapVal fun _ c =>
    if c.sel.getLsbD 8 && decide ((c.sel.extractLsb' 0 8).toNat = src)
        && !(c.sel.getLsbD 9 && c.sel.getLsbD 15 && decide (c.cnt = 2 ^ 48 - 1)) then c.add n else c

/-- `n` events of a core source on logical core `core` of die `d`, counted there and in the die's sum. -/
def State.bump (s : State) (d core src n : Nat) : State :=
  let p := s.physOf d core
  { s with
    cores := s.cores.mapVal fun k c => if k = 32 * d + p then { c with ev := bumpTbl c.ev src n } else c
    dies := s.dies.mapVal fun k x => if k = d then { x with ev := bumpTbl x.ev src n } else x }

/-- Events of a workgroup's core. -/
def State.bumpWg (s : State) (w : Wg) (src n : Nat) : State := s.bump w.die w.core src n

/-- `n` events of a die source on die `d`. -/
def State.bumpDie (s : State) (d src n : Nat) : State :=
  { s with dies := s.dies.mapVal fun k x => if k = d then { x with ev := bumpTbl x.ev src n } else x }

/-! ## Record rings (17 R414 to R416) -/

/-- Whether a ring of 2^n records accepts one (R414): a ring that is off is full. -/
def ringRoom (n head tail : Nat) : Bool :=
  decide (4 ≤ n) && decide (n ≤ 20) && decide ((tail + 2 ^ 32 - head % 2 ^ 32) % 2 ^ 32 < 2 ^ n)

/-- A notification record (R416). -/
def notification (ty : Nat) (a b : Word) (gtime : Nat) : List Byte :=
  toLe ty 2 ++ toLe 0 6 ++ toLe a.toNat 8 ++ toLe b.toNat 8 ++ toLe gtime 8

/-- A notification to partition `p`; one that finds the ring full or off is dropped and counted. -/
def State.notify (s : State) (p ty : Nat) (a b : Word) : State :=
  let x := s.part p
  if ringRoom x.nqsize.toNat x.nqhead x.nqtail then
    (s.poke (x.nqbase.toNat + 32 * (x.nqtail % 2 ^ x.nqsize.toNat)) (notification ty a b s.gtime)).setPart p
      { x with nqtail := (x.nqtail + 1) % 2 ^ 32 }
  else s.setPart p { x with nqovf := x.nqovf + 1 }

/-- A record placed in the fault ring, which has room: CLK is that of its die now (R415). -/
def State.pushFault (s : State) (p : Nat) (r : Nat × List Byte) : State :=
  let x := s.part p
  (s.poke (x.fqbase.toNat + 64 * (x.fqtail % 2 ^ x.fqsize.toNat)) (r.2 ++ toLe (s.clk r.1) 8)).setPart p { x with fqtail := (x.fqtail + 1) % 2 ^ 32 }

/-- Whether the fault ring of a partition has room. -/
def State.faultRoom (s : State) (p : Nat) : Bool :=
  let x := s.part p
  ringRoom x.fqsize.toNat x.fqhead x.fqtail

/-! ## Access counting (18 R432) -/

/-- One increment of the counter at address `c` for the region of physical address `a`. -/
def State.countUp (s : State) (p c a : Nat) : State :=
  let v := s.mem.read c 2
  if v = 0xFFFF then s
  else
    let s := s.poke c (toLe (v + 1) 2)
    let th := (s.part p).cntcfg.toNat % 65536
    if th = v + 1 then s.notify p 0x10 (BitVec.ofNat 64 (alignDown a 65536)) (BitVec.ofNat 64 (v + 1)) else s

/-- A lane's access counted where the page is counted and the access reaches the home: always on a CPOL 1 page or for
an operation executed at the home, else 0 or 1 by a free choice. -/
def State.countAccess (s : State) (p : Nat) (x : Xl) (always : Bool) : State :=
  if ebit x.leaf.e 12 then
    match s.counterOf p x.pa with
    | none => s
    | some c => if always || decide (leafCpol x.leaf.e = 1) || Config.fills s.free then s.countUp p c x.pa else s
  else s

/-! ## Safe-point ordinals (08 R207) -/

/-- The code word at a virtual address as memory holds it, if it is mapped for fetch. -/
def State.codeAt (s : State) (p : Nat) (va : Nat) : Option Word :=
  match s.xlate p .fetch (BitVec.ofNat 64 va) 0 with
  | .ok x => some (BitVec.ofNat 64 (s.mem.read x.pa 8))
  | .error _ => none

/-- The ordinal of the stop site at `target`, counting from the word at `pc` in a block that ends at `e`. -/
def State.ordinalWalk (s : State) (p target : Nat) : Nat → Nat → Nat → Nat → Option Nat
  | 0, _, _, _ => none
  | k + 1, pc, e, acc =>
    if pc = target then some acc
    else match s.codeAt p pc with
      | none => none
      | some w =>
        if pc = e then
          match decodeHeader w with
          | none => none
          | some h => State.ordinalWalk s p target k (pc + 8) (pc + 8 + 8 * h.len) (acc + bit h.stop)
        else State.ordinalWalk s p target k (pc + (if w.getLsbD 10 then 16 else 8)) e (acc + bit (w.getLsbD 11))

/-- The safe-point ordinal of the stop site at an address: its position among the stop sites from the kernel's entry
block, which is its first (09 R227), in ascending address. -/
def State.ordinal (s : State) (p : Nat) (entry : Word) (a : Option Word) : Nat :=
  match a with
  | none => 0xFFFFFFFF
  | some x => (s.ordinalWalk p x.toNat ((x.toNat - entry.toNat) / 8 + 1) entry.toNat entry.toNat 0).getD 0xFFFFFFFF

/-! ## Fault records (17 R415) -/

/-- A fault record, without CLK, which is read when it is written. -/
structure FaultRec where
  cause : Nat
  kind  : Nat
  more  : Nat
  part  : Nat
  die   : Nat
  core  : Nat
  gang  : Nat
  wid   : Word
  upc   : Word
  info  : Word
  word  : Word
  ident : Word
  lane  : Nat
  ord   : Nat
  deriving DecidableEq, Repr

/-- The bytes of a fault record before CLK, with the die whose CLK it takes. -/
def FaultRec.bytes (r : FaultRec) : Nat × List Byte :=
  (r.die, toLe r.cause 1 ++ toLe r.kind 1 ++ toLe (min r.more 0xFFFF) 2 ++ toLe r.part 1 ++ toLe r.die 1 ++ toLe r.core 1
    ++ toLe r.gang 1 ++ toLe r.wid.toNat 8 ++ toLe r.upc.toNat 8 ++ toLe r.info.toNat 8 ++ toLe r.word.toNat 8
    ++ toLe r.ident.toNat 8 ++ toLe r.lane 4 ++ toLe r.ord 4)

/-- The code of a trap cause (01, 02 R48 and the traps of the instruction chapters). -/
def Cause.code : Cause → Nat
  | .illegal => 0x01 | .badtarget => 0x02 | .invreg => 0x03 | .regbound => 0x04 | .weirbound => 0x05
  | .spadbound => 0x06 | .misalign => 0x07 | .xlate => 0x08 | .perm => 0x09 | .wblock => 0x0A | .locklimit => 0x0B
  | .versioned => 0x0C | .accstate => 0x0D | .engine => 0x0E | .bkpt => 0x10 | .trapi => 0x11 | .loopdepth => 0x12
  | .cohlost => 0x14 | .eccunc => 0x15 | .stackgrow => 0x16

/-- The cause of a code. -/
def Cause.ofCode (n : Nat) : Option Cause :=
  [.illegal, .badtarget, .invreg, .regbound, .weirbound, .spadbound, .misalign, .xlate, .perm, .wblock, .locklimit,
    .versioned, .accstate, .engine, .bkpt, .trapi, .loopdepth, .cohlost, .eccunc, .stackgrow].find? fun c => c.code == n

/-- The KIND 0 record of a stopped fibre. -/
def State.recordOf (s : State) (f : Nat) : Option (Nat × List Byte) :=
  match s.fibres.find? f with
  | none => none
  | some fb =>
    match s.wgs.find? fb.wg with
    | none => none
    | some w =>
      match s.launchOf w, fb.stop with
      | some l, some (.trap t) =>
        some <| FaultRec.bytes
          { cause := t.cause.code, kind := 0, more := t.more, part := w.part, die := w.die, core := w.core
            gang := (w.gangOf fb.num).getD 0, wid := widOf l w fb.num, upc := t.upc, info := t.info, word := t.word
            ident := l.ident, lane := w.slot fb.num, ord := s.ordinal w.part l.kernel.entry fb.lastSp }
      | _, _ => none

/-- A record of KIND 1 or 2 of a workgroup. -/
def State.wgRecord (s : State) (w : Wg) (kind : Nat) (cause : Nat) (info : Word) (more : Nat) : Nat × List Byte :=
  match s.launchOf w with
  | none => (w.die, [])
  | some l =>
    FaultRec.bytes
      { cause, kind, more, part := w.part, die := w.die, core := w.core, gang := (w.gangOf 0).getD 0
        wid := widOf l w 0, upc := 0, info, word := 0, ident := l.ident, lane := 0, ord := 0xFFFFFFFF }

/-- The record of a KIND 0 wait. -/
def State.waitRec (s : State) : FaultWait → Option (Nat × List Byte)
  | .fibre f => s.recordOf f
  | .kept d r => some (d, r)

/-- Waiting records written while the fault ring has room: the pending store first, then stopped fibres (R414). -/
def State.drainFaults (s : State) (p : Nat) : Nat → State
  | 0 => s
  | k + 1 =>
    if s.faultRoom p then
      match (s.part p).pendRecs with
      | r :: rs => State.drainFaults ((s.pushFault p r).modPart p fun x => { x with pendRecs := rs }) p k
      | [] =>
        match (s.part p).waitFibs with
        | f :: fs =>
          let s := match s.waitRec f with
            | some r => s.pushFault p r
            | none => s
          State.drainFaults (s.modPart p fun x => { x with waitFibs := fs }) p k
        | [] => s
    else s

/-- All the records of a partition that can be written. -/
def State.flushFaults (s : State) (p : Nat) : State :=
  s.drainFaults p ((s.part p).pendRecs.length + (s.part p).waitFibs.length)

/-- Whether the pending store takes one more record (R414). -/
def State.storeRoom (s : State) (p : Nat) : Bool := decide ((s.part p).pendRecs.length < 64) || s.faultRoom p

/-- A record of KIND 1 or 2, for which `storeRoom` holds. -/
def State.faultLater (s : State) (p : Nat) (r : Nat × List Byte) : State :=
  (s.modPart p fun x => { x with pendRecs := x.pendRecs ++ [r] }).flushFaults p

/-! ## Taking a trap (02 R48) -/

/-- The stalls of a fibre ended (18 R434). -/
def State.unstall (s : State) (p f : Nat) : State :=
  if (s.part p).stalls.isEmpty then s
  else s.modPart p fun x =>
    { x with stalls := x.stalls.filter fun y => match y.who with
        | .lane g _ => !decide (g = f)
        | _ => true }

/-- The one trap entry: the fibre stops at its instruction with nothing of it done, and its KIND 0 record goes to the
executive, at once if the fault ring has room. -/
def State.takeTrap (s : State) (f : Nat) (cause : Cause) (info word : Word) (more : Nat := 0) : State :=
  match s.fibres.find? f with
  | none => s
  | some fb =>
    let s := s.setFib f
      { fb with st := .stopped, await := .none, stop := some (.trap { cause, info, upc := fb.pc, word, more }) }
    match s.wgs.find? fb.wg with
    | none => s
    | some w =>
      let s := (s.unstall w.part f).bumpWg w 0x10 1
      let s := if cause = .wblock then
          let k := s.lcore w.die w.core
          s.setLcore w.die w.core { k with xwblk := (k.xwblk + 1) % 2 ^ 32 }
        else s
      (s.modPart w.part fun x => { x with waitFibs := x.waitFibs ++ [.fibre f] }).flushFaults w.part

/-- The fibre becomes READY. -/
def State.makeReady (s : State) (f : Nat) : State :=
  match s.fibres.find? f with
  | none => s
  | some fb =>
    let age := match s.wgs.find? fb.wg with
      | some w => s.clkOf w
      | none => fb.age
    s.setFib f { fb with st := .ready, age }

/-! ## Writing results (08 R204) -/

/-- One register write. -/
def Fibre.putReg (fb : Fibre) (r : RegRef) (x : WVal) : Fibre :=
  match r, x with
  | .v n, .v x => { fb with v := fb.v.put n x }
  | .s n, .s x => { fb with s := fb.s.put n x }
  | .m n, .m x => { fb with m := fb.m.put n x }
  | _, _ => fb

/-- All the writes of a result. -/
def Fibre.putRegs (fb : Fibre) (l : List (RegRef × WVal)) : Fibre := l.foldl (fun b p => b.putReg p.1 p.2) fb

/-- The windows of a fibre after one more instruction issues: every count above 0 decreases by 1. -/
def Fibre.tickWins (fb : Fibre) : Fibre :=
  { fb with wins := (fb.wins.map fun p => (p.1, p.2 - 1)).filter fun p => decide (p.2 ≠ 0) }

/-- A result of lookahead `look`: written at once where `look` is 0, else pending in a window. -/
def State.writeBack (s : State) (f look : Nat) (dst : List (RegRef × WVal)) : State :=
  match s.fibres.find? f with
  | none => s
  | some fb =>
    if look = 0 then s.setFib f (fb.putRegs dst)
    else
      (s.setFib f
        { fb with
          pend := fb.pend ++ [{ id := s.nextId, dst, left := 0, st := .ready }]
          wins := fb.wins ++ dst.map fun p => (p.1, look) }).named

/-- A result pending under the name `id`, which a later event gives (or which is poisoned). -/
def State.pendAs (s : State) (f id look left : Nat) (dst : List (RegRef × WVal)) (st : PendSt) : State :=
  match s.fibres.find? f with
  | none => s
  | some fb =>
    s.setFib f
      { fb with
        pend := fb.pend ++ [{ id, dst, left, st }]
        wins := if look = 0 then fb.wins else fb.wins ++ dst.map fun p => (p.1, look) }

/-- A result pending under the fresh name `s.nextId`. -/
def State.writeLater (s : State) (f look left : Nat) (dst : List (RegRef × WVal)) (st : PendSt) : State :=
  (s.pendAs f s.nextId look left dst st).named

/-- The pending result `id` written. -/
def Fibre.settle (fb : Fibre) (id : Nat) : Fibre :=
  match fb.pend.find? fun p => p.id == id with
  | none => fb
  | some p => { fb.putRegs p.dst with pend := fb.pend.filter fun q => q.id != id }

/-- Every window closed (R205). -/
def Fibre.closeWins (fb : Fibre) : Fibre := { fb with wins := [] }

/-- What R205 waits for first: the result that has not been written, or the deferred ECCUNC of one that never is. -/
def Fibre.unsettled (fb : Fibre) : Option Block :=
  match fb.pend.find? fun p => match p.st with | .poison _ => true | _ => false with
  | some { st := .poison a, .. } => some (.trap .eccunc a)
  | _ => if fb.pend.isEmpty then none else some (.wait .interlock)

/-! ## Advancing (02 R40, 08 R207, R210) -/

/-- The fibre after its instruction of `len` bytes, no branch taken: the loop of R40 where the last word of the
instruction stands at the end address of the top entry, else the next word. -/
def Fibre.advance (fb : Fibre) (len : Nat) : Fibre :=
  let next := fb.pc + BitVec.ofNat 64 len
  match fb.loops with
  | [] => { fb with pc := next }
  | t :: rest =>
    if t.last = next - 8 then
      if t.rem = 1 then { fb with pc := next, loops := rest }
      else { fb with pc := t.start, blkEnd := t.start, loops := { t with rem := t.rem - 1 } :: rest }
    else { fb with pc := next }

/-- Whether an entry's body contains an address (R41). -/
def LoopEntry.holds (t : LoopEntry) (a : Word) : Bool := decide (t.start.toNat ≤ a.toNat) && decide (a.toNat ≤ t.last.toNat)

/-- PopTo of R41: entries popped from the top down to the first whose body contains the target. -/
def popTo (l : List LoopEntry) (a : Word) : List LoopEntry := l.dropWhile fun t => !t.holds a

/-- The fibre at a block header. -/
def Fibre.goto (fb : Fibre) (a : Word) : Fibre := { fb with pc := a, blkEnd := a }

/-- A stop site retired (R207). -/
def State.retire (s : State) (f : Nat) (a : Word) : State :=
  match s.fibres.find? f with
  | none => s
  | some fb =>
    let s := s.setFib f { fb with lastSp := some a, stepReq := false }
    match s.wgs.find? fb.wg with
    | none => s
    | some w => (s.setWg fb.wg { w with retired := w.retired + 1 }).bumpWg w 0x0F 1

/-! ## Weirs (05 R124 to R130) -/

/-- A weir that is armed. -/
def Weir.armed (w : Weir) : Bool := decide (w.expa ≠ 0) || decide (w.expb ≠ 0)

/-- Phases that the counts of an armed weir complete. -/
def Weir.completes (w : Weir) : Nat :=
  if w.expa = 0 then w.bytes / w.expb else if w.expb = 0 then w.arr / w.expa else min (w.arr / w.expa) (w.bytes / w.expb)

/-- ARR, BYTES and ERR after a count is added, before any completion. -/
def Weir.added (w : Weir) (da db : Nat) (e : Bool) : Weir :=
  { w with err := w.err || e, arr := min (w.arr + da) 0xFFFF, bytes := min (w.bytes + db) 0xFFFFFFFF }

/-- Whether a count is excess (R125). -/
def Weir.excess (w : Weir) (da db : Nat) : Bool :=
  let x := w.added da db false
  w.armed && (decide (x.arr > x.expa) || decide (x.bytes > x.expb))

/-- Count of R124: the weir, and the number of phases completed. -/
def Weir.count (w : Weir) (da db : Nat) (e : Bool) : Weir × Nat :=
  let x := w.added da db e
  if !w.armed then (x, 0)
  else
    let k := x.completes
    ({ x with
        overrun := x.overrun || w.excess da db, arr := x.arr - k * x.expa, bytes := x.bytes - k * x.expb
        phase := (x.phase + k) % 65536 }, k)

/-- Reached of R128. -/
def reached (phase p : Nat) : Bool := decide ((phase + 65536 - p % 65536) % 65536 < 32768)

/-- Whether a target not reached at `phase` is reached by one of the next `k` completions. -/
def reachedBy (phase k p : Nat) : Bool := decide ((p % 65536 + 65536 - phase) % 65536 ≤ k)

/-- Weir `i` of a workgroup. -/
def Wg.weir (w : Wg) (i : Nat) : Weir := w.weirs.getD i Weir.start

/-- The result of WWAIT (12 R322) that completes at `phase`. -/
def wwaitResult (w : Weir) (phase : Nat) (tmo : Bool) : Word := BitVec.ofNat 64 (phase * 65536 + bit w.err * 2 + bit tmo)

/-- Whether a WWAIT on weir `i` that completes at `phase` takes the grant of a slot (07 R184). -/
def LockSlot.takenBy (x : LockSlot) (i phase : Nat) : Bool :=
  match x.phase with
  | some p => x.state == .granted && decide (x.weir = i) && reached phase (p + 1)
  | none => false

/-- The lock slots after a WWAIT on weir `i` completes at `phase`: grants it includes are HELD (07 R184). -/
def takeGrants (l : List LockSlot) (i phase : Nat) : List LockSlot :=
  l.map fun x => if x.takenBy i phase then { x with state := .held } else x

/-- What a completed WWAIT acquires (12 R321): every arrival counted in the phases up to the one reached, at its scope,
and the grants it takes, each at the scope of its lock (04 R108). -/
def State.acquireWait (s : State) (f : Nat) (fb : Fibre) (w : WaitRec) (phase : Nat) : State :=
  (fb.slots.filter fun x => x.takenBy w.weir phase).foldl (fun s x => s.acquire (.fibre f) x.scope fun o => decide (o = .lock x.line))
    (s.acquire (.fibre f) w.scope fun o => decide (o = .weir fb.wg w.weir))

/-- A WWAIT that completes at `phase`: it acquires, Sd is written, grants are taken, and the fibre is READY after the
instruction (12 R321). -/
def State.finishWait (s : State) (f phase : Nat) (tmo : Bool) : State :=
  match s.fibres.find? f with
  | none => s
  | some fb =>
    match fb.await, s.wgs.find? fb.wg with
    | .weir w, some g =>
      let x := g.weir w.weir
      let s := if tmo then s else s.acquireWait f fb w phase
      let fb := { fb with await := .none, slots := if tmo then fb.slots else takeGrants fb.slots w.weir phase }
      ((s.setFib f (fb.advance 8)).writeBack f w.look [(.s w.d, .s (wwaitResult x phase tmo))]).makeReady f
    | _, _ => s

/-- The fibres of resident gangs that wait on weir `i` for a phase that the next `k` completions reach, with that phase. -/
def State.wakers (s : State) (w : Nat) (g : Wg) (i phase k : Nat) : List (Nat × Nat) :=
  (s.fibresOf w).filterMap fun p =>
    match p.2.await with
    | .weir a => if p.2.st = .waiting && decide (a.weir = i) && reachedBy phase k a.target && (g.gangOf p.2.num).isSome
        then some (p.1, a.target % 65536) else none
    | _ => none

/-- Gangs of a workgroup queued for restoration in the order of their recall (17 R411). -/
def State.recallGangs (s : State) (w : Nat) (l : List Nat) : State :=
  l.foldl (fun s j => match s.wgs.find? w with
    | none => s
    | some g => if g.recalled.any fun r => decide (r.1 = j) then s
      else (s.setWg w { g with recalled := g.recalled ++ [(j, s.nextId)] }).named) s

/-- The releases after a count on a weir that completes `k` phases: earlier arrivals can be acquired, and the arrival
of the count unless OVERRUN carries it into a later phase (04 R96). -/
def weirRels (l : List Rel) (w i k : Nat) (carried : Bool) (r : Option Rel) : List Rel :=
  (match r with
    | some r => if r.ids.isEmpty then [] else [{ r with obj := .weir w i, live := decide (k ≠ 0) && !carried }]
    | none => [])
  ++ if k = 0 then l else l.map fun x => if x.obj = .weir w i then { x with live := true } else x

/-! ## The saved image of a workgroup (17 R413, 05 R131, R140) -/

/-- The address of a workgroup's slot. -/
def Launch.slotAt (l : Launch) (index : Nat) : Word :=
  BitVec.ofNat 64 (l.field 0x58 8 + index % 2 ^ (l.shift 5 - l.shift 2) * l.field 0x54 4)

/-- Bytes of the save area written where the partition's translation reaches memory of this package. -/
def State.saveBytes (s : State) (p : Nat) : Nat → Word → List Byte → State
  | 0, _, _ => s
  | k + 1, va, l =>
    if l.isEmpty then s
    else
      let m := 8192 - va.toNat % 8192
      let s := match s.xlate p (.store 8) va s.free with
        | .ok x => s.poke x.pa (if ebit x.leaf.e 10 then narrowBytes (l.take m) else l.take m)
        | .error _ => s
      State.saveBytes s p k (va + BitVec.ofNat 64 m) (l.drop m)

/-- The weir image (05 R123). -/
def Weir.image (x : Weir) : Wide :=
  BitVec.ofNat 16 x.phase ++ BitVec.ofNat 16 x.expa ++ BitVec.ofNat 16 x.arr ++ BitVec.ofNat 32 x.expb
    ++ BitVec.ofNat 32 x.bytes
    ++ BitVec.ofNat 16 (16 * bit (!x.wakes.isEmpty) + 8 * bit x.err + 4 * bit x.overrun + 2 * bit x.ovtrap)

/-- The 64 bytes of a weir. -/
def Weir.saved (x : Weir) : List Byte :=
  let target (g : Nat) : Nat := ((x.wakes.find? fun r => decide (r.gang = g)).map fun r => r.target % 65536).getD 0
  toLe x.image.toNat 16 ++ (List.range 16).flatMap (fun g => toLe (target g) 2)
    ++ toLe ((x.wakes.map fun r => 2 ^ r.gang).foldl (· ||| ·) 0) 2 ++ toLe 0 14

/-- Bytes at offset `o` of the save slot of a workgroup that has no resident gang: what reaches it is kept there too. -/
def State.imageBytes (s : State) (g : Wg) (o : Nat) (b : List Byte) : State :=
  if g.resident then s
  else match s.launchOf g with
    | some l => s.saveBytes g.part (b.length / 8192 + 2) (l.slotAt g.index + BitVec.ofNat 64 o) b
    | none => s

/-- The saved image of weir `i` of workgroup `w` brought up to date. -/
def State.imageWeir (s : State) (w i : Nat) : State :=
  match s.wgs.find? w with
  | some g => s.imageBytes g (0x500 + 64 * i) (g.weir i).saved
  | none => s

/-- A count applied to weir `i` of workgroup `w` (R124), with its waiters and wake-up records (R129, R130); `r` is the
release that the arrival is. -/
def State.countWeir (s : State) (w i da db : Nat) (e : Bool) (r : Option Rel := none) : State :=
  match s.wgs.find? w with
  | none => s
  | some g =>
    let x := g.weir i
    let (y, k) := x.count da db e
    let due := y.wakes.filter fun r => reachedBy x.phase k r.target
    let y := { y with wakes := y.wakes.filter fun r => !reachedBy x.phase k r.target }
    let ids := s.wakers w g i x.phase k
    let s := { s with rels := weirRels s.rels w i k (x.excess da db && decide (y.arr ≠ 0)) r }
    let s := ((s.setWg w { g with weirs := g.weirs.set i y }).imageWeir w i).recallGangs w (due.map WakeRec.gang)
    ids.foldl (fun s f => s.finishWait f.1 f.2 false) s

/-- The handle of weir `i` of a workgroup (R121). -/
def State.handle (s : State) (w : Wg) (i : Nat) : Word :=
  BitVec.ofNat 64 (w.gen % 65536 * 2 ^ 48 + s.chip * 2 ^ 38 + w.die0 * 2 ^ 35 + w.core0 * 2 ^ 30 + i)

/-- The workgroup and weir that a handle of this chip names, in partition `p` (R121, R122, 16 R397). -/
def State.ofHandle (s : State) (p : Nat) (h : Word) : Option (Nat × Nat) :=
  if (h.extractLsb' 38 10).toNat ≠ s.chip then none
  else
    match List.find? (fun x : Nat × Wg => decide (x.2.gen % 65536 = (h.extractLsb' 48 16).toNat)
        && decide (x.2.die0 = (h.extractLsb' 35 3).toNat) && decide (x.2.core0 = (h.extractLsb' 30 5).toNat)
        && decide (x.2.part = p)) s.wgs with
    | some (w, g) => let i := (h.extractLsb' 0 6).toNat
      if i < g.weirs.length then some (w, i) else none
    | none => none

/-! ## Outstanding-operation counters (01 R18, 05 R133) -/

/-- The commands of a fibre in a counter, oldest first. -/
def State.cmdsOf (s : State) (f : Nat) (c : Ctr) : List (Nat × Cmd) :=
  s.cmds.filter fun p => decide (p.2.fib = some f) && decide (p.2.ctr = some c)

/-- The batch of a flume command. -/
def Cmd.batch? (c : Cmd) : Option Nat :=
  match c.body with
  | .flume x => some x.batch
  | _ => none

/-- The sealed batches of a fibre that have not completed, oldest first. -/
def State.sealed (s : State) (f : Nat) (fb : Fibre) : List Nat :=
  ((s.cmdsOf f .ocf).filterMap fun p => p.2.batch?).filter (fun b => decide (b < fb.batch)) |>.foldr
    (fun b l => if l.contains b then l else b :: l) []

/-- The value of a counter. -/
def State.oc (s : State) (f : Nat) (fb : Fibre) (c : Ctr) : Nat :=
  match c with
  | .ocf => (s.sealed f fb).length
  | _ => (s.cmdsOf f c).length

/-! ## Joining (02 R39) -/

/-- JoinShape with the values: lanes of the child from the child, every other from the parent. -/
def joinReg (w : Nat) (lanes : Nat) (p c : VVal) : VVal :=
  match p, c with
  | .uni a, .uni b => if a = b then .uni a else .gen (tabulate w fun l => if lanes.testBit l then b else a)
  | .aff a s, .aff b t => if a = b ∧ s = t then .aff a s
      else .gen (tabulate w fun l => if lanes.testBit l then (VVal.aff b t).lane l else (VVal.aff a s).lane l)
  | p, c => .gen (tabulate w fun l => if lanes.testBit l then c.lane l else p.lane l)

/-- The parent after the child has joined it. -/
def joined (w : Nat) (p c : Fibre) : Fibre :=
  let l := c.live
  { p with
    m := tabulate 16 fun i => (i, if i = 0 then p.mreg 0 ||| c.mreg 0 else (p.mreg i &&& ~~~c.mreg 0) ||| (c.mreg i &&& c.mreg 0))
    v := p.v.filterMap fun r => (c.v.find? r.1).map fun x => (r.1, joinReg w l r.2 x)
    srs := tabulate w fun i => (i, if l.testBit i then c.srs.getD i 0 else p.srs.getD i 0)
    errs := p.errs ++ c.errs, finished := p.finished ++ c.finished }

/-- Whether a lock slot is QUEUED, GRANTED or HELD. -/
def LockSlot.busy (x : LockSlot) : Bool := x.state == .queued || x.state == .granted || x.state == .held

/-- The conditions of R39 on the child. -/
def State.mayJoin (s : State) (c : Nat) (fb : Fibre) : Bool :=
  !fb.slots.any LockSlot.busy && !(s.cmds.any fun p => decide (p.2.fib = some c) && p.2.ctr.isSome)
    && decide (fb.openN = 0) && fb.loops.isEmpty && fb.tiles.isEmpty

/-- The state with the fibre ended and its children given to its parent. -/
def State.orphan (s : State) (f : Nat) (fb : Fibre) : State :=
  let s := s.setFib f { fb with st := .ended }
  { s with fibres := s.fibres.mapVal fun _ x => if x.parent = some f then { x with parent := fb.parent } else x }

/-- A held write of fibre `c` as one of fibre `p`, which `c` joins. -/
def Waiting.handTo (x : Waiting) (c p : Nat) : Waiting :=
  match x.req.agent with
  | .lane g l => if g = c then { x with req := { x.req with agent := .lane p l } } else x
  | _ => x

/-- Fibre `c`, released at a header together with `rel`, joins its parent if the parent is among them (R39). Its engine
errors pass to the parent and stay with it alone. Upcalls still posted to the child, and its running handler, are
dropped (DESIGN CHOICE, log entry 89). -/
def State.joinOne (s : State) (rel : List Nat) (c : Nat) : State :=
  match s.fibres.find? c with
  | none => s
  | some cb =>
    match cb.parent with
    | none => s
    | some p =>
      match s.fibres.find? p, s.wgs.find? cb.wg with
      | some pb, some w =>
        if rel.contains p && pb.st != .ended && s.mayJoin c cb then
          let s := { s with lines := s.lines.mapVal fun _ l => { l with held := l.held.map fun (x : Waiting) => x.handTo c p } }
          ((s.setFib p (joined w.width pb cb)).inherit (.fibre p) (.fibre c)).orphan c { cb with errs := [] }
        else s
      | _, _ => s

/-- Cycles from `t` to `now`. -/
def since' (now t : Nat) : Nat := (now + 2 ^ 64 - t) % 2 ^ 64

/-- An element put into a list in ascending order of `k`, before those of equal `k`. -/
def insertBy {α : Type} (k : α → Nat) (a : α) : List α → List α
  | [] => [a]
  | b :: l => if k a ≤ k b then a :: b :: l else b :: insertBy k a l

/-- Fibres of a workgroup in ascending LANE. -/
def State.byLane (s : State) (w : Wg) (l : List Nat) : List Nat :=
  l.foldr (insertBy fun f => match s.fibres.find? f with
    | some x => w.slot x.num
    | none => 0) []

/-- The fibres held at their target `h` in the gang of `fb`, released by arrival (R38, R39): targets cleared, and joins
in the order of spawning. A fibre whose 256 cycles are over is released alone, without a join. The answer also names
the fibres released together that go on, in ascending LANE. -/
def State.releaseAt (s : State) (w : Wg) (fb : Fibre) (h : Word) : State × List Nat :=
  let held := s.fibres.filter fun p => sameGang w fb p.2 && p.2.st != .ended && decide (p.2.target = some h) && p.2.heldAt.isSome
  let s' := held.foldl (fun s p => (s.modFib p.1 fun x => { x with target := none, heldAt := none }).makeReady p.1) s
  let rel := (held.filter fun p => decide (since' (s.clkOf w) (p.2.heldAt.getD 0) < 256)).map (·.1)
  let s' := rel.foldl (fun s c => s.joinOne rel c) s'
  (s', s'.byLane w (rel.filter fun f => (s'.fibres.getD f fb).st == .ready))

/-- The holds whose 256 cycles are over end, each alone (R38). -/
def State.expireHolds (s : State) : State :=
  (s.fibres.filter fun p => p.2.st == .held && match s.wgs.find? p.2.wg, p.2.heldAt with
    | some w, some t => decide (256 ≤ since' (s.clkOf w) t) && (w.gangOf p.2.num).isSome
    | _, _ => false).foldl (fun s p => (s.modFib p.1 fun x => { x with target := none, heldAt := none }).makeReady p.1) s

/-- The holds of a gang that end because no fibre is still on its way to their header (R38). The awaited fibre ended or
took another target and never reached it: the model takes this as an end by arrival, so joins happen (DESIGN CHOICE,
log entry 88). -/
def State.unhold (s : State) (w : Wg) (fb : Fibre) : State :=
  let at' (held : Bool) : List Word := s.fibres.filterMap fun p =>
    if sameGang w fb p.2 && p.2.st != .ended && p.2.heldAt.isSome == held then p.2.target else none
  ((at' true).filter fun h => !(at' false).contains h).foldl (fun s h => (s.releaseAt w fb h).1) s

/-- Whether another live fibre of the gang has target `h` and has not reached it. -/
def State.awaited (s : State) (w : Wg) (f : Nat) (fb : Fibre) (h : Word) : Bool :=
  s.fibres.any fun p => decide (p.1 ≠ f) && sameGang w fb p.2 && p.2.st != .ended && decide (p.2.target = some h) && p.2.heldAt.isNone

/-! ## Fetch -/

/-- A fetched word, or the fault of the fetch. -/
inductive Fetched where
  | word (w : Word)
  | fault (c : Cause)
  deriving DecidableEq, Repr

/-- Fetch of the code word at `va` by a fibre of workgroup `w` (18 R417 to R428, 21 R478, 22 R485), and the state after
it: the walk's first touch, the cached translation, and what the fetch lines of the die hold. -/
def State.fetch (s : State) (w : Wg) (va : Word) : Fetched × State :=
  let n := s.free
  match s.xlate w.part .fetch va n with
  | .error c => (.fault c, s)
  | .ok x =>
    if s.dead x.pa 8 then (.fault .eccunc, s)
    else
      let cur : Word := BitVec.ofNat 64 (s.mem.read x.pa 8)
      let d := s.die w.die
      let s := ((s.touch w.part (some (w.die, w.core)) x).cacheLeaf w.part x).countAccess w.part x false
      match d.stale.find? x.pa with
      | some old => (.word (if old ≠ cur && Config.fetchStale n then old else cur), s.drawn)
      | none => (.word cur, (s.setDie w.die { d with stale := d.stale.put x.pa cur }).drawn)

/-! ## Branch targets (08 R210, 10 R235) -/

/-- Whether a branch to `a` traps BADTARGET at the branch: the address, or a target word that can be fetched and is no
header. -/
def State.badTarget (s : State) (w : Wg) (a : Word) : Bool :=
  decide (a.toNat % 8 ≠ 0) || !canonical a ||
    match (s.fetch w a).1 with
    | .word x => !isHeader x
    | .fault _ => false

/-! ## Entering a block (08 R208 to R210, 02 R38, R50, 22 R482) -/

/-- Delivery of the oldest posted upcall (R50): windows are closed, UCAUSE, UPC and UINFO are written and the fibre
goes to the handler. -/
def Fibre.deliver (fb : Fibre) (code : Nat) (arg upc handler : Word) : Fibre :=
  { fb.closeWins.goto handler with ucause := BitVec.ofNat 64 code, upc, uinfo := arg, handler := true }

/-- The fibre halted by the debugger before a stop site retires. -/
def Fibre.halt (fb : Fibre) : Fibre := { fb with st := .stopped, stop := some .debug }

/-- V registers above LIVEV after a save or halt at the entry of a block that is a stop site (08 R209): each stays or
becomes invalid, by the free value `n`. -/
def Fibre.dropDead (fb : Fibre) (hd : Header) (nv n : Nat) : Fibre :=
  if hd.stop then { fb with v := fb.v.filter fun r => decide (r.1 ≤ min hd.livev.toNat (nv - 1)) || !Config.liveDrop n r.1 } else fb

/-- A block: a trap of the fibre with the word it stands at, or a wait. -/
def State.blocked (s : State) (f : Nat) (b : Block) (word : Word) : State :=
  match b with
  | .trap c i => s.takeTrap f c i word
  | .wait st => s.modFib f fun x => { x with st }

/-- The hold of R38 for fibre `f` at its target `h`. The fibres released by its arrival go on as one batch in the steps
that follow. -/
def State.holdAt (s : State) (f : Nat) (fb : Fibre) (w : Wg) (h : Word) : State :=
  match fb.unsettled with
  | some b => s.blocked f b 0
  | none =>
    let fb := { fb.closeWins with heldAt := some (fb.heldAt.getD (s.clkOf w)) }
    let s := s.setFib f fb
    if s.awaited w f fb h && decide (since' (s.clkOf w) (fb.heldAt.getD 0) < 256) then s.setFib f { fb with st := .held }
    else
      let (s, go) := s.releaseAt w fb h
      let rest := go ++ s.batch.rest.filter fun x => !go.contains x
      { s with batch := { rest, size := rest.length, fresh := true, call := none, apart := none } }

/-- Entry of fibre `f`, READY and past any hold, into the block of header `hd` at `h`. -/
def State.enterBlock (s : State) (f : Nat) (fb : Fibre) (h : Word) (hd : Header) : State :=
  let x := { fb with
    target := if hd.reconv = 0 then fb.target else some (h + (hd.reconv.signExtend 64) * 8)
    pc := h + 8, blkEnd := h + 8 + BitVec.ofNat 64 (8 * hd.len) }
  let s := s.setFib f x
  let s := if x.target = fb.target then s else match s.wgs.find? fb.wg with
    | some w => s.unhold w x
    | none => s
  if hd.stop then s.retire f h else s

/-- What happens at header `hd` of address `h` once the fibre is past any hold: delivery of an upcall, a halt by the
debugger, or entry. -/
def State.atHeader (s : State) (f : Nat) (fb : Fibre) (l : Launch) (h : Word) (hd : Header) : State :=
  match fb.upcalls, fb.handler with
  | u :: us, false =>
    match fb.unsettled with
    | some b => s.blocked f b 0
    | none => s.setFib f ({ fb with upcalls := us }.deliver u.code u.arg h (BitVec.ofNat 64 (l.field 0x60 8)))
  | _, _ =>
    if hd.stop && fb.haltReq && !fb.stepReq then (s.setFib f (fb.halt.dropDead hd l.kernel.nv s.free)).drawn
    else s.enterBlock f fb h hd

/-- A READY fibre at a header address: the header is fetched and checked (R208, R210), the fibre held at its target,
and the block entered. -/
def State.header (s : State) (f : Nat) (fb : Fibre) (w : Wg) (l : Launch) : State :=
  let h := fb.pc
  match s.fetch w h with
  | (.fault c, s) => s.takeTrap f c h 0
  | (.word x, s) =>
    if !isHeader x then s.takeTrap f .badtarget 0 0
    else match decodeHeader x with
      | none => s.takeTrap f .illegal 0 x
      | some hd =>
        if fb.target = some h then s.holdAt f fb w h else s.atHeader f fb l h hd

/-! ## Issue of one instruction -/

/-- The issuing fibre with all it stands in. -/
structure Cx where
  s    : State
  f    : Nat
  fb   : Fibre
  w    : Wg
  l    : Launch
  word : Word
  ext  : Word

/-- The context of the current step, where a fibre takes it. -/
def State.cx (s : State) : Option Cx :=
  match s.cur with
  | .fibre f word ext =>
    match s.fibres.find? f with
    | none => none
    | some fb =>
      match s.wgs.find? fb.wg with
      | none => none
      | some w =>
        match s.launchOf w with
        | none => none
        | some l => some { s, f, fb, w, l, word, ext }
  | _ => none

/-- Bytes of the instruction: 16 with LONG (R199). -/
def Cx.len (c : Cx) : Nat := if c.word.getLsbD 10 then 16 else 8
/-- Whether the instruction word is a stop site. -/
def Cx.stopSite (c : Cx) : Bool := c.word.getLsbD 11
/-- Address of the word after the instruction. -/
def Cx.next (c : Cx) : Word := c.fb.pc + BitVec.ofNat 64 c.len
/-- W. -/
def Cx.width (c : Cx) : Nat := c.w.width
/-- The declared counts. -/
def Cx.counts (c : Cx) : Counts :=
  { nv := c.l.kernel.nv, ns := c.l.kernel.ns, nm := c.l.kernel.nm, nmac := c.l.kernel.nmac }
/-- active(F) under MSEL `m`. -/
def Cx.act (c : Cx) (m : BitVec 4) : Nat := c.fb.active m
/-- The active lanes, ascending. -/
def Cx.lanes (c : Cx) (m : BitVec 4) : List Nat := lanesOf c.width (c.act m)
/-- Whether the workgroup is VERSIONED. -/
def Cx.versioned (c : Cx) : Bool := c.l.flag 2
/-- Sn. -/
def Cx.sreg (c : Cx) (n : BitVec 6) : Word := c.fb.sreg n.toNat
/-- Whether an instruction that waits so issues anew at each try: it may still trap, and has had no effect. -/
def Await.anew (a : Await) : Bool :=
  match a with
  | .none | .oc _ _ | .seal _ => true
  | _ => false
/-- Whether the instruction stands already at its wait. -/
def Cx.again (c : Cx) : Bool := !c.fb.await.anew
/-- The fibre with the batch that a FLWAIT sealed open again. -/
def Fibre.unsealed (fb : Fibre) : Fibre :=
  match fb.await with
  | .oc _ (some u) => { fb with batch := u.1, openN := u.2 }
  | _ => fb

/-- The result of an instruction's own effect. -/
inductive Res where
  /-- The effect is done in this state and the fibre goes on after the instruction. -/
  | ok (s : State)
  /-- A taken branch, its effects done. -/
  | jump (s : State)
  /-- A precise trap, with the engine errors that stay unreported; the fibre is as it stood before the issue. -/
  | trap (s : State) (c : Cause) (info : Word) (more : Nat) (errs : List EngErr)
  /-- A wait, after which the instruction is tried again; the fibre is as it stood before the issue. -/
  | wait (s : State) (st : FibreState)
  /-- A wait before which a part of the effect is done, on the fibre as it stood before the issue by `g`. -/
  | part (s : State) (g : Fibre → Fibre) (st : FibreState)
  /-- The instruction has issued and its effect is in this state; the fibre does not go on (it waits or has ended). -/
  | stay (s : State)

/-- A precise trap that changes nothing. -/
def Cx.trap (c : Cx) (k : Cause) (info : Word) : Res := .trap c.s k info 0 c.fb.errs

/-- A wait that changes nothing. -/
def Cx.wait (c : Cx) (st : FibreState) : Res := .wait c.s st

/-- The context as the instruction issues: the counts of earlier windows decrease, and the fibre's age restarts. -/
def Cx.issued (c : Cx) : Cx :=
  let fb := { (if c.again then c.fb else c.fb.tickWins) with age := c.s.clkOf c.w, st := .ready }
  { c with fb, s := c.s.setFib c.f fb }

/-- The stop site of the instruction retired, where it is one and has not retired before. -/
def Cx.retired (c : Cx) (s : State) : State := if c.stopSite && !c.again then s.retire c.f c.fb.pc else s

/-- The state after the result `r` of the instruction of `c`, which stands as it was before the issue. -/
def Cx.finish (c : Cx) (r : Res) : State :=
  match r with
  | .ok s => c.retired ((s.modFib c.f fun x => { x with await := .none }).modFib c.f fun x => x.advance c.len)
  | .jump s => c.retired s
  | .trap s k i m errs => (s.setFib c.f { c.fb.unsealed with errs }).takeTrap c.f k i (if k = .illegal then c.word else 0) m
  | .wait s st => s.setFib c.f { c.fb with st }
  | .part s g st => s.setFib c.f { g c.fb with st }
  | .stay s => c.retired s

/-- The issue of an instruction: the checks of R216 orders 2 and 3 and the wait for pending results over its operands,
then its own checks and effect. A step that no fibre takes changes nothing. -/
def issue (s : State) (ops : List Opnd) (body : Cx → Res) : Out :=
  match s.cx with
  | none => .next s
  | some c =>
    match operandCheck c.counts c.fb ops with
    | some b => .next (s.blocked c.f b 0)
    | none => .next (c.finish (body c.issued))

/-- The result of an instruction that writes registers with lookahead `look`. -/
def Cx.write (c : Cx) (look : Nat) (dst : List (RegRef × WVal)) : Res := .ok (c.s.writeBack c.f look dst)

/-- The result of an instruction that writes one scalar register. -/
def Cx.writeS (c : Cx) (look : BitVec 4) (d : BitVec 6) (x : Word) : Res :=
  c.write look.toNat [(.s d.toNat, .s x)]

/-- The fibre of the step changed by `g`, all else unchanged. -/
def Cx.setF (c : Cx) (g : Fibre → Fibre) : State := c.s.setFib c.f (g c.fb)

/-- The taken branch to header `a` (10 R235), with the loop entries `loops` after it. -/
def Cx.branch (c : Cx) (a : Word) (loops : List LoopEntry) (g : Fibre → Fibre) : Res :=
  if c.s.badTarget c.w a then c.trap .badtarget 0
  else .jump (c.setF fun x => ({ g x with loops := loops }).goto a)

end Sys2Proof.Machine
end

