-- ==== Sys2Proof/Machine/Home.lean ====
section
/-! DEFINITION. Homes: stores and lost sectors (21 R478), the retirement ring (R479), access counters (18 R432),
versions (04 R112), accrue partials and their collection (07 R172 to R178, R516), fan-out (19 R440, R451), and requests
performed at their home. -/

namespace Sys2Proof.Machine

/-! ## Retirement (21 R479) -/

/-- The partition whose range holds a physical address; partition 0 if none does. -/
def State.ownerOf (s : State) (pa : Nat) : Nat :=
  ((List.range 8).find? fun p => (s.part p).valid && s.inRange p pa).getD 0

/-- The source code of an uncorrectable detection at a home: HBM4E below 2^40 (R470), else CXL memory. -/
def memSource (pa : Nat) : Nat := if pa < 2 ^ 40 then 1 else 3

/-- The frame of a physical address retired, once (log entry 24). -/
def State.retireFrame (s : State) (pa src : Nat) : State :=
  let fr := pa / 8192
  if s.retired.contains fr then s
  else
    let p := s.ownerOf pa
    let x := s.part p
    let n := (x.retbase.extractLsb' 0 5).toNat
    let base := (x.retbase.extractLsb' 12 40).toNat * 4096
    let s := { s with retired := fr :: s.retired }
    if 4 ≤ n ∧ n ≤ 16 ∧ (x.rettail + 2 ^ 32 - x.rethead % 2 ^ 32) % 2 ^ 32 < 2 ^ n then
      (s.poke (base + 8 * (x.rettail % 2 ^ n)) (toLe (fr * 8192 + src) 8)).setPart p
        { x with rettail := (x.rettail + 1) % 2 ^ 32 }
    else s.setPart p { x with retovf := (x.retovf + 1) % 2 ^ 32 }

/-! ## The black box (23 R496) -/

/-- A record in the ring of die `d`. -/
def State.blackBox (s : State) (d code : Nat) (last : Bool) (arg : Nat) : State :=
  let x := s.die d
  let rec' := BitVec.ofNat 128 (arg % 2 ^ 64 * 2 ^ 64 + bit last * 2 ^ 56 + code % 256 * 2 ^ 48 + s.gtime % 2 ^ 48)
  s.setDie d { x with bbIdx := (x.bbIdx + 1) % 2 ^ 32, bb := x.bb.put (x.bbIdx % 256) rec' }

/-! ## Stores at the home -/

/-- The sectors that `n` bytes at `a` touch, by address div 32. -/
def sectorsOf (a n : Nat) : List Nat := (List.range (ceilDiv (a % 32 + n) 32)).map fun i => a / 32 + i

/-- Whether `n` bytes at `a` cover sector `k` wholly. -/
def covers (a n k : Nat) : Bool := decide (a ≤ 32 * k) && decide (32 * k + 32 ≤ a + n)

/-- Whether a write of `n` bytes at `a` is refused because it covers only part of a lost sector (R478). -/
def State.refuses (s : State) (a n : Nat) : Bool :=
  (sectorsOf a n).any fun k => (s.bad.contains k || s.lost.contains k) && !covers a n k

/-- Sectors that a write of `n` bytes at `a` covers wholly are lost no more. -/
def State.regained (s : State) (a n : Nat) : State :=
  { s with bad := s.bad.filter fun k => !covers a n k, lost := s.lost.filter fun k => !covers a n k }

/-- A write performed at its home for viewer `v`: NARROW words are rounded (03 R78), a whole write of a lost sector ends
its loss. -/
def State.homeStore (s : State) (v : Viewer) (va : Word) (i : Issue) (a : Nat) (l : List Byte) (narrow rmw : Bool) : State :=
  (s.storeBy v va i a (if narrow then narrowBytes l else l) rmw).regained a l.length

/-! ## Accesses of fibres -/

/-- What a translated access of a fibre's core leaves: first touch, cached translation, counters. -/
def State.accessed (s : State) (w : Wg) (x : Xl) (always : Bool) : State :=
  (((s.touch w.part (some (w.die, w.core)) x).cacheLeaf w.part x).countAccess w.part x always).drawn

/-- What an access leaves that reclassifies a private page shared, be it its owner's (07 R182). -/
def State.accessedShared (s : State) (w : Wg) (x : Xl) (always : Bool) : State :=
  (((s.touchBy w.part none (some (w.die, w.core)) x).cacheLeaf w.part x).countAccess w.part x always).drawn

/-! ## Versions (04 R112, 17 R412) -/

/-- Bytes at `a` as a workgroup sees them: those of its version over those of memory. -/
def overlay (v : Option Version) (a : Nat) (l : List Byte) : List Byte :=
  match v with
  | some v => l.mapIdx fun i b => (v.cells.find? (a + i)).getD b
  | none => l

/-- Bytes written into a version. -/
def Version.put (v : Version) (a : Nat) : List Byte → Version
  | [] => v
  | b :: l => Version.put { v with cells := v.cells.put a b } (a + 1) l

/-- The cistern blocks of 512 bytes that a version occupies (21 R471). -/
def Version.blocks (v : Version) : List Nat :=
  (v.cells.keys.map (· / 512)).foldr (fun b l => if l.head? = some b then l else b :: l) []

/-- The places of a partition's spill region that hold blocks of its versions (R412). -/
def State.spillPlaces (s : State) (p : Nat) : List Nat :=
  s.wgs.flatMap fun x => match x.2.version with
    | some v => if x.2.part = p then v.spill.map (·.2) else []
    | none => []

/-- Whether a versioned write at `a` finds quota and spill region full (R412). -/
def State.versionFull (s : State) (w : Wg) (a : Nat) : Bool :=
  match w.version with
  | none => false
  | some v =>
    let q := (s.part w.part).vquota.toNat % 65536
    !v.blocks.contains (a / 512) && decide (q ≤ v.blocks.length)
      && decide ((s.part w.part).vspsize.toNat / 512 ≤ (s.spillPlaces w.part).length)

/-- Block `b` of a version in the spill region, where it lies there: the lowest free place of 512 bytes is its own
(DESIGN CHOICE, log entry 99). -/
def State.spillBlock (s : State) (w b : Nat) : State :=
  match s.wgs.find? w with
  | none => s
  | some g =>
    match g.version with
    | none => s
    | some v => match v.spill.find? b with
      | some k => s.poke ((s.part g.part).vspbase.toNat + 512 * k) (overlay g.version (512 * b) (s.mem.bytes (512 * b) 512))
      | none => s

/-- A version after a write of bytes at `a`; a block beyond the quota `q` is spilled to a place not in `busy`. -/
def Version.write (v : Version) (q : Nat) (busy : List Nat) (a : Nat) (l : List Byte) : Version :=
  let v' := v.put a l
  let new := v'.blocks.filter fun b => !v.blocks.contains b
  let room := (List.range (busy.length + new.length + 1)).filter fun k => !busy.contains k
  let more := new.drop (q - v.blocks.length)
  { v' with spilled := v.spilled || !more.isEmpty, spill := (more.zip room).foldl (fun t x => t.put x.1 x.2) v.spill }

/-- A write into a workgroup's version. -/
def State.versionStore (s : State) (w : Nat) (a : Nat) (l : List Byte) (narrow : Bool) : State :=
  match s.wgs.find? w with
  | none => s
  | some g =>
    match g.version with
    | none => s
    | some v =>
      let v := v.write ((s.part g.part).vquota.toNat % 65536) (s.spillPlaces g.part) a (if narrow then narrowBytes l else l)
      ((List.range (ceilDiv (a % 512 + l.length) 512)).map fun i => a / 512 + i).foldl (fun s b => s.spillBlock w b)
        (s.setWg w { g with version := some v })

/-! ## Accrue lines (07 R172 to R178) -/

/-- The node that an ACR of a core updates (R173, 04 R91); none where it is a far update at the home. -/
def acrNode (die core : Nat) (sc : Scope) (pa : Nat) (away : Bool) : Option Node :=
  if away then none
  else match sc with
    | .wg => some (.core die core)
    | .cl => some (.cluster die (clusOf core))
    | .di => some (.cluster die (pa / 512 % 6))
    | _ => none

/-- The partial of a line at a node. -/
def State.partialAt (s : State) (n : Node) (a : Nat) : Option Partial :=
  List.find? (fun p : Partial => decide (p.node = n) && decide (p.line = a)) s.partials

/-- The partials without that of a line at a node. -/
def State.dropPartial (s : State) (n : Node) (a : Nat) : State :=
  { s with partials := s.partials.filter fun p => !(decide (p.node = n) && decide (p.line = a)) }

/-- An update of element `i` applied in a node's partial, which is allocated at the identity if absent. -/
def State.mergeNode (s : State) (n : Node) (a grain : Nat) (t : AcrTag) (i d : Nat) : State :=
  let p := (s.partialAt n a).getD { node := n, line := a, grain, tag := t, elems := [], bad := [] }
  let s := s.dropPartial n a
  { s with partials := { p with elems := p.elems.put i (acrApply t (p.elems.getD i t.identity) d) } :: s.partials }

/-- A partial merged into a node's partial (R178). -/
def State.mergeInto (s : State) (n : Node) (q : Partial) : State :=
  let p := (s.partialAt n q.line).getD { q with node := n, elems := [], bad := [] }
  let s := s.dropPartial n q.line
  let el := q.elems.foldl (fun t e => t.put e.1 (merge q.tag (t.getD e.1 q.tag.identity) e.2)) p.elems
  { s with partials := { p with elems := el, bad := p.bad ++ q.bad } :: s.partials }

/-- An element of the base replaced, where its sector is readable; else the update is lost (R516). -/
def State.setElem (s : State) (a : Nat) (t : AcrTag) (i : Nat) (g : Nat → Nat) : State :=
  let e := a + t.size * i
  if s.dead e t.size then s else s.merged e (toLe (g (s.mem.read e t.size)) t.size)

/-- Sectors of a line lost at the home for uncorrectable data that was found there, with their frame retired (R516). -/
def State.loseSectors (s : State) (a : Nat) (ks : List Nat) (src : Nat) : State :=
  let l := ks.map fun k => a / 32 + k
  l.foldl (fun s k => s.retireFrame (32 * k) src) { s with lost := s.lost ++ l.filter fun k => !s.lost.contains k }

/-- A partial, whose elements start at the identity (R172), merged into the base at the home (R178); its uncorrectable
sectors are dropped, and those of the base are lost (R516). -/
def State.mergeBase (s : State) (q : Partial) : State :=
  (((List.range (q.grain / q.tag.size)).filter fun i => !q.bad.contains (i * q.tag.size / 32)).foldl
    (fun s i => s.setElem q.line q.tag i fun b => merge q.tag b (q.elems.getD i q.tag.identity)) s).loseSectors q.line q.bad 4

/-- The value of base element `i` after a collection, in source order (R176). -/
def collectElem (t : AcrTag) (ps : List Partial) (i base : Nat) : Nat :=
  (List.range 48).foldl (fun v u =>
    let own := List.find? (fun p : Partial => decide (p.node = .cluster (u / 6) (u % 6))) ps
    let cs := (List.range 4).filterMap fun k =>
      List.find? (fun p : Partial => decide (p.node = .core (u / 6) (4 * (u % 6) + k))) ps
    let p := cs.foldl (fun p c => merge t p (c.elems.getD i t.identity)) ((own.map fun o => o.elems.getD i t.identity).getD t.identity)
    if own.isNone && cs.isEmpty then v else merge t v p) (merge t base t.identity)

/-- A collection (R176, R516): every partial merged into the base in source order and discarded; `hard` are the
sectors of partials found uncorrectable in it. A sector of the base that is uncorrectable, or into which such a sector
would have been merged, is lost and its frame retired. The line is NORMAL afterwards. -/
def State.collected (s : State) (a : Nat) (hard : List Nat) : State :=
  match s.lines.find? a with
  | none => s
  | some l =>
    match l.acc with
    | none => s.setLine a { l with collect := false }
    | some t =>
      let ps := s.partials.filter fun p => decide (p.line = a)
      let cut := if ps.isEmpty then [] else (hard ++ ps.flatMap Partial.bad).filter fun k => decide (k < l.grain / 32)
      let deadOnes := (List.range (l.grain / 32)).filter fun k => s.dead (a + 32 * k) 32
      let s := ((List.range (l.grain / t.size)).filter fun i => !cut.contains (i * t.size / 32)).foldl
        (fun s i => s.setElem a t i (collectElem t ps i)) s
      let s := { s with partials := s.partials.filter fun p => !decide (p.line = a) }
      ((s.loseSectors a deadOnes (memSource a)).loseSectors a cut 4).setLine a { l with acc := none, collect := false }

/-- The line in the accrue state under `t` (R175): copies outside the home are gone. -/
def State.enterAccrue (s : State) (a grain : Nat) (t : AcrTag) : State :=
  s.setLine a { s.line a grain with grain, acc := some t, dir := .i, sharers := 0 }

/-- A far update applied at the home (R173, R187): in the base of an accrue line, or as a Merge to the value of a
locked one. -/
def State.mergeHome (s : State) (t : AcrTag) (pa d : Nat) : State :=
  s.merged pa (toLe (acrApply t (s.mem.read pa t.size) d) t.size)

/-- The release that an accrue update is after a FENCE.rel (12 R303), at the location it is merged into. -/
def State.accrued (s : State) (i : Issue) : State :=
  match i.rel with
  | some r => s.released r
  | none => s

/-! ## The directory (19 R439, R440) -/

/-- COLLECT, FANOUT and HOLD: requests are queued. -/
def Line.busy (l : Line) : Bool := l.collect || decide (l.acks ≠ 0) || l.hold
/-- A line whose turnout lock is held. -/
def Line.locked (l : Line) : Bool := l.holder.isSome
/-- The sharer bit of an agent of this package. -/
def clusBit (die core : Nat) : Nat := 6 * die + clusOf core
/-- The sharer bit of the service complex. -/
def serviceBit : Nat := 48
/-- The sharer bit of Nalron port `k`. -/
def portBit (k : Nat) : Nat := 49 + k

/-- The sharer bit of an agent whose caches may keep a copy. -/
def State.sharerBit (s : State) (g : Agent) : Option Nat :=
  match g with
  | .lane f _ =>
    match s.fibres.find? f with
    | none => none
    | some fb => (s.wgs.find? fb.wg).map fun w => clusBit w.die w.core
  | .cluster n => some n
  | .service _ => some serviceBit
  | .peer k _ => some (portBit k)
  | .engine _ _ => none
  | .endpoint _ _ => none

/-- A line after a read copy is given. -/
def Line.readBy (l : Line) (b : Nat) : Line :=
  let others := l.sharers &&& (2 ^ 65 - 1 - 2 ^ b)
  let dir := match l.dir with
    | .m => if others = 0 then Moesi.m else .o
    | .o => .o
    | .s => .s
    | .e => if others = 0 then Moesi.e else .s
    | .i => if others = 0 then Moesi.e else .s
  { l with sharers := l.sharers ||| 2 ^ b, dir }

/-- A line after ownership is given. -/
def Line.ownedBy (l : Line) (b : Nat) : Line := { l with sharers := 2 ^ b, dir := .m }

/-- A line after a write at the home by an agent that keeps no copy. -/
def Line.homeWritten (l : Line) : Line := { l with sharers := 0, dir := .i }

/-- Sharers among bits `b` and up, as their numbers. -/
def bitsFrom (x b n : Nat) : List Nat := (List.range n).filterMap fun i => if x.testBit (b + i) then some (b + i) else none

/-- Nalron port `k`. -/
def State.port (s : State) (k : Nat) : Port := s.ports.getD k Port.start
/-- The state with port `k` replaced. -/
def State.setPort (s : State) (k : Nat) (x : Port) : State := { s with ports := s.ports.put k x }

/-- The ports that are DOWN among those whose acknowledgements are due. -/
def State.downPorts (s : State) (acks : Nat) : List Nat := (List.range 16).filter fun k => acks.testBit (portBit k) && (s.port k).down

/-- The link-failure timer of a port runs from the first DOWN that holds a line (R451). -/
def State.timed (s : State) (k : Nat) : State :=
  let x := s.port k
  s.setPort k { x with since := match x.since with
      | some t => some t
      | none => some s.gtime }

/-- A fan-out of invalidations to the sharers `who` (R440): in HOLD where an acknowledgement is due across a failed
link (R451). -/
def State.fanOut (s : State) (a : Nat) (l : Line) (who : Nat) : State :=
  let down := s.downPorts who
  let s := down.foldl State.timed s
  (bitsFrom who 0 65).foldl (fun s b => s.send (.invalidate a b))
    (s.setLine a { l with acks := who, granted := some .m, hold := !down.isEmpty })

/-! ## What an access at issue finds at a line (log entry 7) -/

/-- What an access at issue finds. -/
inductive Gate where
  | pass
  /-- The line must leave COLLECT, FANOUT or HOLD first. -/
  | wait (s : State)
  deriving DecidableEq, Repr

/-- Collections started on the lines `l`. -/
def State.startCollect (s : State) (l : List Nat) : State :=
  l.foldl (fun s a => match s.lines.find? a with
    | some x => s.setLine a { x with collect := true }
    | none => s) s

/-- The accrue lines, of any grain, that `n` bytes at `a` meet: a page whose grain or attributes the executive changes
has lines of the old grain (R175). -/
def State.accruesIn (s : State) (a n : Nat) : List Nat :=
  (s.lines.filter fun l => l.2.acc.isSome && decide (a < l.1 + l.2.grain) && decide (l.1 < a + n)).map (·.1)

/-- The gate of a line: a busy line is waited for, an accrue line is collected (07 R175), and for a write the copies
behind Nalron ports are invalidated first; copies on the package are invalidated within the access. -/
def State.gate (s : State) (a grain : Nat) (write : Bool) : Gate :=
  let l := s.line a grain
  if l.busy then .wait s
  else if !(s.accruesIn a grain).isEmpty then .wait (s.startCollect (s.accruesIn a grain))
  else if write && !l.locked && decide (l.sharers / 2 ^ 49 ≠ 0) then .wait (s.fanOut a l (l.sharers / 2 ^ 49 * 2 ^ 49))
  else .pass

/-- The accrue lines of a page that an access of another core reclassifies (07 R180, 18 R428). -/
def State.pageAccrues (s : State) (p : Nat) (who : Option (Nat × Nat)) (x : Xl) : List Nat :=
  match touched (s.part p).priven who x.leaf.e with
  | some e =>
    if ebit e 7 then
      let first := alignDown (leafPpn x.leaf.e) (2 ^ x.leaf.bits)
      (s.lines.filter fun l => l.2.acc.isSome && decide (first ≤ l.1) && decide (l.1 < first + 2 ^ x.leaf.bits)).map (·.1)
    else []
  | none => []

/-- The fibres whose writes come before the accesses of fibre `f` in program order, each with the name below which
they do: `f` itself, and those it descends from up to the spawning (04 R87). -/
def State.lineage (s : State) : Nat → Nat → Nat → List (Nat × Nat)
  | 0, f, n => [(f, n)]
  | k + 1, f, n => (f, n) :: match (s.fibres.find? f).bind Fibre.parent with
    | some p => s.lineage k p f
    | none => []

/-- The lineage of fibre `f` now. -/
def State.before (s : State) (f : Nat) : List (Nat × Nat) := s.lineage 16 f s.nextId

/-- Whether a held write is one of those of a lineage. -/
def Waiting.among (x : Waiting) (l : List (Nat × Nat)) : Bool :=
  match x.req.agent with
  | .lane g _ => l.any fun p => decide (g = p.1) && decide (x.id < p.2)
  | _ => false

/-- Whether a command is one of those of a lineage. -/
def Cmd.among (c : Cmd) (id : Nat) (l : List (Nat × Nat)) : Bool :=
  l.any fun p => decide (c.fib = some p.1) && decide (id < p.2)

/-- Whether a write of a lineage to line `a` is held there, or on its way to its execution point. -/
def State.writeAmong (s : State) (l : List (Nat × Nat)) (a : Nat) : Bool :=
  ((s.line a 32).held.any fun x => x.among l)
  || s.cmds.any fun p => p.2.among p.1 l && match p.2.body with
    | .far ops => ops.any fun o => decide (alignDown o.pa o.grain = a)
    | _ => false

/-- Whether an earlier write of fibre `f` to line `a` is held there, or on its way to its execution point (12 R298,
04 R87, log entry 12). -/
def State.ownWrite (s : State) (f a : Nat) : Bool := s.writeAmong (s.before f) a

/-- The names of the earlier writes of fibre `f` that are not performed yet. -/
def State.outNames (s : State) (f : Nat) : List Nat :=
  let l := s.before f
  (s.lines.flatMap fun x => (x.2.held.filter fun y => y.among l).map Waiting.id)
  ++ (s.cmds.filter fun p => p.2.among p.1 l && match p.2.body with
    | .far _ => true
    | _ => false).map (·.1)

/-- Whether any earlier write of fibre `f` is not performed yet: what a release waits for (log entry 12). -/
def State.writesOut (s : State) (f : Nat) : Bool := !(s.outNames f).isEmpty

/-- Whether a write of one of the given names is not performed yet. -/
def State.stillOut (s : State) (ids : List Nat) : Bool :=
  (s.lines.any fun l => l.2.held.any fun x => ids.contains x.id) || s.cmds.any fun p => ids.contains p.1

/-! ## Answers to a lane's atomic -/

/-- A lane's value placed in a pending destination. -/
def putLane (dst : List (RegRef × WVal)) (lane old : Nat) : List (RegRef × WVal) :=
  dst.mapIdx fun i d =>
    match d with
    | (r, .v (.gen v)) => (r, .v (.gen (v.set lane (BitVec.ofNat 32 (old / 2 ^ (32 * i))))))
    | d => d

/-- The old value of a lane's held atomic given to the pending result that waits for it (12 R306). -/
def State.giveLane (s : State) (f id lane old : Nat) : State :=
  s.modFib f fun fb =>
    { fb with pend := fb.pend.map fun p =>
        if p.id = id then { p with dst := putLane p.dst lane old, left := p.left - 1, st := if p.left = 1 then .ready else p.st }
        else p }

/-- The old value of a service core's held AMO given to its register. -/
def State.giveService (s : State) (n id old : Nat) : State :=
  match s.scs.find? n with
  | none => s
  | some x => match x.await with
    | some w =>
      if w.id = id then
        let v : Levee := ⟨(extend (8 * w.size) true (old % 2 ^ (8 * w.size))).setWidth 128, false⟩
        { s with scs := s.scs.put n { x with x := if w.d = 0 then x.x else x.x.put w.d.toNat v, await := none } }
      else s
    | none => s

/-! ## Requests performed at their home -/

/-- The pending result `id` of fibre `f` that uncorrectable data leaves unwritten (08 R205). -/
def State.poisonPend (s : State) (f id : Nat) (a : Word) : State :=
  s.modFib f fun fb => { fb with pend := fb.pend.map fun p => if p.id = id then { p with st := .poison a } else p }

/-- The error of an engine's write that its home refuses (13 R331, 21 R478). -/
def State.engineRefused (s : State) (c k : Nat) (a : Word) : State :=
  s.modCmd c fun x =>
    { x with
      err := match x.err with | some e => some e | none => some (.eccunc, a)
      body := match x.body with
        | .flume y => .flume { y with failed := y.failed ++ [k] }
        | b => b }

/-- A command that completes: its error goes to its fibre, its counter decreases, and nothing of it is left. -/
def State.completeCmd (s : State) (cmd : Nat) (c : Cmd) : State :=
  let s := match c.fib, c.ctr, c.err with
    | some f, some k, some (cause, addr) =>
      s.modFib f fun fb =>
        { fb with errs := fb.errs ++ [({ ctr := k, id := cmd, batch := c.batch?.getD 0, cause, addr } : EngErr)] }
    | _, _, _ => s
  let s := match c.fib, c.ctr with
    | some f, some k => if s.past.any fun r => r.vis.contains (.engine cmd) then
        s.modFib f fun fb => { fb with finished := fb.finished ++ [(k, c.batch?.getD 0, cmd)] } else s
    | _, _ => s
  let s := s.modPart (match s.wgs.find? c.wg with | some w => w.part | none => 0) fun x =>
    { x with tokens := x.tokens.filter fun t => decide (t.cmd ≠ cmd) }
  { s with cmds := s.cmds.del cmd }

/-- A command with its first error recorded. -/
def Cmd.failing (c : Cmd) (cause : Cause) (addr : Word) : Cmd :=
  { c with err := match c.err with | some e => some e | none => some (cause, addr) }

/-- One lane of a far command performed, or failed with an error; the command completes with its last lane (12 R305,
R309). -/
def State.farDone (s : State) (cmd lane : Nat) (err : Option (Cause × Word)) : State :=
  match s.cmds.find? cmd with
  | none => s
  | some c =>
    let c := match err with
      | some (k, a) => c.failing k a
      | none => c
    match c.body with
    | .far ops =>
      let ops := ops.filter fun o => decide (o.lane ≠ lane)
      if ops.isEmpty then s.completeCmd cmd c else s.setCmd cmd { c with body := .far ops }
    | _ => s

/-- Whose view a request at a home has: far operations are the fibre's own writes (R305, R309). -/
def State.viewerOf (s : State) (g : Agent) : Viewer :=
  match g with
  | .lane f _ => .fibre f
  | .engine c _ => match s.cmds.find? c with
    | some x => (match x.body, x.fib with
      | .far _, some f => .fibre f
      | _, _ => .engine c)
    | none => .engine c
  | .service n => .service n
  | .endpoint p _ => .endpoint p
  | .cluster n => .engine n
  | .peer _ c => .chip c

/-- What the read of an atomic would acquire, kept until a FENCE.acq at its scope (04 R95). -/
def Fibre.owe (fb : Fibre) (sc : Scope) (ids : List Nat) : Fibre :=
  if ids.isEmpty then fb
  else { fb with acqIds := match fb.acqIds.find? fun x => x.1 == sc with
      | some x => (sc, x.2 ++ ids) :: fb.acqIds.filter fun x => x.1 != sc
      | none => (sc, ids) :: fb.acqIds }

/-- What an atomic read by viewer `v` of the objects that `sel` selects acquires (04 R96): an acquire takes what the
releases it reads cover; another atomic read owes it to a later fence. -/
def State.readsOf (s : State) (v : Viewer) (i : Issue) (sel : RelObj → Bool) : State :=
  match i.read with
  | none => s
  | some (sc, acq) =>
    let ids := s.idsFrom v sc sel
    if acq then s.learn v ids
    else match v with
      | .fibre f => s.modFib f fun fb => fb.owe sc ids
      | .service k => match s.scs.find? k with
        | some x => { s with scs := s.scs.put k { x with acqIds := x.acqIds ++ ids } }
        | none => s
      | _ => s

/-- The order of an atomic read of `n` bytes at `a` by viewer `v` (04 R93). -/
def State.atomReads (s : State) (v : Viewer) (i : Issue) (a n : Nat) : State :=
  (s.sawNewest v a n).readsOf v i fun o => o.meets a n

/-- The old value of a lane of a far command given to the pending result that waits for it (12 R302). -/
def State.farOld (s : State) (cmd lane old : Nat) : State :=
  match s.cmds.find? cmd with
  | some c => match c.fib, c.back with
    | some f, some id => s.giveLane f id lane old
    | _, _ => s
  | none => s

/-- The pending result of a far command left unwritten for uncorrectable data. -/
def State.farPoison (s : State) (cmd : Nat) (a : Word) : State :=
  match s.cmds.find? cmd with
  | some c => match c.fib, c.back with
    | some f, some id => s.poisonPend f id a
    | _, _ => s
  | none => s

/-- A request performed at its home: the state, and the value it read; none where uncorrectable or lost data refuses
it (21 R478). -/
def State.perform (s : State) (r : HomeReq) (back : Option Nat) (i : Issue) : State × Option Nat :=
  let v := s.viewerOf r.agent
  let s := if r.count then match s.counterOf r.part r.pa with
    | some c => s.countUp r.part c r.pa
    | none => s
    else s
  match r.kind with
  | .load n => if s.dead r.pa n then (s.retireFrame r.pa (memSource r.pa), none) else (s, some (s.mem.read r.pa n))
  | .store l =>
    if s.refuses r.pa l.length then
      (match r.agent with
        | .engine c k => (s.retireFrame r.pa (memSource r.pa)).engineRefused c k r.va
        | _ => s.retireFrame r.pa (memSource r.pa), none)
    else (s.homeStore v r.va i r.pa l r.narrow false, some 0)
  | .atom p w d c =>
    if s.dead r.pa w.bytes then
      let s := s.retireFrame r.pa (memSource r.pa)
      (match r.agent, back with
        | .lane f _, some id => s.poisonPend f id r.va
        | .service n, some id => s.giveService n id 0
        | .engine c l, _ => (s.farPoison c r.va).farDone c l (some (.eccunc, r.va))
        | _, _ => s, none)
    else
      let old := s.mem.read r.pa w.bytes
      let s := if p.reads then s.atomReads v i r.pa w.bytes else s
      let s := match atomNew p w old c d with
        | some x => s.homeStore v r.va i r.pa (toLe x w.bytes) false p.reads
        | none => s
      let s := match r.agent, back with
        | .lane f l, some id => s.giveLane f id l old
        | .service n, some id => s.giveService n id old
        | .engine c l, _ => (s.farOld c l old).farDone c l none
        | _, _ => s
      (s, some old)
  | .acr t d =>
    let lost := s.dead r.pa t.size
    let s := if lost then s.retireFrame r.pa (memSource r.pa) else (s.mergeHome t r.pa d).accrued i
    let s := match r.agent with
      | .engine c l => s.farDone c l (if lost then some (.eccunc, r.va) else none)
      | _ => s
    (s, if lost then none else some 0)
  | .fill _ | .lock _ _ _ _ _ | .unlock _ _ _ _ | .cancel _ _ _ _ => (s, some 0)

/-- What a request's answer carries: the value read, or the line of a fill. -/
def State.answerData (s : State) (r : HomeReq) (x : Nat) : List Byte :=
  match r.kind with
  | .load n => toLe x n
  | .atom _ w _ _ => toLe x w.bytes
  | .fill _ => s.mem.bytes (alignDown r.pa r.grain) r.grain
  | _ => []

/-- The answer to a request of a peer chip or of a cluster's caches. -/
def State.answered (s : State) (r : HomeReq) (x : Option Nat) : State :=
  let go : Bool := match r.agent with
    | .peer _ _ => true
    | .cluster _ => true
    | _ => false
  if go then s.send (match x with
    | some v => .answer r.agent (s.answerData r v)
    | none => .abort r.agent) else s

/-- Writes held at a locked line performed in their order of arrival (07 R187). -/
def State.performHeld (s : State) (a : Nat) : State :=
  match s.lines.find? a with
  | none => s
  | some l =>
    l.held.foldl (fun s x =>
      let r := s.perform x.req x.back x.issue
      r.1.answered x.req r.2) (s.setLine a { l with held := [] })

/-- Whether a held write at some line is of an agent that `p` selects. -/
def State.heldOf (s : State) (p : Agent → Bool) : Bool := s.lines.any fun l => l.2.held.any fun x => p x.req.agent

/-- Bytes a request touches. -/
def reqBytes (r : HomeReq) : Nat :=
  match r.kind with
  | .load n => n
  | .store l => l.length
  | .atom _ w _ _ => w.bytes
  | .acr t _ => t.size
  | .fill _ | .lock _ _ _ _ _ | .unlock _ _ _ _ | .cancel _ _ _ _ => r.grain - r.pa % r.grain

/-! ## Far operations held at a locked line (07 R187) -/

/-- The request of a far operation. -/
def Cmd.farReq (c : Cmd) (s : State) (cmd : Nat) (o : FarOp) : HomeReq :=
  { agent := .engine cmd o.lane, part := match s.wgs.find? c.wg with | some w => w.part | none => 0
    kind := match o.kind with
      | .atom p w x => .atom p w x o.data
      | .bank p w x => .atom p w x o.data
      | .acr t _ => .acr t o.data
    va := o.va, pa := o.pa, grain := o.grain, narrow := false, count := false }

/-- A far operation held at a line that another fibre has locked (07 R187). -/
def State.holdFar (s : State) (a : Nat) (r : HomeReq) (i : Issue) : State :=
  let l := s.line a r.grain
  (s.setLine a { l with held := l.held ++ [{ id := s.nextId, req := r, back := none, issue := i }] }).named

/-- Whether the lock of a line is held by another fibre than that of the command. -/
def Line.heldFrom (l : Line) (c : Cmd) : Bool := l.locked && decide (l.holder ≠ c.fib)

end Sys2Proof.Machine
end

