-- ==== Sys2Proof/Machine/Locks.lean ====
section
/-! DEFINITION. Turnout locks at their home (07 R183 to R193, 21 R472) and the end of a fibre (02 R36, 06 R160). -/

namespace Sys2Proof.Machine

/-! ## The turnout table (21 R470, R472) -/

/-- The home channel of a physical address. -/
def chanOf (pa : Nat) : Nat := (pa / 2 ^ 9 % 512) ^^^ (pa / 2 ^ 18 % 512) ^^^ (pa / 2 ^ 27 % 512)

/-- Entries of a channel's turnout table in use: one for each holder, queued request and abandoned mark (log entry 22). -/
def State.tableUsed (s : State) (g : Nat) : Nat :=
  (s.lines.map fun l => if chanOf l.1 = g then l.2.queue.length + bit l.2.holder.isSome + bit l.2.abandoned else 0).foldl (· + ·) 0

/-- Whether a request for a line finds a free entry. -/
def State.tableRoom (s : State) (a : Nat) : Bool := decide (s.tableUsed (chanOf a) < 1024)

/-! ## Slots -/

/-- Slot `i` of a fibre changed. -/
def Fibre.modSlot (fb : Fibre) (i : Nat) (g : LockSlot → LockSlot) : Fibre :=
  { fb with slots := fb.slots.modify i g }

/-- Slot `i` of a fibre. -/
def Fibre.slot (fb : Fibre) (i : Nat) : LockSlot := fb.slots.getD i LockSlot.empty

/-- The code of a state in LKST (07 R183). -/
def SlotState.code : SlotState → Nat
  | .empty => 0 | .queued => 1 | .granted => 2 | .held => 3 | .done => 4

/-- The code of a status (07 R184). -/
def LockStatus.code : LockStatus → Nat
  | .acquired => 0 | .abandoned => 1 | .timeout => 2 | .deadlock => 3 | .cancelled => 4

/-- LKST of a slot (07 R183). -/
def LockSlot.word (x : LockSlot) : Word :=
  BitVec.ofNat 64 (min x.skips 0xFFFF * 2 ^ 48 + x.weir % 64 * 2 ^ 16 + x.status.code * 256 + x.state.code)

/-! ## Hand-off -/

/-- The lock of line `a` given to a request: every other copy is invalidated, the line is in M at the holder, or at the
home where the holder is absent (07 R189), and the grant is on its way (07 R186). Copies behind Nalron ports are
acknowledged before the grant arrives. -/
def State.grantTo (s : State) (a f slot : Nat) (st : LockStatus) : State :=
  let l := s.line a 32
  let bit? : Option Nat := if s.present f then s.sharerBit (.lane f 0) else (s.guests.find? f).map fun g => portBit g.port
  let keep : Nat := match bit? with
    | some b => 2 ^ b
    | none => 0
  let ports : Nat := l.sharers / 2 ^ 49 * 2 ^ 49
  let due : Nat := ports - (ports &&& keep)
  let l' := { l with holder := some f, abandoned := false, dir := if bit?.isSome then .m else .i, sharers := keep }
  let s := if due = 0 then s.setLine a l' else s.fanOut a l' due
  { s with
    lockMsgs := s.lockMsgs ++ [{ grant := true, line := a, grain := l.grain, fib := f, slot, status := st, limit := none }] }

/-- Whether the fibre of a request is present: a fibre of another chip always is, for the home here. -/
def State.presentFor (s : State) (f : Nat) : Bool := s.present f || (s.guests.find? f).isSome

/-- SKIPS of a queued request. -/
def State.skipsOf (s : State) (r : LockReq) : Nat :=
  match s.fibres.find? r.fib with
  | some fb => (fb.slot r.slot).skips
  | none => 0

/-- PassGrant of R189: the request that the grant reaches, the queue without it, and the SKIPS counted. -/
def State.passGrant (s : State) : Nat → List LockReq → Option LockReq × List LockReq × State
  | 0, q => (q.head?, q.tail, s)
  | _ + 1, [] => (none, [], s)
  | k + 1, h :: t =>
    if s.presentFor h.fib || !(t.any fun r => s.presentFor r.fib) || decide (8 ≤ s.skipsOf h) then (some h, t, s)
    else State.passGrant (s.modFib h.fib fun fb => fb.modSlot h.slot fun x => { x with skips := x.skips + 1 }) k (t ++ [h])

/-- The holder of line `a` gives up the lock: held writes are performed, and the lock passes to the next request with
status `st`, or the line becomes FREE, marked abandoned where `st` is ABANDONED (07 R185, R187, R190). -/
def State.passLock (s : State) (a : Nat) (st : LockStatus) : State :=
  let s := s.performHeld a
  let l := s.line a 32
  let s := match l.holder with
    | some h => { s with guests := s.guests.del h }
    | none => s
  let (r, q, s) := s.passGrant (9 * l.queue.length + 1) l.queue
  match r with
  | some r => (s.setLine a { l with queue := q, holder := none, first := none }).grantTo a r.fib r.slot st
  | none => s.setLine a { l with queue := [], holder := none, first := none, abandoned := decide (st = .abandoned) }

/-- CHIP, DIE, CORE, GANG and LANE of the fibre of a request (R185). -/
def State.rankOf (s : State) (f : Nat) : List Nat :=
  match s.fibres.find? f, s.guests.find? f with
  | some fb, _ => match s.wgs.find? fb.wg with
    | some w => [s.chip, w.die, w.core, (w.gangOf fb.num).getD 0, w.slot fb.num]
    | none => []
  | none, some g => [g.chip, g.die, g.core, g.gang, g.lane]
  | none, none => []

/-- Whether a place comes before another. -/
def rankBelow : List Nat → List Nat → Bool
  | [], _ => false
  | _ :: _, [] => false
  | a :: l, b :: m => decide (a < b) || (decide (a = b) && rankBelow l m)

/-- A request in the queue: behind every request of an earlier moment, and among those of its own moment by its place. -/
def enqueue (r : LockReq) : List LockReq → List LockReq
  | [] => [r]
  | q :: l => if q.moment = r.moment ∧ rankBelow r.rank q.rank then r :: q :: l else q :: enqueue r l

/-- Whether a request that arrives now goes before the one that found the line FREE at this moment: its grant has not
arrived yet (R185). -/
def State.overtakes (s : State) (l : Line) (r : LockReq) : Option LockReq :=
  match l.first with
  | some h => if h.moment = r.moment ∧ rankBelow r.rank h.rank ∧ (s.lockMsgs.any fun m => m.grant && decide (m.fib = h.fib) && decide (m.slot = h.slot))
      then some h else none
  | none => none

/-- A request takes a table entry at its home: a FREE line is HELD by it, else it joins the queue (07 R185). -/
def State.takeEntry (s : State) (m : LockMsg) : State :=
  let l := { s.line m.line m.grain with grain := m.grain }
  let now := match s.fibres.find? m.fib with
    | some fb => match s.wgs.find? fb.wg with
      | some w => s.clkOf w
      | none => 0
    | none => 0
  let r : LockReq :=
    { moment := s.moment, rank := s.rankOf m.fib, fib := m.fib, slot := m.slot, seq := s.nextId, since := now, limit := m.limit, probes := 0 }
  let s := s.named
  if l.holder.isNone then
    (s.setLine m.line { l with first := some r }).grantTo m.line m.fib m.slot (if l.abandoned then .abandoned else .acquired)
  else match s.overtakes l r with
    | some h =>
      let st := ((s.lockMsgs.find? fun x => x.grant && decide (x.fib = h.fib) && decide (x.slot = h.slot)).map LockMsg.status).getD .acquired
      let s := { s with lockMsgs := s.lockMsgs.filter fun x => !(x.grant && decide (x.fib = h.fib) && decide (x.slot = h.slot)) }
      (s.setLine m.line { l with first := some r, queue := enqueue h l.queue }).grantTo m.line m.fib m.slot st
    | none => s.setLine m.line { l with queue := enqueue r l.queue }

/-- A lock request at a line whose state admits it: it takes a table entry, or waits for one (R185, 21 R472). -/
def State.lockArrives (s : State) (m : LockMsg) : State :=
  let s := { s with lockMsgs := s.lockMsgs.erase m }
  if s.tableRoom m.line then s.takeEntry m else { s with tableWait := s.tableWait ++ [m] }

/-- A queued request removed. -/
def Line.without (l : Line) (f slot : Nat) : Line :=
  { l with queue := l.queue.filter fun r => !(decide (r.fib = f) && decide (r.slot = slot)) }

/-- A queued request that ends without its lock: its slot is DONE with the status, and its weir receives an arrival
with e = 1 (07 R184, R191, R193). -/
def State.failRequest (s : State) (a f slot : Nat) (st : LockStatus) : State :=
  let s := s.setLine a ((s.line a 32).without f slot)
  match s.fibres.find? f with
  | none => match s.guests.find? f with
    | some g => { s.send (.lockAnswer g st) with guests := s.guests.del f }
    | none => s
  | some fb =>
    let s := s.setFib f (fb.modSlot slot fun x => { x with state := .done, status := st })
    s.countWeir fb.wg (fb.slot slot).weir 1 0 true

/-- The messages of a fibre's slot, other than those of `f` and `slot`. -/
def otherMsg (f slot : Nat) (m : LockMsg) : Bool := !(decide (m.fib = f) && decide (m.slot = slot))

/-- A grant arrival counted on the requester's weir (07 R184, R186): the slot is GRANTED with the phase it counts in. -/
def State.arriveGrant (s : State) (m : LockMsg) : State :=
  let s := { s with lockMsgs := s.lockMsgs.erase m }
  match s.fibres.find? m.fib with
  | none => match s.guests.find? m.fib with
    | some g => s.send (.lockAnswer g m.status)
    | none => s
  | some fb =>
    match s.wgs.find? fb.wg with
    | none => s
    | some w =>
      let i := (fb.slot m.slot).weir
      let s := s.setFib m.fib (fb.modSlot m.slot fun x =>
        { x with state := .granted, status := m.status, phase := some (w.weir i).phase })
      (s.bumpWg w 0x12 1).countWeir fb.wg i 1 0 (decide (m.status ≠ .acquired))

/-- The locks held and asked for by fibres of chip `c` once it is severed (07 R190): as at a kill. -/
def State.severLocks (s : State) (c : Nat) : State :=
  (s.guests.filter fun g => decide (g.2.chip = c)).foldl (fun s g =>
    let s := { s with lockMsgs := s.lockMsgs.filter fun m => decide (m.fib ≠ g.1)
                      tableWait := s.tableWait.filter fun m => decide (m.fib ≠ g.1) }
    let s := if (s.line g.2.line 32).holder = some g.1 then s.passLock g.2.line .abandoned
      else s.setLine g.2.line ((s.line g.2.line 32).without g.1 0)
    { s with guests := s.guests.del g.1 }) s

/-! ## The end of a fibre -/

/-- The locks and requests of a fibre that ends (07 R190). -/
def State.endLocks (s : State) (f : Nat) (fb : Fibre) : State :=
  let s := { s with lockMsgs := s.lockMsgs.filter fun m => decide (m.fib ≠ f)
                    tableWait := s.tableWait.filter fun m => decide (m.fib ≠ f) }
  (List.range 4).foldl (fun s i =>
    let x := fb.slot i
    if x.busy then
      if (s.line x.line 32).holder = some f then s.passLock x.line .abandoned
      else s.setLine x.line ((s.line x.line 32).without f i)
    else s) s

/-- The physical tile that a command is bound to. -/
def CmdBody.tile? : CmdBody → Option Nat
  | .mxrun c => some c.tile
  | .drain c => some c.tile
  | .mxzero t => some t
  | .mxstat t => some t
  | _ => none

/-- Whether a command of the workgroup is bound to a physical tile. -/
def State.tileBusy (s : State) (w t : Nat) : Bool :=
  s.cmds.any fun p => decide (p.2.wg = w) && decide (p.2.body.tile? = some t)

/-- A tile whose name is taken away: RETIRING while commands are bound to it, else FREE (06 R160). -/
def State.leaveTile (s : State) (w t : Nat) : State :=
  s.modWg w fun g =>
    { g with tiles := if s.tileBusy w t then g.tiles.put t { g.tiles.getD t Tile.free with st := .retiring } else g.tiles.put t Tile.free }

/-- A RETIRING tile to which no command is bound any more becomes FREE (06 R160). -/
def State.freeTiles (s : State) (w : Nat) : State :=
  s.modWg w fun g =>
    { g with tiles := g.tiles.mapVal fun t x => if x.st = .retiring && !s.tileBusy w t then Tile.free else x }

/-- A fibre ends (02 R36, 10 R244): its locks pass, its tiles leave it, its pending results and upcalls are dropped,
its children take its parent, and the holds that waited for it end. -/
def State.endFibre (s : State) (f : Nat) : State :=
  match s.fibres.find? f with
  | none => s
  | some fb =>
    let s := s.endLocks f fb
    let s := fb.tiles.foldl (fun s t => s.leaveTile fb.wg t.2) s
    let fb := { fb with pend := [], wins := [], upcalls := [], tiles := [], await := .none, stop := none, target := none
                        heldAt := none, slots := List.replicate 4 LockSlot.empty }
    let s := s.orphan f fb
    match s.wgs.find? fb.wg with
    | some w => s.unhold w fb
    | none => s

end Sys2Proof.Machine
end

