-- ==== Sys2Proof/Machine/Access.lean ====
section
/-! DEFINITION. The checks and effects that the memory instructions share: the order of checks of 12 R291, the stall on
write-block (18 R434), the gates of the lines (log entry 7), loads, stores and atomics of a lane, private addresses
(02 R45, R46), and the scratchpad's scoreboard and presence (04 R102, R103, 05 R135). -/

namespace Sys2Proof.Machine

/-- One access of a lane: where it goes, and the address that a trap reports. -/
structure Acc where
  lane : Nat
  va   : Word
  info : Word
  deriving DecidableEq, Repr

/-- A translated access of a lane. -/
structure AccX where
  acc : Acc
  x   : Xl
  deriving DecidableEq, Repr

/-- Index and element pairs. -/
def indexed {α : Type} (l : List α) : List (Nat × α) := (List.range l.length).zip l

/-! ## Global accesses -/

/-- The severed window that an access meets (19 R452). -/
def State.severedAt (s : State) (p : Nat) (va : Word) (n : Nat) : Option Nat :=
  match s.leafOf p va n with
  | none => none
  | some l => match s.place p (l.pa va) with
    | .severed k => some k
    | _ => none

/-- The trap of a failed translation. -/
def Cx.xlateTrap (c : Cx) (k : Cause) (a : Acc) (n : Nat) : Res :=
  match k, c.s.severedAt c.w.part a.va n with
  | .cohlost, some w => .trap (c.s.countLost w) k a.info 0 c.fb.errs
  | _, _ => c.trap k a.info

/-- Whether a write of the fibre waits for an invalidation to complete (18 R434). -/
def Cx.shut (c : Cx) : Bool :=
  (c.s.part c.w.part).stalls.any fun x => x.shut && match x.who with
    | .lane f _ => decide (f = c.f)
    | _ => false

/-- Whether an earlier acquire or FENCE.ar of the fibre still holds back its accesses (12 R303, 04 R95). -/
def Cx.acquiring (c : Cx) : Bool :=
  (c.fb.acqHeld.any fun id => c.fb.pend.any fun p => decide (p.id = id) && p.st == .await) || c.s.stillOut c.fb.arHeld

/-- A write of `who` stalls on write-block, from its first stall on. -/
def State.stall (s : State) (p : Nat) (who : Agent) (va info : Word) : State :=
  s.modPart p fun x =>
    let since := match List.find? (fun y : Stall => decide (y.who = who)) x.stalls with
      | some y => y.since
      | none => s.gtime
    { x with stalls := { who, va, info, since, shut := true } :: x.stalls.filter fun y => !decide (y.who = who) }

/-- Checks 1 to 5 of R291 over the accesses of an instruction, `align` the alignment: the translated accesses, or the
trap or wait. The first is asked of global accesses only, `bar` (R299). -/
def Cx.translate (c : Cx) (k : AccKind) (align : Nat) (l : List Acc) (bar : Bool := true) : Except Res (List AccX) :=
  if c.acquiring || (k.writes && c.shut) then .error (c.wait .interlock)
  else
    let x (i : Nat) (a : Acc) : Except Cause Xl := c.s.xlate c.w.part k a.va (c.s.free + i)
    let barred := (indexed l).findSome? fun p => match x p.1 p.2 with
      | .ok y => if bar && c.versioned && k.writes && y.away then some p.2 else none
      | .error _ => none
    match barred with
    | some a => .error (c.trap .versioned a.info)
    | none =>
      match l.find? fun a => decide (a.info.toNat % align ≠ 0) with
      | some a => .error (c.trap .misalign a.info)
      | none =>
        match l.find? fun a => !canonical a.va with
        | some a => .error (c.trap .xlate a.info)
        | none =>
          match (indexed l).findSome? fun p => match x p.1 p.2 with
            | .ok _ => none
            | .error e => some (e, p.2, c.s.free + p.1) with
          | some (e, a, n) => .error (c.xlateTrap e a n)
          | none =>
            let ys := (indexed l).filterMap fun p => match x p.1 p.2 with
              | .ok y => some { acc := p.2, x := y : AccX }
              | .error _ => none
            if k.writes then
              match ys.find? fun y => ebit y.x.leaf.e 11 with
              | some y => .error (.wait (c.s.stall c.w.part (.lane c.f y.acc.lane) y.acc.va y.acc.info) .interlock)
              | none => .ok ys
            else .ok ys

/-- What the lines of the accesses ask for first (log entry 7): none where all can be accessed, else the state in which
the fibre waits. -/
def Cx.gates (c : Cx) (write : Bool) (l : List AccX) : Option State :=
  if l.any fun y => c.s.ownWrite c.f y.x.line then some c.s
  else
    match l.find? fun y => !(c.s.pageAccrues c.w.part (some (c.w.die, c.w.core)) y.x).isEmpty with
    | some y => some (c.s.startCollect (c.s.pageAccrues c.w.part (some (c.w.die, c.w.core)) y.x))
    | none => l.findSome? fun y => match c.s.gate y.x.line y.x.grain write with
      | .wait s => some s
      | .pass => none

/-- The state after the translations of the accesses are used. -/
def State.usedAll (s : State) (w : Wg) (l : List AccX) (atHome : Bool) : State :=
  l.foldl (fun s y => s.accessed w y.x atHome) s

/-- Whether a page's lines are cached by the core under the directory: CPOL 0 and shared. -/
def Xl.directed (x : Xl) : Bool := decide (leafCpol x.leaf.e = 0) && ebit x.leaf.e 7

/-- The directory after a copy of the line is given to the core. -/
def State.readCopy (s : State) (w : Wg) (x : Xl) : State :=
  if x.directed then
    let l := s.line x.line x.grain
    let l' := l.readBy (clusBit w.die w.core)
    if l' = l then s else s.setLine x.line l'
  else s

/-- The directory after the core writes the line. -/
def State.ownCopy (s : State) (w : Wg) (x : Xl) : State :=
  let l := s.line x.line x.grain
  let l' := if x.directed then l.ownedBy (clusBit w.die w.core) else l.homeWritten
  if l' = l then s else s.setLine x.line l'

/-- The version that the workgroup's accesses read through, as it stands in `s`. -/
def Cx.versionIn (c : Cx) (s : State) : Option Version :=
  if c.versioned then (s.wgs.find? c.fb.wg).bind Wg.version else none

/-- A global read of the workgroup: the value, and the state after it (04 R97). -/
def Cx.readBytes (c : Cx) (s : State) (y : AccX) (n : Nat) : Nat × State :=
  let r := s.look (.fibre c.f) y.x.pa n
  (leNat (overlay (c.versionIn s) y.x.pa r.1), r.2)

/-- The values of the global reads of an instruction by access, in program order (04 R87). -/
def Cx.readAll (c : Cx) (n : Nat) : State → List AccX → List (Acc × Nat) × State
  | s, [] => ([], s)
  | s, y :: l =>
    let r := c.readBytes s y n
    let t := c.readAll n r.2 l
    ((y.acc, r.1) :: t.1, t.2)

/-- How the fibre issues a plain write of `n` bytes at `va`: with the bindings that hold it now (04 R98). -/
def Cx.issueAt (c : Cx) (va : Word) (n : Nat) : Issue :=
  { Issue.plain with wg := some c.fb.wg, binds := c.w.bindsAt va.toNat n }

/-- The first access that meets uncorrectable data. -/
def State.deadAcc (s : State) (n : Nat) (l : List AccX) : Option AccX := l.find? fun y => s.dead y.x.pa n

/-- A store or atomic of a fibre that the home holds at a locked line (07 R187). -/
def State.holdWrite (s : State) (w : Wg) (y : AccX) (f : Nat) (kind : ReqKind) (back : Option Nat) (i : Issue) : State :=
  let l := s.line y.x.line y.x.grain
  let req : HomeReq :=
    { agent := .lane f y.acc.lane, part := w.part, kind, va := y.acc.info, pa := y.x.pa, grain := y.x.grain, narrow := ebit y.x.leaf.e 10, count := false }
  (s.setLine y.x.line { l with held := l.held ++ [{ id := s.nextId, req, back, issue := i }] }).named

/-- Whether the fibre's write to a line is held there: the line is locked by another. -/
def State.heldAway (s : State) (f : Nat) (y : AccX) : Bool :=
  match (s.line y.x.line y.x.grain).holder with
  | some h => decide (h ≠ f)
  | none => false

/-- A lane's store performed, or held at a locked line. -/
def Cx.store (c : Cx) (s : State) (y : AccX) (l : List Byte) : State :=
  if c.versioned then s.versionStore c.fb.wg y.x.pa l (ebit y.x.leaf.e 10)
  else if s.heldAway c.f y then s.holdWrite c.w y c.f (.store l) none (c.issueAt y.acc.va l.length)
  else (s.homeStore (.fibre c.f) y.acc.va (c.issueAt y.acc.va l.length) y.x.pa l (ebit y.x.leaf.e 10) false).ownCopy c.w y.x

/-! ## Private bytes in L1 (02 R47) -/

/-- The lane of the workgroup, WF1 × W + lane, to whose private region a global address belongs (02 R45). -/
def Wg.privLane (w : Wg) (lanes : Nat) (va : Word) : Option Nat :=
  if w.pbase ≤ va.toNat then some ((va.toNat - w.pbase) / 4 % lanes) else none

/-- The private bytes among `n` at `pa` written back where `own` selects their lane: its global accesses are ordered
with its private ones (04 R87). -/
def State.privBack (s : State) (v : Viewer) (wg : Nat) (own : Nat → Bool) (lanes : Nat) (va : Word) (pa n : Nat) : State :=
  match s.wgs.find? wg with
  | none => s
  | some w =>
    if w.priv.isEmpty || !((w.privLane lanes va).any own) then s
    else
      let s := (List.range n).foldl (fun s i => match w.priv.find? (pa + i) with
        | some b => match w.version with
          | some _ => s.versionStore wg (pa + i) [b] false
          | none => s.homeStore v (va + BitVec.ofNat 64 i) Issue.plain (pa + i) [b] false false
        | none => s) s
      s.modWg wg fun w => { w with priv := w.priv.filter fun p => !(decide (pa ≤ p.1) && decide (p.1 < pa + n)) }

/-- Lanes of the workgroup. -/
def Cx.lanesOfWg (c : Cx) : Nat := c.l.count 1 * c.width

/-- The state in which the fibre's global accesses are made: each lane's own private bytes are written back first. -/
def Cx.global (c : Cx) (s : State) (n : Nat) (l : List AccX) : State :=
  l.foldl (fun s y =>
    s.privBack (.fibre c.f) c.fb.wg (fun k => decide (k = c.fb.num * c.width + y.acc.lane)) c.lanesOfWg y.acc.va y.x.pa n) s

/-- The stores of an instruction: the checks of R291 and R299 to the end, then every lane in order. -/
def Cx.stores (c : Cx) (size : Nat) (l : List Acc) (data : Acc → Nat) : Res :=
  match c.translate (.store size) size l with
  | .error r => r
  | .ok ys =>
    if c.versioned then
      match c.gates false ys, ys.find? fun y => c.s.versionFull c.w y.x.pa with
      | some s, _ => .wait s .interlock
      | none, some _ => c.trap .versioned 1
      | none, none => .ok (ys.foldl (fun s y => c.store s y (toLe (data y.acc) size))
          (c.global ((c.s.unstall c.w.part c.f).usedAll c.w ys false) size ys))
    else match c.gates true ys with
      | some s => .wait s .interlock
      | none =>
        match ys.find? fun y => !c.s.heldAway c.f y && c.s.refuses y.x.pa size with
        | some y => .trap (c.s.retireFrame y.x.pa (memSource y.x.pa)) .eccunc y.acc.info 0 c.fb.errs
        | none => .ok (ys.foldl (fun s y => c.store s y (toLe (data y.acc) size))
            (c.global ((c.s.unstall c.w.part c.f).usedAll c.w ys false) size ys))

/-- A result with its lookahead, or the deferred or precise ECCUNC of uncorrectable data (08 R205). -/
def Cx.result (c : Cx) (s : State) (look : BitVec 4) (poison : Option AccX) (dst : List (RegRef × WVal)) : Res :=
  match poison with
  | none => .ok (s.writeBack c.f look.toNat dst)
  | some y =>
    if look = 0 then .trap (c.s.retireFrame y.x.pa (memSource y.x.pa)) .eccunc y.acc.info 0 c.fb.errs
    else .ok ((s.retireFrame y.x.pa (memSource y.x.pa)).writeLater c.f look.toNat 0 dst (.poison y.acc.info))

/-- The loads of an instruction: the values by access, for `dst` to place. -/
def Cx.loads (c : Cx) (size : Nat) (l : List Acc) (look : BitVec 4) (dst : (Acc → Nat) → List (RegRef × WVal)) : Res :=
  match c.translate .load size l with
  | .error r => r
  | .ok ys =>
    match c.gates false ys with
    | some s => .wait s .interlock
    | none =>
      let s := ys.foldl (fun s y => s.readCopy c.w y.x) (c.global (c.s.usedAll c.w ys false) size ys)
      let r := c.readAll size s ys
      let val (a : Acc) : Nat := ((r.1.find? fun x => decide (x.1 = a)).map (·.2)).getD 0
      c.result r.2 look (c.s.deadAcc size ys) (dst val)

/-! ## Private memory (02 R45, R46, 12 R290) -/

/-- The global address of a private offset of a lane. -/
def Cx.privAddr (c : Cx) (lane o : Nat) : Word :=
  BitVec.ofNat 64 (c.w.pbase + o / 4 * (4 * c.lanesOfWg) + 4 * (c.fb.num * c.width + lane) + o % 4)

/-- The parts of at most 4 bytes of a private access (R45). -/
def Cx.privParts (c : Cx) (size : Nat) (a : Acc) : List Acc :=
  (List.range (max (size / 4) 1)).map fun i => { a with va := c.privAddr a.lane (a.info.toNat + 4 * i) }

/-- Checks 2 and 3 of R291 on private offsets. -/
def Cx.privBound (c : Cx) (size : Nat) (l : List Acc) : Option Res :=
  match l.find? fun a => decide (a.info.toNat % size ≠ 0) with
  | some a => some (c.trap .misalign a.info)
  | none =>
    match l.find? fun a => decide (a.info.toInt < 0) || decide ((c.l.pcur : Int) < a.info.toInt + size) with
    | some a => some (c.trap (if a.info.toInt < 0 ∨ !c.l.flag 3 then .perm else .stackgrow) a.info)
    | none => none

/-- The parts of all private accesses of an instruction, translated. -/
def Cx.privTranslate (c : Cx) (k : AccKind) (size : Nat) (l : List Acc) : Except Res (List AccX) :=
  match c.privBound size l with
  | some r => .error r
  | none => c.translate k 1 (l.flatMap (c.privParts size)) false

/-- A private read of `n` bytes: what L1 holds over what a global read finds (02 R47). -/
def Cx.privRead (c : Cx) (s : State) (y : AccX) (n : Nat) : List Byte × State :=
  let r := s.look (.fibre c.f) y.x.pa n
  ((overlay (c.versionIn s) y.x.pa r.1).mapIdx fun i b => (c.w.priv.find? (y.x.pa + i)).getD b, r.2)

/-- The bytes of the private reads of an instruction by lane, in program order. -/
def Cx.privReadAll (c : Cx) (n : Nat) : State → List AccX → List (Nat × List Byte) × State
  | s, [] => ([], s)
  | s, y :: l =>
    let r := c.privRead s y n
    let t := c.privReadAll n r.2 l
    ((y.acc.lane, r.1) :: t.1, t.2)

/-- A private write: L1 holds it, and by a free choice writes it back at once (02 R47). -/
def Cx.privStore (c : Cx) (s : State) (y : AccX) (l : List Byte) : State :=
  let b := if ebit y.x.leaf.e 10 then narrowBytes l else l
  let s := s.modWg c.fb.wg fun w => { w with priv := (indexed b).foldl (fun t p => t.put (y.x.pa + p.1) p.2) w.priv }
  (if Config.writesBack s.free && !c.versioned && !s.heldAway c.f y then
    s.homeStore (.fibre c.f) y.acc.va (c.issueAt y.acc.va l.length) y.x.pa b false false else s).drawn

/-- Private loads. -/
def Cx.privLoads (c : Cx) (size : Nat) (l : List Acc) (look : BitVec 4) (dst : (Acc → Nat) → List (RegRef × WVal)) : Res :=
  match c.privTranslate .load size l with
  | .error r => r
  | .ok ys =>
    match c.gates false ys with
    | some s => .wait s .interlock
    | none =>
      let r := c.privReadAll (min size 4) (c.s.usedAll c.w ys false) ys
      let val (a : Acc) : Nat := leNat ((r.1.filter fun x => decide (x.1 = a.lane)).flatMap (·.2))
      c.result r.2 look (c.s.deadAcc (min size 4) ys) (dst val)

/-- Private stores. -/
def Cx.privStores (c : Cx) (size : Nat) (l : List Acc) (data : Acc → Nat) : Res :=
  match c.privTranslate (.store (min size 4)) size l with
  | .error r => r
  | .ok ys =>
    match c.gates true ys with
    | some s => .wait s .interlock
    | none =>
      match ys.find? fun y => c.s.refuses y.x.pa (min size 4) with
      | some y => .trap (c.s.retireFrame y.x.pa (memSource y.x.pa)) .eccunc y.acc.info 0 c.fb.errs
      | none =>
        .ok (l.foldl (fun s a =>
          ((indexed (ys.filter fun y => decide (y.acc.lane = a.lane))).foldl (fun s p =>
            c.privStore s p.2 ((toLe (data a) size).drop (4 * p.1) |>.take (min size 4))) s))
          ((c.s.unstall c.w.part c.f).usedAll c.w ys false))

/-! ## Scratchpad (04 R102, R103, 05 R135, R136) -/

/-- Whether an access of `n` bytes at `a` conflicts with a range. -/
def Rng.clash (r : Rng) (a n : Nat) (write : Bool) : Bool :=
  (write || r.write) && decide (a < r.base + r.len) && decide (r.base < a + n)

/-- Whether a command is an accepted flume copy or fill toward the scratchpad, whose destination parks. -/
def Cmd.parks (c : Cmd) : Bool :=
  match c.body with
  | .flume x => x.accepted && !x.out
  | _ => false

/-- Whether a command is one of far operations, between whose lanes other fibres' accesses may fall (12 R302). -/
def Cmd.isFar (c : Cmd) : Bool :=
  match c.body with
  | .far _ => true
  | _ => false

/-- Whether a fibre's scratchpad access waits for the scoreboard. -/
def State.boarded (s : State) (w a n : Nat) (write : Bool) : Bool :=
  s.cmds.any fun p => decide (p.2.wg = w) && !p.2.isFar && p.2.rngs.any fun r => r.clash a n write && !(p.2.parks && r.write)

/-- Whether a sector that an access touches is ARRIVING. -/
def Wg.arriving (w : Wg) (a n : Nat) : Bool := (sectorsOf a n).any fun k => w.sectors.find? k == some .arriving

/-- The stored cause of a FAILED sector that an access touches. -/
def Wg.failedAt (w : Wg) (a n : Nat) : Option Cause :=
  (sectorsOf a n).findSome? fun k => match w.sectors.find? k with
    | some (.failed c) => some c
    | _ => none

/-- The sectors after a store instruction wrote the ranges `l`: a FAILED sector wholly written is PRESENT. -/
def Wg.heal (w : Wg) (l : List (Nat × Nat)) : Wg :=
  { w with sectors := w.sectors.filter fun p => match p.2 with
      | .failed _ => !(List.range 32).all fun i => l.any fun r => decide (r.1 ≤ 32 * p.1 + i) && decide (32 * p.1 + i < r.1 + r.2)
      | _ => true }

/-- The releases after writes of the ranges `l` of a workgroup's scratchpad (04 R96). -/
def State.spadRels (s : State) (w : Nat) (l : List (Nat × Nat)) (rmw : Bool) : State :=
  if s.rels.isEmpty then s
  else { s with rels := s.rels.map fun r => match r.obj with
      | .spad v o n => if v = w && l.any fun x => decide (x.1 < o + n) && decide (o < x.1 + x.2) then { r with live := rmw } else r
      | _ => r }

/-- Checks of R291 and waits of R298 on scratchpad accesses: none where they take effect. -/
def Cx.spadCheck (c : Cx) (size : Nat) (l : List Acc) (read write : Bool) : Option Res :=
  match l.find? fun a => decide (a.info.toNat % size ≠ 0) with
  | some a => some (c.trap .misalign a.info)
  | none =>
    match l.find? fun a => decide (a.info.toInt < 0) || decide ((c.l.kernel.spad : Int) < a.info.toInt + size) with
    | some a => some (c.trap .spadbound a.info)
    | none =>
      if c.acquiring || l.any fun a => c.s.boarded c.fb.wg a.info.toNat size write then some (c.wait .interlock)
      else if l.any fun a => c.w.arriving a.info.toNat size then some (c.wait .parked)
      else if read then
        l.findSome? fun a => (c.w.failedAt a.info.toNat size).map fun k => c.trap k a.info
      else none

/-- Scratchpad loads. -/
def Cx.spadLoads (c : Cx) (size : Nat) (l : List Acc) (look : BitVec 4) (dst : (Acc → Nat) → List (RegRef × WVal)) : Res :=
  match c.spadCheck size l true false with
  | some r => r
  | none => c.write look.toNat (dst fun a => c.w.spad.read a.info.toNat size)

/-- Scratchpad stores. -/
def Cx.spadStores (c : Cx) (size : Nat) (l : List Acc) (data : Acc → Nat) : Res :=
  match c.spadCheck size l false true with
  | some r => r
  | none =>
    .ok ((c.s.modWg c.fb.wg fun w =>
      ({ w with spad := l.foldl (fun m a => m.write a.info.toNat size (data a)) w.spad } : Wg).heal
        (l.map fun a => (a.info.toNat, size))).spadRels c.fb.wg (l.map fun a => (a.info.toNat, size)) false)

end Sys2Proof.Machine
end

