-- ==== Sys2Proof/Machine/Release.lean ====
section
/-! DEFINITION. Releases and acquires of instructions (04 R94 to R97, 12 R303, R316): what waits, what FENCE leaves to
later accesses, and engine commands as they issue (01 R18). -/

namespace Sys2Proof.Machine

/-- Whether a write at a scope is a release: by its own ordering, or by the mark of an earlier FENCE.rel. -/
def Cx.releases (c : Cx) (ord : Ord) (scope : Scope) : Bool := ord.releases || c.fb.relMark.contains scope

/-- Whether a release waits: an earlier write of the fibre is not performed yet (log entry 12). -/
def Cx.releaseWaits (c : Cx) : Bool := c.s.writesOut c.f

/-- The fibre after an atomic write at a scope: the mark of FENCE.rel is used up. -/
def Fibre.wroteAt (fb : Fibre) (scope : Scope) : Fibre := { fb with relMark := fb.relMark.filter fun x => x != scope }

/-- The fibre after an atomic read at a scope whose values are in the pending result `id`, or have returned. -/
def Fibre.readAt (fb : Fibre) (scope : Scope) (id : Option Nat) : Fibre :=
  let l := fb.acqSeen.filter fun x => x.1 != scope
  { fb with acqSeen := match id with
      | some id => (scope, id) :: l
      | none => l }

/-- Orderings that acquire. -/
def acquires (o : Ord) : Bool :=
  match o with
  | .acq | .ar => true
  | _ => false

/-- A command of the fibre issued under the name `s.nextId`, counted in `ctr` if at all: it sees what its fibre sees
(04 R101). -/
def Cx.commandIn (c : Cx) (s : State) (ctr : Option Ctr) (rngs : List Rng) (body : CmdBody) (back : Option Nat) (dst : Nat) : State :=
  (s.setCmd s.nextId
    { wg := c.fb.wg, fib := some c.f, ctr, rngs, body, back, dst, err := none, since := s.clkOf c.w, binds := c.w.binds }).named.inherit
    (.engine s.nextId) (.fibre c.f)

/-- A command of the fibre issued under the name `s.nextId`. -/
def Cx.command (c : Cx) (s : State) (ctr : Ctr) (rngs : List Rng) (body : CmdBody) (back : Option Nat) (dst : Nat) : State :=
  c.commandIn s (some ctr) rngs body back dst

/-- A release by the fibre on an object, of the writes before the instruction (04 R97). -/
def Cx.relOn (c : Cx) (sc : Scope) (o : RelObj) : Rel := c.s.relOf (.fibre c.f) sc o true

/-- A release by the fibre, outside VERSIONED workgroups, from which no agent can acquire (04 R112). -/
def Cx.relOf (c : Cx) (sc : Scope) (o : RelObj) : Option Rel := if c.versioned then none else some (c.relOn sc o)

/-- What a FENCE.rel.sys and the fibre's next atomic write at .sys cover, for a later IOST (04 R109); `objs` are the
locations written. -/
def Cx.pairIds (c : Cx) (sc : Scope) (objs : List RelObj) : List Nat :=
  if sc = .sys ∧ c.fb.relMark.contains .sys then objs.flatMap fun o => (c.relOn sc o).ids else []

/-- How one lane's atomic of `n` bytes on an object is issued (12 R303): its release covers no other lane of the
instruction. -/
def Cx.atomIssue (c : Cx) (p : AtomOpr) (ord : Ord) (sc : Scope) (o : RelObj) (va : Word) (n : Nat) : Issue :=
  { c.issueAt va n with
    rel := if p.writes && c.releases ord sc then c.relOf sc o else none
    read := if p.reads then some (sc, acquires ord) else none }

/-- The fibre after an instruction with atomic reads at a scope, whose values are in the pending result `id` or have
returned: a later FENCE.acq pairs with them, and with no earlier read. -/
def Fibre.newRead (fb : Fibre) (scope : Scope) (id : Option Nat) : Fibre :=
  { fb.readAt scope id with acqIds := fb.acqIds.filter fun x => x.1 != scope }

end Sys2Proof.Machine
end

