-- ==== Sys2Proof/Machine/Atomics.lean ====
section
/-! DEFINITION. What ATL, ATG, REDG and ACR share (12 R300 to R309): their operands and accesses, the atomic operation
of one lane at the scratchpad or at issue, and the commands of far operations. -/

namespace Sys2Proof.Machine

/-- The address of lane `l`: Sb plus its offset (R290). -/
def Cx.atomEa (c : Cx) (a : BitVec 8) (b : BitVec 6) (l : Nat) : Acc :=
  let e := eaLane (c.sreg b) (c.fb.vreg a.toNat) 0 l
  { lane := l, va := e, info := e }

/-- The accesses of the active lanes, ascending. -/
def Cx.atomEas (c : Cx) (o : AtomOp) : List Acc := (c.lanes o.m).map (c.atomEa o.a o.b)

/-- The registers of an atomic width. -/
def atomRegs (w : Width) : Nat := regsOf (8 * w.bytes)

/-- Operands of ATL and ATG with operator `p`, in field order. -/
def atomOpnds (p : AtomOpr) (o : AtomOp) : List Opnd :=
  let k := atomRegs o.w
  (match p with
    | .st => []
    | .cas => [⟨.v, o.d.toNat, k, true, true⟩]
    | _ => [vDst o.d.toNat k])
  ++ [vSrc o.a.toNat 1, sSrc o.b]
  ++ (match p with
    | .ld => []
    | _ => [vSrc o.c.toNat k])
  ++ [mSrc o.m]

/-- The operand of a lane. -/
def Cx.atomData (c : Cx) (o : AtomOp) (l : Nat) : Nat := elemW (8 * o.w.bytes) (c.fb.vregs o.c.toNat (atomRegs o.w)) l
/-- The compare value of a lane. -/
def Cx.atomCompare (c : Cx) (o : AtomOp) (l : Nat) : Nat := elemW (8 * o.w.bytes) (c.fb.vregs o.d.toNat (atomRegs o.w)) l

/-- What an operator writes over `old` in a lane. -/
def Cx.atomWrite (c : Cx) (p : AtomOpr) (o : AtomOp) (l old : Nat) : Option Nat :=
  atomNew p o.w old (c.atomData o l) (c.atomCompare o l)

/-- The destination, shape G, from the old values by lane. -/
def Cx.atomDst (c : Cx) (p : AtomOpr) (o : AtomOp) (olds : Tbl Nat) : List (RegRef × WVal) :=
  match p with
  | .st => []
  | _ => writeRegs c.fb c.width (c.act o.m) o.d.toNat (atomRegs o.w) (fun _ => .gen) fun l => olds.getD l 0

/-! ## ATL (R302, R304) -/

/-- What the lanes of an atomic leave: the state, the old values, whether any lane wrote, how many are held, and the
first that met uncorrectable data. -/
structure AtgRun where
  s     : State
  olds  : Tbl Nat
  wrote : Bool
  held  : Nat
  dead  : Option AccX

/-- The far operation of a lane: `va` is the address as issued, `pa` where it is performed. -/
def farOp (kind : FarKind) (lane : Nat) (va : Word) (pa grain : Nat) (issue : Issue) (data : Nat) : FarOp :=
  { lane, issue, va, pa, grain, kind, data }

/-- A far command issued: the lanes whose line another fibre has locked are held there at once (07 R187). -/
def Cx.farIssued (c : Cx) (s : State) (ctr : Option Ctr) (rngs : List Rng) (back : Option Nat) (ops : List FarOp) : State :=
  let t := c.commandIn s ctr rngs (.far ops) back 0
  match t.cmds.find? s.nextId with
  | none => t
  | some x => ops.foldl (fun t o =>
      let a := alignDown o.pa o.grain
      match o.kind with
      | .bank _ _ _ => t
      | _ => if (t.line a o.grain).heldFrom x then t.holdFar a (x.farReq t s.nextId o) o.issue else t) t

/-- The lanes of an atomic whose operations do not follow at once, performed each by its own event in ascending order:
atomics of other agents may fall between (R302). The fibre's later accesses wait for them. -/
def Cx.lanesApart (c : Cx) (s : State) (rngs : List Rng) (back : Option Nat) (ops : List FarOp) : State :=
  if ops.isEmpty then s
  else (c.farIssued s none rngs back ops).modFib c.f fun fb => { fb with arHeld := s.nextId :: fb.arHeld }

/-- What an atomic of the fibre leaves: the marks and reads of its scope, the lanes still to perform, and its result
under the name `id`. -/
def Cx.atomFinish (c : Cx) (p : AtomOpr) (o : AtomOp) (sc : Scope) (id : Nat) (objs : List RelObj) (rngs : List Rng) (rest : List FarOp)
    (r : AtgRun) : Res :=
  let left := r.held + rest.length
  let s := r.s.modFib c.f fun fb =>
    let fb := if r.wrote || (p.writes && !rest.isEmpty) then
        { fb.wroteAt sc with sysIds := fb.sysIds ++ c.pairIds sc objs }
      else fb
    if p.reads && !objs.isEmpty && acquires o.ord && decide (left ≠ 0) then { fb with acqHeld := id :: fb.acqHeld } else fb
  let s := c.lanesApart s rngs (if p = .st then none else some id) rest
  if p = .st then .ok s
  else
    let dst := c.atomDst p o r.olds
    match r.dead with
    | some y =>
      .ok ((s.retireFrame y.x.pa (memSource y.x.pa)).pendAs c.f id o.look.toNat 0 dst (.poison y.acc.info))
    | none =>
      if left = 0 then .ok (s.writeBack c.f o.look.toNat dst)
      else .ok (s.pendAs c.f id o.look.toNat left dst .await)

/-- The state in which the lanes of an atomic begin: with reads, no earlier one at the scope pairs with a FENCE.acq. -/
def Cx.atomStart (c : Cx) (p : AtomOpr) (sc : Scope) (any : Bool) (s : State) : State :=
  (if p.reads && any then s.modFib c.f fun fb => fb.newRead sc (some s.nextId) else s).named

/-- An atomic operation at a scratchpad bank: the state, the old value, and whether it wrote (R304). -/
def State.bankAtom (s : State) (v : Viewer) (w : Nat) (i : Issue) (p : AtomOpr) (wd : Width) (cmp data off : Nat) : State × Nat × Bool :=
  let old := match s.wgs.find? w with
    | some g => g.spad.read off wd.bytes
    | none => 0
  let s := if p.reads then s.readsOf v i fun o => match o with
      | .spad x b m => decide (x = w) && decide (off < b + m) && decide (b < off + wd.bytes)
      | _ => false
    else s
  match atomNew p wd old data cmp with
  | some x =>
    let s := (s.modWg w fun g => { g with spad := g.spad.write off wd.bytes x }).spadRels w [(off, wd.bytes)] p.reads
    (match i.rel with
      | some r => s.released r
      | none => s, old, true)
  | none => (s, old, false)

/-- How a lane's ATL is issued. -/
def Cx.atlIssue (c : Cx) (p : AtomOpr) (o : AtomOp) (a : Acc) : Issue :=
  { c.atomIssue p o.ord .wg (.spad c.fb.wg a.info.toNat o.w.bytes) 0 0 with binds := [] }

/-- One lane of an ATL. -/
def Cx.atlLane (c : Cx) (p : AtomOpr) (o : AtomOp) (r : AtgRun) (a : Acc) : AtgRun :=
  let x := r.s.bankAtom (.fibre c.f) c.fb.wg (c.atlIssue p o a) p o.w (c.atomCompare o a.lane) (c.atomData o a.lane) a.info.toNat
  { r with s := x.1, olds := r.olds.put a.lane x.2.1, wrote := r.wrote || x.2.2 }

/-- The effect of ATL. -/
def Cx.atl (c : Cx) (p : AtomOpr) (o : AtomOp) : Res :=
  let l := c.atomEas o
  match c.spadCheck o.w.bytes l true true with
  | some r => r
  | none =>
    if p.writes && c.releases o.ord .wg && c.releaseWaits then c.wait .interlock
    else
      let k := (c.s.batch.apart).getD l.length
      let r := (l.take k).foldl (c.atlLane p o) ⟨c.atomStart p .wg (!l.isEmpty) c.s, [], false, 0, none⟩
      let rest := (l.drop k).map fun a =>
        farOp (.bank p o.w (c.atomCompare o a.lane)) a.lane a.va a.info.toNat 32 (c.atlIssue p o a) (c.atomData o a.lane)
      c.atomFinish p o .wg c.s.nextId (l.map fun a => .spad c.fb.wg a.info.toNat o.w.bytes)
        ((l.drop k).flatMap fun a => [⟨a.info.toNat, o.w.bytes, false⟩, ⟨a.info.toNat, o.w.bytes, true⟩]) rest r

/-! ## ATG (R302, R303, R306) -/

/-- Whether a scope's execution point is the home (04 R91). -/
def scopeAtHome (sc : Scope) : Bool :=
  match sc with
  | .wg | .cl | .di => false
  | _ => true

/-- How a lane's ATG is issued. -/
def Cx.atgIssue (c : Cx) (p : AtomOpr) (o : AtomOp) (y : AccX) : Issue :=
  c.atomIssue p o.ord o.scope (.loc y.x.pa o.w.bytes) y.acc.va o.w.bytes

/-- A lane's atomic write performed. -/
def Cx.atomStore (c : Cx) (s : State) (y : AccX) (i : Issue) (l : List Byte) (rmw : Bool) : State :=
  if c.versioned then s.versionStore c.fb.wg y.x.pa l false
  else (s.homeStore (.fibre c.f) y.acc.va i y.x.pa l false rmw).ownCopy c.w y.x

/-- One lane of an ATG issued as `i`, whose held result is the pending result `id`. -/
def Cx.atgLane (c : Cx) (p : AtomOpr) (o : AtomOp) (i : AccX → Issue) (id : Nat) (r : AtgRun) (y : AccX) : AtgRun :=
  let n := o.w.bytes
  let l := y.acc.lane
  let i := i y
  if !c.versioned && r.s.heldAway c.f y then
    let req : ReqKind := .atom p o.w (c.atomCompare o l) (c.atomData o l)
    { r with s := r.s.holdWrite c.w y c.f req (if p = .st then none else some id) i, held := r.held + 1, wrote := r.wrote || p.writes }
  else if r.s.dead y.x.pa n && p.reads then { r with dead := match r.dead with | some d => some d | none => some y }
  else
    let v := c.versionIn r.s
    let old := leNat (overlay v y.x.pa (r.s.mem.bytes y.x.pa n))
    let own := v.any fun v => (List.range n).any fun k => (v.cells.find? (y.x.pa + k)).isSome
    let s := if p.reads && !own then r.s.atomReads (.fibre c.f) i y.x.pa n else r.s
    match c.atomWrite p o l old with
    | some x => { r with s := c.atomStore s y i (toLe x n) p.reads, olds := r.olds.put l old, wrote := true }
    | none => { r with s := s.readCopy c.w y.x, olds := r.olds.put l old }

/-- The lanes of an ATG, and its result. -/
def Cx.atgLanes (c : Cx) (p : AtomOpr) (o : AtomOp) (ys : List AccX) : Res :=
  let s := c.global ((c.s.unstall c.w.part c.f).usedAll c.w ys (scopeAtHome o.scope)) o.w.bytes ys
  let k := if c.versioned then ys.length else (c.s.batch.apart).getD ys.length
  let r := (ys.take k).foldl (c.atgLane p o (c.atgIssue p o) s.nextId) ⟨c.atomStart p o.scope (!ys.isEmpty) s, [], false, 0, none⟩
  let rest := (ys.drop k).map fun y =>
    farOp (.atom p o.w (c.atomCompare o y.acc.lane)) y.acc.lane y.acc.info y.x.pa y.x.grain (c.atgIssue p o y) (c.atomData o y.acc.lane)
  c.atomFinish p o o.scope s.nextId (ys.map fun y => .loc y.x.pa o.w.bytes) [] rest r

/-- The effect of ATG. -/
def Cx.atg (c : Cx) (p : AtomOpr) (o : AtomOp) : Res :=
  match c.translate .atomic o.w.bytes (c.atomEas o) with
  | .error r => r
  | .ok ys =>
    match c.gates (p.writes && !c.versioned) ys with
    | some s => .wait s .interlock
    | none =>
      if p.writes && c.releases o.ord o.scope && c.releaseWaits then c.wait .interlock
      else if c.versioned && p.writes && ys.any fun y => c.s.versionFull c.w y.x.pa then c.trap .versioned 1
      else match ys.find? fun y => !c.s.heldAway c.f y && c.s.dead y.x.pa o.w.bytes with
        | some y =>
          if p = .st ∨ o.look = 0 then .trap (c.s.retireFrame y.x.pa (memSource y.x.pa)) .eccunc y.acc.info 0 c.fb.errs
          else c.atgLanes p o ys
        | none => c.atgLanes p o ys

/-! ## REDG and ACR (R305, R307 to R309) -/

/-- A far command over the translated lanes: issued once every earlier write of the fibre to the same lines is
performed, a page that it reclassifies has no accrue line left (07 R180), and as a release once every earlier write
is performed. -/
def Cx.far (c : Cx) (ys : List AccX) (release : Bool) (scope : Scope) (atHome : Bool) (ops : List FarOp) : Res :=
  if (ys.any fun y => c.s.ownWrite c.f y.x.line) || (release && c.releaseWaits) then c.wait .interlock
  else match ys.find? fun y => !(c.s.pageAccrues c.w.part (some (c.w.die, c.w.core)) y.x).isEmpty with
    | some y => .wait (c.s.startCollect (c.s.pageAccrues c.w.part (some (c.w.die, c.w.core)) y.x)) .interlock
    | none =>
      let s := (c.s.unstall c.w.part c.f).usedAll c.w ys atHome
      let s := c.global s 16 ys
      let s := s.modFib c.f fun fb => if ys.isEmpty then fb else
        { fb.wroteAt scope with sysIds := fb.sysIds ++ c.pairIds scope (ys.map fun y => .loc y.x.pa 1) }
      .ok (if ops.isEmpty then s else c.farIssued s (some .oca) [] none ops)

/-- How a lane's REDG is issued: it reads nothing for its fibre. -/
def Cx.redgIssue (c : Cx) (p : AtomOpr) (o : AtomOp) (y : AccX) : Issue := { c.atgIssue p o y with read := none }

/-- The REDG of a VERSIONED workgroup, in its version. -/
def Cx.redgVersion (c : Cx) (p : AtomOpr) (o : AtomOp) (ys : List AccX) : Res :=
  match c.gates false ys with
  | some s => .wait s .interlock
  | none =>
    if ys.any fun y => c.s.versionFull c.w y.x.pa then c.trap .versioned 1
    else
      let s := c.global ((c.s.unstall c.w.part c.f).usedAll c.w ys false) o.w.bytes ys
      let r := ys.foldl (c.atgLane p o (c.redgIssue p o) s.nextId) ⟨(s.modFib c.f fun fb => fb.wroteAt o.scope).named, [], false, 0, none⟩
      .ok (match r.dead with
        | none => r.s
        | some y => (r.s.retireFrame y.x.pa (memSource y.x.pa)).modFib c.f fun fb =>
            { fb with errs := fb.errs ++ [{ ctr := .oca, id := s.nextId, batch := 0, cause := .eccunc, addr := y.acc.info }] })

/-- The effect of REDG. -/
def Cx.redg (c : Cx) (p : AtomOpr) (o : AtomOp) : Res :=
  match c.translate .atomic o.w.bytes (c.atomEas o) with
  | .error r => r
  | .ok ys =>
    if c.versioned then c.redgVersion p o ys
    else
      c.far ys (c.releases o.ord o.scope) o.scope (scopeAtHome o.scope)
        (ys.map fun y => farOp (.atom p o.w 0) y.acc.lane y.acc.info y.x.pa y.x.grain (c.redgIssue p o y) (c.atomData o y.acc.lane))

/-- Operands of REDG. -/
def redgOpnds (o : AtomOp) : List Opnd := [vSrc o.a.toNat 1, sSrc o.b, vSrc o.c.toNat (atomRegs o.w), mSrc o.m]

/-- Operands of ACR. -/
def acrOpnds (o : AcrOp) : List Opnd := [vSrc o.d.toNat (regsOf (8 * o.w.bytes)), vSrc o.a.toNat 1, sSrc o.b, mSrc o.m]

/-- The data of a lane's ACR. -/
def Cx.acrOperand (c : Cx) (t : AcrTag) (o : AcrOp) (l : Nat) : Nat :=
  acrData t o.w (elemOf (c.fb.vregs o.d.toNat (regsOf (8 * o.w.bytes))) l) o.scale

/-- The effect of ACR. In a VERSIONED workgroup it is barred where a lane is active (R291, R292). -/
def Cx.acr (c : Cx) (t : AcrTag) (o : AcrOp) : Res :=
  let l := (c.lanes o.m).map (c.atomEa o.a o.b)
  if c.versioned && !l.isEmpty then c.trap .versioned 0
  else match c.translate .accrue t.size l with
    | .error r => r
    | .ok ys =>
      match c.far ys (c.releases .rlx o.scope) o.scope (scopeAtHome o.scope)
        (ys.map fun y => farOp (.acr t (acrNode c.w.die c.w.core o.scope y.x.pa y.x.away)) y.acc.lane y.acc.info y.x.pa y.x.grain
          { c.issueAt y.acc.va t.size with
            rel := if c.releases .rlx o.scope then c.relOf o.scope (.loc y.x.pa t.size) else none }
          (c.acrOperand t o y.acc.lane)) with
      | .ok s => .ok (s.bumpWg c.w 0x11 ys.length)
      | r => r

/-! ## Meanings: ATL -/

/-- R300 to R304: ATL.ld. -/
def execAtlLd (o : AtomOp) (s : State) : Out := issue s (atomOpnds .ld o) fun c => c.atl .ld o

/-- R300 to R304: ATL.st. -/
def execAtlSt (o : AtomOp) (s : State) : Out := issue s (atomOpnds .st o) fun c => c.atl .st o

/-- R300 to R304: ATL.xchg. -/
def execAtlXchg (o : AtomOp) (s : State) : Out := issue s (atomOpnds .xchg o) fun c => c.atl .xchg o

/-- R300 to R304: ATL.cas. -/
def execAtlCas (o : AtomOp) (s : State) : Out := issue s (atomOpnds .cas o) fun c => c.atl .cas o

/-- R300 to R304: ATL.add. -/
def execAtlAdd (o : AtomOp) (s : State) : Out := issue s (atomOpnds .add o) fun c => c.atl .add o

/-- R300 to R304: ATL.and. -/
def execAtlAnd (o : AtomOp) (s : State) : Out := issue s (atomOpnds .and o) fun c => c.atl .and o

/-- R300 to R304: ATL.or. -/
def execAtlOr (o : AtomOp) (s : State) : Out := issue s (atomOpnds .or o) fun c => c.atl .or o

/-- R300 to R304: ATL.xor. -/
def execAtlXor (o : AtomOp) (s : State) : Out := issue s (atomOpnds .xor o) fun c => c.atl .xor o

/-- R300 to R304: ATL.min. -/
def execAtlMin (o : AtomOp) (s : State) : Out := issue s (atomOpnds .min o) fun c => c.atl .min o

/-- R300 to R304: ATL.max. -/
def execAtlMax (o : AtomOp) (s : State) : Out := issue s (atomOpnds .max o) fun c => c.atl .max o

/-- R300 to R304: ATL.fadd. -/
def execAtlFadd (o : AtomOp) (s : State) : Out := issue s (atomOpnds .fadd o) fun c => c.atl .fadd o

/-- R300 to R304: ATL.fmin. -/
def execAtlFmin (o : AtomOp) (s : State) : Out := issue s (atomOpnds .fmin o) fun c => c.atl .fmin o

/-- R300 to R304: ATL.fmax. -/
def execAtlFmax (o : AtomOp) (s : State) : Out := issue s (atomOpnds .fmax o) fun c => c.atl .fmax o

/-! ## ATG -/

/-- R300 to R303, R306: ATG.ld. -/
def execAtgLd (o : AtomOp) (s : State) : Out := issue s (atomOpnds .ld o) fun c => c.atg .ld o

/-- R300 to R303, R306: ATG.st. -/
def execAtgSt (o : AtomOp) (s : State) : Out := issue s (atomOpnds .st o) fun c => c.atg .st o

/-- R300 to R303, R306: ATG.xchg. -/
def execAtgXchg (o : AtomOp) (s : State) : Out := issue s (atomOpnds .xchg o) fun c => c.atg .xchg o

/-- R300 to R303, R306: ATG.cas. -/
def execAtgCas (o : AtomOp) (s : State) : Out := issue s (atomOpnds .cas o) fun c => c.atg .cas o

/-- R300 to R303, R306: ATG.add. -/
def execAtgAdd (o : AtomOp) (s : State) : Out := issue s (atomOpnds .add o) fun c => c.atg .add o

/-- R300 to R303, R306: ATG.and. -/
def execAtgAnd (o : AtomOp) (s : State) : Out := issue s (atomOpnds .and o) fun c => c.atg .and o

/-- R300 to R303, R306: ATG.or. -/
def execAtgOr (o : AtomOp) (s : State) : Out := issue s (atomOpnds .or o) fun c => c.atg .or o

/-- R300 to R303, R306: ATG.xor. -/
def execAtgXor (o : AtomOp) (s : State) : Out := issue s (atomOpnds .xor o) fun c => c.atg .xor o

/-- R300 to R303, R306: ATG.min. -/
def execAtgMin (o : AtomOp) (s : State) : Out := issue s (atomOpnds .min o) fun c => c.atg .min o

/-- R300 to R303, R306: ATG.max. -/
def execAtgMax (o : AtomOp) (s : State) : Out := issue s (atomOpnds .max o) fun c => c.atg .max o

/-- R300 to R303, R306: ATG.fadd. -/
def execAtgFadd (o : AtomOp) (s : State) : Out := issue s (atomOpnds .fadd o) fun c => c.atg .fadd o

/-- R300 to R303, R306: ATG.fmin. -/
def execAtgFmin (o : AtomOp) (s : State) : Out := issue s (atomOpnds .fmin o) fun c => c.atg .fmin o

/-- R300 to R303, R306: ATG.fmax. -/
def execAtgFmax (o : AtomOp) (s : State) : Out := issue s (atomOpnds .fmax o) fun c => c.atg .fmax o

/-! ## REDG -/

/-- R305: REDG.add. -/
def execRedgAdd (o : AtomOp) (s : State) : Out := issue s (redgOpnds o) fun c => c.redg .add o

/-- R305: REDG.and. -/
def execRedgAnd (o : AtomOp) (s : State) : Out := issue s (redgOpnds o) fun c => c.redg .and o

/-- R305: REDG.or. -/
def execRedgOr (o : AtomOp) (s : State) : Out := issue s (redgOpnds o) fun c => c.redg .or o

/-- R305: REDG.xor. -/
def execRedgXor (o : AtomOp) (s : State) : Out := issue s (redgOpnds o) fun c => c.redg .xor o

/-- R305: REDG.min. -/
def execRedgMin (o : AtomOp) (s : State) : Out := issue s (redgOpnds o) fun c => c.redg .min o

/-- R305: REDG.max. -/
def execRedgMax (o : AtomOp) (s : State) : Out := issue s (redgOpnds o) fun c => c.redg .max o

/-- R305: REDG.fadd. -/
def execRedgFadd (o : AtomOp) (s : State) : Out := issue s (redgOpnds o) fun c => c.redg .fadd o

/-- R305: REDG.fmin. -/
def execRedgFmin (o : AtomOp) (s : State) : Out := issue s (redgOpnds o) fun c => c.redg .fmin o

/-- R305: REDG.fmax. -/
def execRedgFmax (o : AtomOp) (s : State) : Out := issue s (redgOpnds o) fun c => c.redg .fmax o

/-! ## ACR -/

/-- R307 to R309: ACR.iadd32. -/
def execAcrIadd32 (o : AcrOp) (s : State) : Out := issue s (acrOpnds o) fun c => c.acr .iadd32 o

/-- R307 to R309: ACR.iadd64. -/
def execAcrIadd64 (o : AcrOp) (s : State) : Out := issue s (acrOpnds o) fun c => c.acr .iadd64 o

/-- R307 to R309: ACR.fadd32. -/
def execAcrFadd32 (o : AcrOp) (s : State) : Out := issue s (acrOpnds o) fun c => c.acr .fadd32 o

/-- R307 to R309: ACR.xadd. -/
def execAcrXadd (o : AcrOp) (s : State) : Out := issue s (acrOpnds o) fun c => c.acr .xadd o

/-- R307 to R309: ACR.fmin32. -/
def execAcrFmin32 (o : AcrOp) (s : State) : Out := issue s (acrOpnds o) fun c => c.acr .fmin32 o

/-- R307 to R309: ACR.fmax32. -/
def execAcrFmax32 (o : AcrOp) (s : State) : Out := issue s (acrOpnds o) fun c => c.acr .fmax32 o

/-- R307 to R309: ACR.imins. -/
def execAcrImins (o : AcrOp) (s : State) : Out := issue s (acrOpnds o) fun c => c.acr .imins o

/-- R307 to R309: ACR.iminu. -/
def execAcrIminu (o : AcrOp) (s : State) : Out := issue s (acrOpnds o) fun c => c.acr .iminu o

/-- R307 to R309: ACR.imaxs. -/
def execAcrImaxs (o : AcrOp) (s : State) : Out := issue s (acrOpnds o) fun c => c.acr .imaxs o

/-- R307 to R309: ACR.imaxu. -/
def execAcrImaxu (o : AcrOp) (s : State) : Out := issue s (acrOpnds o) fun c => c.acr .imaxu o

/-- R307 to R309: ACR.or. -/
def execAcrOr (o : AcrOp) (s : State) : Out := issue s (acrOpnds o) fun c => c.acr .or o

/-- R307 to R309: ACR.and. -/
def execAcrAnd (o : AcrOp) (s : State) : Out := issue s (acrOpnds o) fun c => c.acr .and o

/-- R307 to R309: ACR.xor. -/
def execAcrXor (o : AcrOp) (s : State) : Out := issue s (acrOpnds o) fun c => c.acr .xor o

end Sys2Proof.Machine
end

