-- ==== Sys2Proof/Machine/Sha.lean ====
section
/-! DEFINITION. SHA-384 (FIPS 180-4), which digest sets (05 R141, R142), shard checks (20 R468) and measurements
(23 R495) use: eight 64-bit words of state, blocks of 128 bytes. -/

namespace Sys2Proof.Machine

/-- Whether `n` has no divisor from 2 to `n - 1`. -/
def isPrime (n : Nat) : Bool := decide (2 ≤ n) && (List.range (n - 2)).all fun d => decide (n % (d + 2) ≠ 0)

/-- The first 80 primes; the last is 409. -/
def shaPrimes : List Nat := (List.range 410).filter isPrime

/-- The greatest `r` whose `k`-th power is at most `x`, its lowest `b` bits searched above the bits in `r`. -/
def rootBits (k x : Nat) : Nat → Nat → Nat
  | 0, r => r
  | b + 1, r => rootBits k x b (if (r + 2 ^ b) ^ k ≤ x then r + 2 ^ b else r)

/-- The first 64 bits of the fractional part of the `k`-th root of a prime below 512. -/
def rootFraction (k p : Nat) : Word := BitVec.ofNat 64 (rootBits k (p * 2 ^ (64 * k)) 70 0)

/-- The initial hash value: from the square roots of the 9th to the 16th prime. -/
def shaInit : List Word := ((shaPrimes.drop 8).take 8).map (rootFraction 2)

/-- The constants of the 80 rounds: from the cube roots of the primes. -/
def shaRounds : List Word := shaPrimes.map (rootFraction 3)

/-- Rotation right. -/
def rotr (x : Word) (n : Nat) : Word := (x >>> n) ||| (x <<< (64 - n))

/-- The message schedule, newest word first: `n` words after the last 16. -/
def shaSchedule : Nat → List Word → List Word
  | 0, l => l
  | n + 1, l =>
    let a := l.getD 1 0
    let b := l.getD 14 0
    let s0 := rotr b 1 ^^^ rotr b 8 ^^^ (b >>> 7)
    let s1 := rotr a 19 ^^^ rotr a 61 ^^^ (a >>> 6)
    shaSchedule n ((s1 + l.getD 6 0 + s0 + l.getD 15 0) :: l)

/-- One round on the eight working variables. -/
def shaRound (v : List Word) (kw : Word) : List Word :=
  match v with
  | [a, b, c, d, e, f, g, h] =>
    let s1 := rotr e 14 ^^^ rotr e 18 ^^^ rotr e 41
    let ch := (e &&& f) ^^^ (~~~e &&& g)
    let t1 := h + s1 + ch + kw
    let s0 := rotr a 28 ^^^ rotr a 34 ^^^ rotr a 39
    let mj := (a &&& b) ^^^ (a &&& c) ^^^ (b &&& c)
    [t1 + (s0 + mj), a, b, c, d + t1, e, f, g]
  | v => v

/-- The big-endian words of a block. -/
def shaWords : List Byte → List Word
  | a :: b :: c :: d :: e :: f :: g :: h :: l => BitVec.ofNat 64 (beNat [a, b, c, d, e, f, g, h]) :: shaWords l
  | _ => []

/-- The hash state after a block of 128 bytes. -/
def shaBlock (h : List Word) (block : List Byte) : List Word :=
  let w := (shaSchedule 64 (shaWords block).reverse).reverse
  let v := ((w.zip shaRounds).map fun p => p.1 + p.2).foldl shaRound h
  (h.zip v).map fun p => p.1 + p.2

/-- Whole blocks of `l` hashed, at most `k` of them: the state, and the bytes left. -/
def shaBlocks : Nat → List Word → List Byte → List Word × List Byte
  | 0, h, l => (h, l)
  | k + 1, h, l => if l.length < 128 then (h, l) else shaBlocks k (shaBlock h (l.take 128)) (l.drop 128)

/-- A digest set in its initial state (05 R141). -/
def Digest.start : Digest := { hash := shaInit, tail := [], len := 0, stopped := false }

/-- A digest set after more bytes. -/
def Digest.update (d : Digest) (l : List Byte) : Digest :=
  let x := d.tail ++ l
  let (h, t) := shaBlocks (x.length / 128) d.hash x
  { d with hash := h, tail := t, len := d.len + l.length }

/-- The big-endian bytes of a word. -/
def wordBe (x : Word) : List Byte := (toLe x.toNat 8).reverse

/-- The 48-byte digest of a set: the padding applied, the first six words written. -/
def Digest.value (d : Digest) : List Byte :=
  let zeros := (239 - d.tail.length) % 128
  let pad : List Byte := 0x80 :: List.replicate zeros 0 ++ (toLe (8 * d.len) 16).reverse
  let (h, _) := shaBlocks 3 d.hash (d.tail ++ pad)
  (h.take 6).flatMap wordBe

/-- SHA-384 of a byte string. -/
def sha384 (l : List Byte) : List Byte := (Digest.start.update l).value

end Sys2Proof.Machine
end

