-- ==== Sys2Proof/Machine/Sync.lean ====
section
/-! DEFINITION. Meanings of majors 0x1D to 0x1F (12 R310 to R325, 04 R95, R98 to R100, 07 R182 to R192): turnout locks,
binding tables, fences, weirs and the outstanding-operation counters. -/

namespace Sys2Proof.Machine

/-! ## Locks (R310, R311) -/

/-- Translation of a lock's address, with its checks (R311, order 4). -/
def Cx.lockLine (c : Cx) (k : AccKind) (a : Word) : Except Res AccX :=
  match c.translate k 1 [{ lane := 0, va := a, info := a }] with
  | .error r => .error r
  | .ok (y :: _) => .ok y
  | .ok [] => .error (c.wait .interlock)

/-- Slot numbers whose slots satisfy `p`, ascending. -/
def Fibre.slotsWhere (fb : Fibre) (p : LockSlot → Bool) : List Nat := (List.range 4).filter fun i => p (fb.slot i)

/-- R182, R311: LCK. -/
def execLck (o : LckOp) (s : State) : Out :=
  issue s [sDst o.d, sSrc o.a, sSrc o.b] fun c =>
    let b := c.sreg o.b
    let i := (b.extractLsb' 0 6).toNat
    let t := (b.extractLsb' 8 24).toNat
    if c.versioned then c.trap .versioned 0
    else if b.extractLsb' 6 2 ≠ 0 ∨ b.extractLsb' 32 32 ≠ 0 then c.trap .illegal 0
    else if c.l.kernel.nw ≤ i then c.trap .weirbound (BitVec.ofNat 64 i)
    else match c.lockLine .lock (c.sreg o.a) with
      | .error r => r
      | .ok y =>
        let accr := c.s.pageAccrues c.w.part none y.x
        if (c.fb.slotsWhere fun x => x.busy && decide (x.line = y.x.line)) ≠ [] then c.trap .accstate 0
        else if !accr.isEmpty then .wait (c.s.startCollect accr) .interlock
        else match (c.fb.slotsWhere fun x => !x.busy).head? with
          | none => c.trap .locklimit 0
          | some k =>
            let s := (c.s.unstall c.w.part c.f).accessedShared c.w y.x false
            let slot : LockSlot :=
              { state := .queued, status := .acquired, weir := i, skips := 0, line := y.x.line, scope := o.scope
                req := s.nextId, phase := none }
            let s := (s.modFib c.f fun fb => fb.modSlot k fun _ => slot).named
            let m : LockMsg :=
              { grant := false, line := y.x.line, grain := y.x.grain, fib := c.f, slot := k, status := .acquired
                limit := if t = 0 then none else some (t * 256) }
            .ok ({ s with lockMsgs := s.lockMsgs ++ [m] }.writeBack c.f o.look.toNat [(.s o.d.toNat, .s (BitVec.ofNat 64 k))])

/-- The slot of the fibre's latest request for a line (R192). -/
def Fibre.latestFor (fb : Fibre) (line : Nat) : Option Nat :=
  (fb.slotsWhere fun x => x.state != .empty && decide (x.line = line)).foldl (fun b i => match b with
    | none => some i
    | some j => if (fb.slot j).req < (fb.slot i).req then some i else some j) none

/-- A DONE slot whose request LCKCAN cannot answer (R192). -/
def LockSlot.closed (x : LockSlot) : Bool :=
  x.state == .done && (x.status == .acquired || x.status == .abandoned || x.status == .cancelled)

/-- R192, R311: LCKCAN. The fibre keeps its place until LCKCAN_ANSWER. -/
def execLckcan (o : LckcanOp) (s : State) : Out :=
  issue s [sDst o.d, sSrc o.a] fun c =>
    match c.fb.await with
    | .lckcan _ _ _ => c.wait .interlock
    | _ =>
      match c.lockLine .unlock (c.sreg o.a) with
      | .error r => r
      | .ok y =>
        match c.fb.latestFor y.x.line with
        | none => c.trap .accstate 0
        | some k =>
          if (c.fb.slot k).closed then c.trap .accstate 0
          else
            .stay ((c.s.unstall c.w.part c.f).modFib c.f fun fb =>
              { fb with st := .interlock, await := .lckcan o.d.toNat o.look.toNat k })

/-- R188, R311: ULK. It waits for the fibre's writes, which it releases (log entry 12). -/
def execUlk (o : SaScope) (s : State) : Out :=
  issue s [sSrc o.a] fun c =>
    match c.lockLine .unlock (c.sreg o.a) with
    | .error r => r
    | .ok y =>
      match (c.fb.slotsWhere fun x => (x.state == .granted || x.state == .held) && decide (x.line = y.x.line)).head? with
      | none => c.trap .accstate 0
      | some k =>
        if (c.fb.slot k).scope ≠ o.scope then c.trap .accstate 0
        else if c.releaseWaits then c.wait .interlock
        else
          let s := (c.s.unstall c.w.part c.f).accessedShared c.w y.x false
          let s := match c.relOf o.scope (.lock y.x.line) with
            | some r => s.released r
            | none => s
          .ok ((s.modFib c.f fun fb => fb.modSlot k fun x => { x with state := .done }).passLock y.x.line .acquired)

/-! ## Binding (R312 to R315) -/

/-- Whether two ranges of addresses overlap. -/
def overlaps (a n b m : Nat) : Bool := decide (a < b + m) && decide (b < a + n)

/-- The checks of R313, then the new entry. `third` is Sc, 8-byte aligned where `sync`; `weir` the index named. -/
def Cx.bind (c : Cx) (a b : Word) (third : Option Word) (sync : Bool) (weir : Option Nat) (obj : BindObj) : Res :=
  let e := third.getD 0
  if a.toNat % 32 ≠ 0 ∨ b.toNat % 32 ≠ 0 ∨ b.toNat < 32 ∨ 2 ^ 40 < b.toNat then c.trap .misalign a
  else if sync && decide (e.toNat % 8 ≠ 0) then c.trap .misalign e
  else if !canonical a then c.trap .xlate a
  else if !canonical (a + b - 1) then c.trap .xlate (a + b - 1)
  else if !canonical e then c.trap .xlate e
  else match weir.filter fun i => decide (c.l.kernel.nw ≤ i) with
    | some i => c.trap .weirbound (BitVec.ofNat 64 i)
    | none =>
      if c.w.binds.any fun x => overlaps a.toNat b.toNat x.base.toNat x.len then c.trap .accstate a
      else if 16 ≤ c.w.binds.length then c.trap .accstate 0x8000000000000000
      else .ok (c.s.modWg c.fb.wg fun w => { w with binds := w.binds ++ [{ base := a, len := b.toNat, obj }] })

/-- R312, R313: BIND.weir. -/
def execBindWeir (o : BindWOp) (s : State) : Out :=
  issue s [sSrc o.a, sSrc o.b] fun c =>
    c.bind (c.sreg o.a) (c.sreg o.b) none false (some o.w.toNat) (.weir o.w.toNat)

/-- R312, R313: BIND.lock. -/
def execBindLock (o : BindSOp) (s : State) : Out :=
  issue s [sSrc o.c, sSrc o.a, sSrc o.b] fun c =>
    c.bind (c.sreg o.a) (c.sreg o.b) (some (c.sreg o.c)) false none (.lock (c.sreg o.c))

/-- R312, R313: BIND.sync. -/
def execBindSync (o : BindSOp) (s : State) : Out :=
  issue s [sSrc o.c, sSrc o.a, sSrc o.b] fun c =>
    c.bind (c.sreg o.a) (c.sreg o.b) (some (c.sreg o.c)) true none (.sync (c.sreg o.c))

/-- Whether a write of a fibre of workgroup `w` to a bound region is not performed yet, other than at a line that
fibre `f` itself has locked (its own ULK performs those). -/
def State.regionOut (s : State) (f w : Nat) (b : Binding) : Bool :=
  (s.lines.any fun l => decide (l.2.holder ≠ some f) && l.2.held.any fun x => match x.req.agent with
    | .lane _ _ => decide (x.issue.wg = some w) && b.meets x.req.va.toNat (reqBytes x.req)
    | _ => false)
  || s.cmds.any fun p => match p.2.body with
    | .far ops => ops.any fun o => decide ((s.line (alignDown o.pa o.grain) o.grain).holder ≠ some f)
        && decide (o.issue.wg = some w) && b.meets o.va.toNat 16
    | _ => false

/-- A binding of workgroup `w` removed: the writes to its region are unbound, and those of its fibres released at .sys
(04 R100). -/
def State.unbindRegion (s : State) (w : Nat) (b : Binding) : State :=
  let s := s.modWg w fun g => { g with binds := g.binds.filter fun x => x.base != b.base }
  { s with
    past := unbound s.past w b
    lines := s.lines.mapVal fun _ l =>
      { l with held := l.held.map fun (x : Waiting) =>
          { x with issue := x.issue.unbound w x.req.va.toNat (reqBytes x.req) b (match x.req.agent with
              | .lane _ _ => true
              | _ => false) } }
    cmds := s.cmds.mapVal fun _ c => match c.body with
      | .far ops => { c with body := .far (ops.map fun o => { o with issue := o.issue.unbound w o.va.toNat 16 b true }) }
      | _ => if c.wg = w then { c with binds := c.binds.filter fun x => x.base != b.base } else c }

/-- R315, 04 R100: UNBIND, a release at .sys of the writes to the region. It waits for those that are not performed. -/
def execUnbind (o : SaOp) (s : State) : Out :=
  issue s [sSrc o.a] fun c =>
    let a := c.sreg o.a
    match c.w.binds.find? fun x => x.base == a with
    | none => c.trap .accstate a
    | some b => if c.s.regionOut c.f c.fb.wg b then c.wait .interlock else .ok (c.s.unbindRegion c.fb.wg b)

/-! ## Fences (R316) -/

/-- Whether the latest atomic read at a scope has not returned its value. -/
def Cx.readOut (c : Cx) (scope : Scope) : Bool :=
  c.fb.acqSeen.any fun x => x.1 == scope && c.fb.pend.any fun p => decide (p.id = x.2) && p.st == .await

/-- The state after a FENCE.acq: the fibre's latest atomic read at the scope is an acquire (04 R95). -/
def Cx.acquireRead (c : Cx) (s : State) (scope : Scope) : State :=
  s.learn (.fibre c.f) ((c.fb.acqIds.filter fun x => x.1 == scope).flatMap (·.2))

/-- R316: FENCE.acq. -/
def execFenceAcq (o : FenceOp) (s : State) : Out :=
  issue s [] fun c => if c.readOut o.scope then c.wait .interlock else .ok (c.acquireRead c.s o.scope)

/-- The state after a FENCE.rel marks the next atomic write at a scope. -/
def Cx.markRelease (c : Cx) (scope : Scope) : State :=
  c.setF fun fb => { fb with relMark := if fb.relMark.contains scope then fb.relMark else scope :: fb.relMark }

/-- The order that a FENCE.ar gives beyond its halves (04 R95): the fibre sees what earlier FENCE.ar of agents within
each other's scopes ordered, its own accesses before it are so ordered, and its later accesses wait for those that are
not performed. -/
def Cx.fenceOrder (c : Cx) (s : State) (scope : Scope) : State :=
  let s := s.acquire (.fibre c.f) scope fun o => decide (o = .fence)
  let s := if c.versioned then s else s.released (s.relOf (.fibre c.f) scope .fence true)
  s.modFib c.f fun fb => { fb with arHeld := s.outNames c.f }

/-- R316: FENCE.rel. -/
def execFenceRel (o : FenceOp) (s : State) : Out := issue s [] fun c => .ok (c.markRelease o.scope)

/-- R316: FENCE.ar. -/
def execFenceAr (o : FenceOp) (s : State) : Out :=
  issue s [] fun c => if c.readOut o.scope then c.wait .interlock else .ok (c.fenceOrder (c.acquireRead (c.markRelease o.scope) o.scope) o.scope)

/-! ## Weirs (R317 to R323) -/

/-- The WEIRBOUND check of an index, then `g`. -/
def Cx.withWeir (c : Cx) (i : BitVec 6) (g : Nat → Res) : Res :=
  if c.l.kernel.nw ≤ i.toNat then c.trap .weirbound (i.setWidth 64) else g i.toNat

/-- R318, 05 R126: WINIT. Arrivals of the phase that was going on are discarded, so nothing acquires from them. A weir
index at or beyond NW is found before reserved bits of Sb (DESIGN CHOICE, log entry 90). -/
def execWinit (o : WinitOp) (s : State) : Out :=
  issue s [sSrc o.b] fun c => c.withWeir o.w fun i =>
    let b := c.sreg o.b
    if b.extractLsb' 49 15 ≠ 0 then c.trap .illegal 0
    else
      .ok (({ c.s with rels := c.s.rels.filter fun r => r.live || decide (r.obj ≠ RelObj.weir c.fb.wg i) } : State).modWg c.fb.wg fun w =>
        { w with weirs := w.weirs.set i { w.weir i with
            expa := (b.extractLsb' 0 16).toNat, expb := (b.extractLsb' 16 32).toNat, ovtrap := b.getLsbD 48
            arr := 0, bytes := 0, err := false, overrun := false } })

/-- WARR of weight `da` (R319): a release, then one count; Sd receives the phase it counts in. -/
def Cx.warr (c : Cx) (o : WarrOp) (da : Nat) : Res :=
  c.withWeir o.w fun i =>
    let x := c.w.weir i
    if x.ovtrap && x.excess da 0 then c.trap .weirbound (0x8000000000000000 ||| BitVec.ofNat 64 i)
    else if c.releaseWaits then c.wait .interlock
    else .ok ((c.s.countWeir c.fb.wg i da 0 false (c.relOf o.scope (.weir c.fb.wg i))).writeBack c.f o.look.toNat [(.s o.d.toNat, .s (BitVec.ofNat 64 x.phase))])

/-- R319: WARR. -/
def execWarr (o : WarrOp) (s : State) : Out := issue s [sDst o.d] fun c => c.warr o 1

/-- R319: WARR.lanes. -/
def execWarrLanes (o : WarrOp) (s : State) : Out :=
  issue s [sDst o.d, mSrc o.m] fun c => c.warr o (c.lanes o.m).length

/-- WARR.far of weight `da` (R320). -/
def Cx.warrFar (c : Cx) (o : WarrFarOp) (da : Nat) : Res :=
  if c.versioned then c.trap .versioned 0
  else if c.releaseWaits then c.wait .interlock
  else
    let h := c.sreg o.a
    let obj := match c.s.ofHandle c.w.part h with
      | some (w, i) => RelObj.weir w i
      | none => .call 0
    .ok (c.command c.s .oca [] (.warrFar h da (some (c.relOn o.scope obj))) none 0)

/-- R320: WARR.far. -/
def execWarrFar (o : WarrFarOp) (s : State) : Out := issue s [sSrc o.a] fun c => c.warrFar o 1

/-- R320: WARR.far.lanes. -/
def execWarrFarLanes (o : WarrFarOp) (s : State) : Out :=
  issue s [sSrc o.a, mSrc o.m] fun c => c.warrFar o (c.lanes o.m).length

/-- R321, R322: WWAIT. -/
def execWwait (o : WwaitOp) (s : State) : Out :=
  issue s [sDst o.d, sSrc o.a, sSrc o.b] fun c => c.withWeir o.w fun i =>
    let b := c.sreg o.b
    let p := (c.sreg o.a).toNat % 65536
    let x := c.w.weir i
    if b.extractLsb' 32 32 ≠ 0 then c.trap .illegal 0
    else
      let w : WaitRec :=
        { d := o.d.toNat, look := o.look.toNat, weir := i, target := p, scope := o.scope
          deadline := if b.toNat = 0 then none else some (c.s.clkOf c.w + b.toNat * 256) }
      if reached x.phase p then
        .ok (((c.s.acquireWait c.f c.fb w x.phase).modFib c.f fun fb => { fb with slots := takeGrants fb.slots i x.phase }).writeBack
          c.f o.look.toNat [(.s o.d.toNat, .s (wwaitResult x x.phase false))])
      else .stay (c.setF fun fb => { fb with st := .waiting, await := .weir w })

/-- R323: WQRY.lo. -/
def execWqryLo (o : WqryOp) (s : State) : Out :=
  issue s [sDst o.d] fun c => c.withWeir o.w fun i => c.writeS o.look o.d ((c.w.weir i).image.extractLsb' 0 64)

/-- R323: WQRY.hi. -/
def execWqryHi (o : WqryOp) (s : State) : Out :=
  issue s [sDst o.d] fun c => c.withWeir o.w fun i => c.writeS o.look o.d ((c.w.weir i).image.extractLsb' 64 64)

/-- R323, 05 R121: WQRY.handle. -/
def execWqryHandle (o : WqryOp) (s : State) : Out :=
  issue s [sDst o.d] fun c => c.withWeir o.w fun i => c.writeS o.look o.d (c.s.handle c.w i)

/-! ## WAITOC (R324, R325) -/

/-- What a counter counts for a fibre, oldest first: commands, or sealed batches. -/
def State.counted (s : State) (f : Nat) (fb : Fibre) (k : Ctr) : List Nat :=
  match k with
  | .ocf => s.sealed f fb
  | _ => (s.cmdsOf f k).map (·.1)

/-- The name by which an error is counted. -/
def EngErr.unit (e : EngErr) : Nat := if e.ctr = .ocf then e.batch else e.id

/-- UINFO of a reported error. -/
def EngErr.info (e : EngErr) : Word :=
  BitVec.ofNat 64 (e.ctr.code.toNat * 2 ^ 61 + e.cause.code * 2 ^ 53 + e.addr.toNat % 2 ^ 53)

/-- The oldest of some errors: of the command issued first. -/
def oldestErr : List EngErr → Option EngErr
  | [] => none
  | e :: l => match oldestErr l with
    | none => some e
    | some x => if x.id < e.id then some x else some e

/-- Whether a WAITOC on counter `k` that does not wait for the units `exempt` covers a unit of a counter: of OCF, a
sealed batch. -/
def Fibre.ocCovers (fb : Fibre) (k : Ctr) (exempt : List Nat) (ctr : Ctr) (u : Nat) : Bool :=
  decide (ctr = k) && !exempt.contains u && (decide (k ≠ .ocf) || decide (u < fb.batch))

/-- The state after a WAITOC returns: the writes of the commands it covers are the fibre's own (04 R101). -/
def State.ocDone (s : State) (f : Nat) (fb : Fibre) (k : Ctr) (exempt : List Nat) : State :=
  let mine (x : Ctr × Nat × Nat) : Bool := fb.ocCovers k exempt x.1 (if x.1 = .ocf then x.2.1 else x.2.2)
  if fb.finished.any mine then
    (s.adopt f ((fb.finished.filter mine).map fun x => x.2.2)).modFib f fun b => { b with finished := b.finished.filter fun x => !mine x }
  else s

/-- WAITOC on counter `k`, all but the `n` newest, in the state `s`: the wait, then the report of errors. `undo` is what
a FLWAIT sealed. -/
def Cx.waitOc (c : Cx) (s : State) (k : Ctr) (n : Nat) (undo : Option (Nat × Nat)) : Res :=
  match s.fibres.find? c.f with
  | none => .ok s
  | some fb =>
    let units := s.counted c.f fb k
    let exempt := match c.fb.await with
      | .oc ids _ => ids
      | _ => units.drop (units.length - n)
    let undo := match c.fb.await with
      | .oc _ u => u
      | _ => undo
    if units.any fun u => !exempt.contains u then
      .part s (fun b => { b with await := .oc exempt undo, batch := fb.batch, openN := fb.openN }) .interlock
    else
      let due := fb.errs.filter fun e => fb.ocCovers k exempt e.ctr e.unit
      match oldestErr due with
      | none => .ok (s.ocDone c.f fb k exempt)
      | some e => .trap s .engine e.info (due.length - 1) (fb.errs.filter fun e => !fb.ocCovers k exempt e.ctr e.unit)

/-- R324, R325: WAITOC. -/
def execWaitoc (o : WaitocOp) (s : State) : Out := issue s [] fun c => c.waitOc c.s o.ctr o.n.toNat none

end Sys2Proof.Machine
end

