-- ==== Sys2Proof/Machine/Engine.lean ====
section
/-! DEFINITION. What engine commands share (04 R101 to R104, 13 R327 to R332, R339, 18 R421, R423, R434): descriptor
blocks, checks at issue, the scoreboard, and the global reads and writes of an engine. -/

namespace Sys2Proof.Machine

/-! ## Descriptor blocks and checks (R328, R330) -/

/-- The operand of a descriptor block of `k` registers. -/
def block (a : BitVec 6) (k : Nat) : Opnd := ⟨.s, a.toNat, k, true, false⟩

/-- Register `i` of a descriptor block. -/
def Cx.blk (c : Cx) (a : BitVec 6) (i : Nat) : Word := c.fb.sreg (a.toNat + i)
/-- Bits [63:32]. -/
def hiHalf (x : Word) : Nat := x.toNat / 2 ^ 32
/-- Bits [31:0]. -/
def loHalf (x : Word) : Nat := x.toNat % 2 ^ 32

/-- One check of R330: it fails with this cause and information value. -/
structure Check where
  bad   : Bool
  cause : Cause
  info  : Word
  deriving DecidableEq, Repr

/-- A limit of order 2, with the index of the register. -/
def limit (bad : Bool) (reg : Nat) : Check := ⟨bad, .illegal, BitVec.ofNat 64 reg⟩
/-- A weir index of order 3. -/
def weirCheck (nw i : Nat) : Check := ⟨decide (nw ≤ i), .weirbound, BitVec.ofNat 64 i⟩
/-- An alignment of order 4, with the offending value. -/
def aligned (x k : Nat) : Check := ⟨decide (x % k ≠ 0), .misalign, BitVec.ofNat 64 x⟩
/-- A scratchpad region of order 5: it ends within SPADSZ (log entry 13). -/
def inSpad (spad a n : Nat) : Check := ⟨decide (spad < a + n), .spadbound, BitVec.ofNat 64 (max a spad)⟩
/-- Two regions of order 5 that must not overlap (log entry 13). -/
def apart (a n b m : Nat) : Check := ⟨decide (a < b + m) && decide (b < a + n), .spadbound, BitVec.ofNat 64 (max a b)⟩
/-- A canonical address of order 6. -/
def canonCheck (a : Word) : Check := ⟨!canonical a, .xlate, a⟩

/-- The first check that fails decides the trap; else `g`. -/
@[inline] def Cx.checked (c : Cx) (l : List Check) (g : Res) : Res :=
  match l.find? Check.bad with
  | some x => c.trap x.cause x.info
  | none => g

/-- SPADSZ of the workgroup. -/
def Cx.spadsz (c : Cx) : Nat := c.l.kernel.spad

/-! ## The scoreboard (04 R102) -/

/-- Whether a command's ranges conflict with those of an earlier command of its workgroup. -/
def State.behind (s : State) (id wg : Nat) (rngs : List Rng) : Bool :=
  s.cmds.any fun p => decide (p.1 < id) && decide (p.2.wg = wg)
    && p.2.rngs.any fun r => rngs.any fun q => r.clash q.base q.len q.write

/-- A read range. -/
def readRng (a n : Nat) : Rng := ⟨a, n, false⟩
/-- A write range. -/
def writeRng (a n : Nat) : Rng := ⟨a, n, true⟩

/-- Whether any sector of a range is ARRIVING. -/
def Wg.landing (w : Wg) (a n : Nat) : Bool := w.arriving a n

/-- A sector's state set; PRESENT is not listed. -/
def Wg.setSector (w : Wg) (k : Nat) (x : Sector) : Wg := { w with sectors := w.sectors.set k x .present }

/-- The sectors of a range set to a state. -/
def Wg.setSectors (w : Wg) (a n : Nat) (x : Sector) : Wg := (sectorsOf a n).foldl (fun w k => w.setSector k x) w

/-- An engine's write into the scratchpad: the bytes, and whole sectors it covers become PRESENT (05 R136, R147). A
sector that another workgroup's multicast has made ARRIVING takes the bytes and stays ARRIVING (DESIGN CHOICE, log
entry 95). -/
def Wg.engineWrite (w : Wg) (a : Nat) (l : List Byte) : Wg :=
  ({ w with spad := w.spad.putBytes a l } : Wg).heal [(a, l.length)]

/-! ## The context of an event -/

/-- A command of the schedule's workgroup with its launch: what the events of engines act on. -/
structure EngCx where
  cmd : Nat
  c   : Cmd
  w   : Wg
  l   : Launch

/-- The context of a command. -/
def State.engCx (s : State) (cmd : Nat) : Option EngCx :=
  match s.cmds.find? cmd with
  | none => none
  | some c => match s.wgs.find? c.wg with
    | none => none
    | some w => (s.launchOf w).map fun l => ({ cmd, c, w, l } : EngCx)

/-- Whether the workgroup of a command is VERSIONED. -/
def EngCx.versioned (e : EngCx) : Bool := e.l.flag 2

/-! ## Translation of an engine's sectors (18 R421, R423) -/

/-- The outcome of an engine's translation. -/
inductive EngXlate where
  | ok (x : Xl)
  /-- A fault that the executive may resolve. -/
  | fault (c : Cause)
  /-- An address outside the partition's ranges, or in a window that the agent does not reach (16 R397). -/
  | outside
  | fail (c : Cause)
  deriving DecidableEq, Repr

/-- Translation of an engine's access. -/
def State.engXlate (s : State) (p : Nat) (k : AccKind) (va : Word) : EngXlate :=
  if !canonical va then .fail .xlate
  else match s.leafOf p va s.free with
    | none => .fault .xlate
    | some l =>
      let a := l.pa va
      if permMissing k l.e then .fault .perm
      else match s.place p a with
        | .severed _ => .fail .cohlost
        | .home => if attrRefuses k va l.e then .fail .perm else .ok { va, pa := a, leaf := l, away := false }
        | .peer _ => if attrRefuses k va l.e then .fail .perm else .ok { va, pa := a, leaf := l, away := true }
        | _ => .outside

/-- What an engine's access of some bytes comes to. -/
inductive EngOut where
  /-- Done: the state, the bytes read, and the lines counted so far for the command. -/
  | done (s : State) (l : List Byte) (seen : List Nat)
  /-- A translation fault for the executive. -/
  | fault (c : Cause) (va : Word)
  | fail (s : State) (c : Cause) (va : Word)
  /-- It waits: a line to collect or to invalidate, write-block, or a sector that is ARRIVING. -/
  | wait (s : State)

/-- A part of an engine's access on one page. -/
structure EngPart where
  x : Xl
  n : Nat
  deriving DecidableEq, Repr

/-- First addresses of the lines of a part. -/
def EngPart.lines (q : EngPart) : List Nat :=
  let g := q.x.grain
  (List.range (ceilDiv (q.x.pa % g + q.n) g)).map fun i => alignDown q.x.pa g + g * i

/-- The pieces of `n` bytes at `va` that lie in one aligned sector of 32 bytes each (04 R84): offset and length. -/
def sectorPieces (va n : Nat) : List (Nat × Nat) :=
  (List.range (ceilDiv (va % 32 + n) 32)).map fun i =>
    let a := if i = 0 then 0 else 32 * i - va % 32
    (a, min n (32 * (i + 1) - va % 32) - a)

/-- A translation of some bytes within one sector, or what it comes to. -/
def State.engPart (s : State) (p : Nat) (k : AccKind) (va : Word) (n : Nat) : Except EngOut EngPart :=
  match s.engXlate p k va with
  | .ok x => .ok { x, n }
  | .fault c => .error (.fault c va)
  | .outside => .error (.fail s .perm va)
  | .fail c => .error (.fail (match c, s.severedAt p va s.free with
      | .cohlost, some w => s.countLost w
      | _, _ => s) c va)

/-- Pages that `n` bytes may touch. -/
def pagesOf (n : Nat) : Nat := n / 8192 + 2

/-- The parts, each on one page, of `n` bytes at `va`, or what the first that is not translated comes to. -/
def State.engParts (s : State) (p : Nat) (k : AccKind) : Nat → Word → Nat → Except EngOut (List EngPart)
  | 0, _, _ => .ok []
  | i + 1, va, n =>
    if n = 0 then .ok []
    else
      let m := min n (8192 - va.toNat % 8192)
      match s.engPart p k va m with
      | .error r => .error r
      | .ok q => match State.engParts s p k i (va + BitVec.ofNat 64 m) (n - m) with
        | .ok l => .ok (q :: l)
        | .error r => .error r

/-- What the lines of the parts ask for first, as for a fibre's access (Access.lean). -/
def State.engGates (s : State) (w : Wg) (write : Bool) (l : List EngPart) : Option State :=
  match l.find? fun q => !(s.pageAccrues w.part (some (w.die, w.core)) q.x).isEmpty with
  | some q => some (s.startCollect (s.pageAccrues w.part (some (w.die, w.core)) q.x))
  | none => l.findSome? fun q => q.lines.findSome? fun a => match s.gate a q.x.grain write with
    | .wait s => some s
    | .pass => none

/-- The translation of a part used, each line of a counted page counted once for the command (18 R432). -/
def State.engUsed (s : State) (w : Wg) (seen : List Nat) (q : EngPart) : State × List Nat :=
  let s := ((s.touch w.part (some (w.die, w.core)) q.x).cacheLeaf w.part q.x).drawn
  q.lines.foldl (fun r a =>
    if r.2.contains a then r else (r.1.countAccess w.part { q.x with pa := a } true, a :: r.2)) (s, seen)

/-- Whether a write of the command's fibre, earlier than the command, to a line is not performed yet: the command's
reads see it (04 R101). -/
def State.engBehind (s : State) (e : EngCx) (a : Nat) : Bool :=
  match e.c.fib with
  | some f => s.writeAmong (s.lineage 16 f e.cmd) a
  | none => false

/-- Whether a lane of the workgroup is one of the command's fibre. -/
def EngCx.lane (e : EngCx) (s : State) (k : Nat) : Bool :=
  match e.c.fib.bind s.fibres.find? with
  | some fb => decide (k / e.w.width = fb.num)
  | none => false

/-- Bytes of a part as the command reads them: what its fibre's lanes hold in L1 of their own private bytes, and what
the workgroup's version holds, over memory. -/
def EngCx.over (e : EngCx) (s : State) (q : EngPart) (l : List Byte) : List Byte :=
  let l := overlay e.w.version q.x.pa l
  if (e.w.privLane (e.l.count 1 * e.w.width) q.x.va).any (e.lane s) then
    l.mapIdx fun i b => (e.w.priv.find? (q.x.pa + i)).getD b
  else l

/-- An engine's read of `n` bytes at `va`, within one sector. -/
def State.engRead (s : State) (e : EngCx) (seen : List Nat) (va : Word) (n : Nat) : EngOut :=
  match s.engPart e.w.part .load va n with
  | .error r => r
  | .ok q =>
    if s.engBehind e q.x.line then .wait s
    else match s.engGates e.w false [q] with
      | some s => .wait s
      | none =>
        if s.dead q.x.pa n then .fail (s.retireFrame q.x.pa (memSource q.x.pa)) .eccunc va
        else
          let (s, seen) := s.engUsed e.w seen q
          let (l, s) := s.look (.engine e.cmd) q.x.pa n
          .done s (e.over s q l) seen

/-- Whether a write of a command's sector waits for an invalidation to complete (18 R434). -/
def State.engShut (s : State) (p : Nat) (who : Agent) : Bool :=
  (s.part p).stalls.any fun x => x.shut && decide (x.who = who)

/-- The stalls of an agent ended. -/
def State.unstallWho (s : State) (p : Nat) (who : Agent) : State :=
  if (s.part p).stalls.isEmpty then s
  else s.modPart p fun x => { x with stalls := x.stalls.filter fun y => !decide (y.who = who) }

/-- How a command issues its write of `n` bytes at `va`. -/
def EngCx.issueAt (e : EngCx) (va n : Nat) : Issue :=
  { Issue.plain with wg := some e.c.wg, binds := e.c.binds.filter fun b => b.meets va n }

/-- Bytes of an agent written at their home line by line: held at a locked line (07 R187), else performed. -/
def State.engPoke (s : State) (p : Nat) (who : Agent) (issue : Nat → Nat → Issue) (q : EngPart) : Nat → Nat → List Byte → State
  | 0, _, _ => s
  | i + 1, o, l =>
    if l.isEmpty then s
    else
      let g := q.x.grain
      let pa := q.x.pa + o
      let va := q.x.va + BitVec.ofNat 64 o
      let m := g - pa % g
      let a := alignDown pa g
      let line := s.line a g
      let piece := l.take m
      let iss := issue va.toNat piece.length
      let s :=
        if line.locked then
          let req : HomeReq :=
            { agent := who, part := p, kind := .store piece, va, pa, grain := g, narrow := ebit q.x.leaf.e 10, count := false }
          (s.setLine a { line with held := line.held ++ [{ id := s.nextId, req, back := none, issue := iss }] }).named
        else
          let s := s.homeStore (s.viewerOf who) va iss pa piece (ebit q.x.leaf.e 10) false
          if line.homeWritten = line then s else s.setLine a line.homeWritten
      State.engPoke s p who issue q i (o + m) (l.drop m)

/-- An engine's write of bytes at `va`, within one sector, as sector `k` of its command (R339). -/
def State.engWrite (s : State) (e : EngCx) (k : Nat) (seen : List Nat) (va : Word) (b : List Byte) : EngOut :=
  let w := e.w
  let who := Agent.engine e.cmd k
  if s.engShut w.part who then .wait s
  else match s.engPart w.part (.store (if b.length % 4 = 0 then 4 else 1)) va b.length with
    | .error r => r
    | .ok q =>
      if e.versioned && (q.x.away || s.versionFull ((s.wgs.find? e.c.wg).getD w) q.x.pa) then .fail s .versioned va
      else if ebit q.x.leaf.e 11 then .wait (s.stall w.part who va va)
      else match s.engGates w (!e.versioned) [q] with
        | some s => .wait s
        | none =>
          if !e.versioned && s.refuses q.x.pa q.n then .fail (s.retireFrame q.x.pa (memSource q.x.pa)) .eccunc va
          else
            let (s, seen) := (s.unstallWho w.part who).engUsed w seen q
            let s := match e.c.fib with
              | some f => s.privBack (.fibre f) e.c.wg (e.lane s) (e.l.count 1 * w.width) va q.x.pa q.n
              | none => s
            .done (if e.versioned then s.versionStore e.c.wg q.x.pa b (ebit q.x.leaf.e 10)
              else s.engPoke w.part who e.issueAt q 2 0 b) [] seen

/-- Whether a write of a command is held at a locked line. -/
def State.engHeld (s : State) (cmd : Nat) : Bool :=
  s.lines.any fun l => l.2.held.any fun x => match x.req.agent with
    | .engine c _ => decide (c = cmd)
    | _ => false

/-! ## Faults given to the executive (18 R423) -/

/-- The counter code of a command's notification. -/
def Cmd.ctrCode (c : Cmd) : Nat := ((c.ctr.getD .ocf).code).toNat

/-- Whether a sector of a command waits for XRESUME. -/
def State.tokened (s : State) (p cmd k : Nat) : Bool :=
  (s.part p).tokens.any fun t => decide (t.cmd = cmd) && decide (t.sector = k)

/-- A fault of sector `k` of a command given to the executive: notification 0x11. -/
def State.postToken (s : State) (p cmd k : Nat) (c : Cmd) (cause : Cause) (va : Word) : State :=
  let n := (s.part p).nextTok % 2 ^ 32
  let s := s.modPart p fun x =>
    { x with tokens := x.tokens ++ [{ token := n, cmd, sector := k, cause, addr := va }], nextTok := n + 1 }
  s.notify p 0x11 va (BitVec.ofNat 64 (c.ctrCode * 2 ^ 40 + cause.code * 2 ^ 32 + n))

/-! ## Physically addressed accesses -/

/-- The grain at which a home keeps a physical address. -/
def State.grainAt (s : State) (pa : Nat) : Nat :=
  match List.find? (fun l : Nat × Line => decide (l.1 ≤ pa) && decide (pa < l.1 + l.2.grain)) s.lines with
  | some l => l.2.grain
  | none => 32

/-- A shared readable and writable leaf of a grain, standing for a physical access. -/
def physLeaf (grain : Nat) : Leaf :=
  { e := BitVec.ofNat 64 (0x8F + (if grain = 32 then 0 else if grain = 128 then 0x20 else 0x40)), addr := 0, bits := 13 }

/-- `n` bytes at a physical address as parts, each within one line. -/
def State.physParts (s : State) : Nat → Nat → Nat → List EngPart
  | 0, _, _ => []
  | i + 1, pa, n =>
    if n = 0 then []
    else
      let g := s.grainAt pa
      let m := min n (g - pa % g)
      { x := { va := BitVec.ofNat 64 pa, pa, leaf := physLeaf g, away := false }, n := m } :: s.physParts i (pa + m) (n - m)

end Sys2Proof.Machine
end

