-- ==== Sys2Proof/Machine/Launch.lean ====
section
/-! DEFINITION. Posting a launch record: its reading, the checks of 02 R31, R32, 09 R229 and 05 R143 with the result
codes of 10 R250, and the entries of the launch queues (17 R399, R400). -/

namespace Sys2Proof.Machine

/-! ## Reading through translation -/

/-- `n` bytes at virtual address `va` of partition `p`, read page by page; the error is the cause and the address. -/
def State.readVaWalk (s : State) (p : Nat) : Nat → Word → Nat → Except (Cause × Word) (List Byte)
  | 0, _, _ => .ok []
  | k + 1, va, n =>
    if n = 0 then .ok []
    else
      let m := min n (8192 - va.toNat % 8192)
      match s.xlate p .load va s.free with
      | .error c => .error (c, va)
      | .ok x =>
        if s.dead x.pa m then .error (.eccunc, va)
        else match State.readVaWalk s p k (va + BitVec.ofNat 64 m) (n - m) with
          | .error e => .error e
          | .ok l => .ok (s.mem.bytes x.pa m ++ l)

/-- `n` bytes at a virtual address. -/
def State.readVa (s : State) (p : Nat) (va : Word) (n : Nat) : Except (Cause × Word) (List Byte) :=
  s.readVaWalk p (n / 8192 + 2) va n

/-- The accrue lines in which `n` bytes at a virtual address lie: a read of them waits until those lines are collected
(07 R175). -/
def State.vaAccrues (s : State) (p : Nat) : Nat → Word → Nat → List Nat
  | 0, _, _ => []
  | k + 1, va, n =>
    if n = 0 then []
    else
      let m := min n (8192 - va.toNat % 8192)
      (match s.xlate p .load va s.free with
        | .ok x => s.accruesIn x.pa m
        | .error _ => []) ++ State.vaAccrues s p k (va + BitVec.ofNat 64 m) (n - m)

/-! ## The parts of a record -/

/-- A partition word that R20 makes valid. -/
def partwValid (x : Nat) : Bool :=
  let vrf := x % 256
  let spad := x / 256 % 256
  let acc := x / 65536 % 256
  decide (8 ≤ vrf) && decide (vrf ≤ 48) && decide (4 ≤ acc) && decide (acc ≤ 32) && decide (4 ≤ spad)
    && decide (vrf + spad + acc = 64) && decide (x / 2 ^ 24 = 0)

/-- PARTW of a record. -/
def recPartw (r : List Byte) : Nat := fieldLe r 0x10 4
/-- WIDTHi of a record. -/
def recWidth (r : List Byte) (i : Nat) : Nat := fieldLe r (0x14 + i) 1
/-- COUNTi of a record. -/
def recCount (r : List Byte) (i : Nat) : Nat := fieldLe r (0x18 + 8 * i) 8

/-- The WIDTH and COUNT conditions of R32. -/
def widthsValid (r : List Byte) : Bool :=
  decide (3 ≤ recWidth r 0) && decide (recWidth r 0 ≤ 7)
    && decide (((List.range 6).map (recWidth r)).foldl (· + ·) 0 ≤ 64)
    && ((List.range 5).all fun i => decide (1 ≤ recCount r (i + 1)) && decide (recCount r (i + 1) ≤ 2 ^ recWidth r (i + 1)))
    && decide (recCount r 1 * 2 ^ recWidth r 0 ≤ 2048)

/-- Bytes that are all zero. -/
def allZero (l : List Byte) : Bool := l.all (· == 0)

/-- The reserved bytes and bits of R32, and the alignment of KDESC and UPCALL. -/
def reservedValid (r : List Byte) : Bool :=
  allZero ((r.drop 0x1A).take 6) && allZero (r.drop 0x80) && decide (fieldLe r 8 8 < 64) && decide (fieldLe r 0 8 % 8 = 0)
    && decide (fieldLe r 0x60 8 % 8 = 0)

/-- The kernel descriptor of 32 bytes (09 R228). -/
def kernelOf (k : List Byte) : Kernel :=
  { entry := BitVec.ofNat 64 (fieldLe k 0 8), nv := fieldLe k 8 2, ns := fieldLe k 10 1, nm := fieldLe k 11 1
    nw := fieldLe k 12 1, spad := fieldLe k 16 4, nt := fieldLe k 13 1, nmac := fieldLe k 14 1
    mcast := (fieldLe k 15 1).testBit 0 }

/-- The conditions of 09 R229 on a descriptor, beside the record's. Bits [7:1] of KFLAGS, which R228 says are zero, are
refused as a zero byte of the descriptor is (DESIGN CHOICE, log entry 91). -/
def kernelValid (r k : List Byte) : Bool :=
  let x := kernelOf k
  decide (fieldLe k 20 1 = recWidth r 0) && decide (x.spad ≤ recPartw r / 256 % 256 * 65536)
    && decide (x.nt ≤ 2 * (recPartw r / 65536 % 256)) && decide (1 ≤ x.nv) && decide (x.nv ≤ 256) && decide (1 ≤ x.ns)
    && decide (x.ns ≤ 64) && decide (1 ≤ x.nm) && decide (x.nm ≤ 16) && decide (x.nw ≤ 64) && decide (x.spad % 32 = 0)
    && decide (x.nt ≤ 64) && decide (x.nmac ≤ 4) && decide (fieldLe k 15 1 < 2) && allZero ((k.drop 21).take 3)

/-- Entry `k` of a schedule, 64 bytes (05 R143). -/
def schedEntry (l : List Byte) (k : Nat) : List Byte := (l.drop (16 + 64 * k)).take 64

/-- The limits of R143 on a schedule of the given bytes. -/
def schedValid (l : List Byte) : Bool :=
  let n := fieldLe l 0 4
  let st := fieldLe l 4 2
  allZero ((l.drop 6).take 10) && decide (1 ≤ st) && decide (st ≤ 256)
    && ((List.range n).all fun k =>
      let e := schedEntry l k
      let row := fieldLe e 0x2C 4
      decide (fieldLe e 0x28 4 % 32 = 0) && decide (row % 32 = 0) && decide (32 ≤ row) && decide (row ≤ 65536)
        && decide (1 ≤ fieldLe e 0x30 2) && decide (fieldLe e 0x32 1 < st) && decide (fieldLe e 0x38 4 % 32 = 0)
        && decide (row ≤ fieldLe e 0x38 4) && allZero (e.drop 0x3C)
        && (k = 0 || decide (fieldLe (schedEntry l (k - 1)) 0x32 1 ≤ fieldLe e 0x32 1)))

/-- The schedule that a record names: none for a record without one, an error where it is refused (BADSCHED). -/
def State.schedOf (s : State) (p : Nat) (r : List Byte) : Option (List Byte) :=
  let a := fieldLe r 0x68 8
  if a = 0 then some []
  else match s.readVa p (BitVec.ofNat 64 a) 16 with
    | .error _ => none
    | .ok h =>
      let n := fieldLe h 0 4
      if n = 0 ∨ 4096 < n then none
      else match s.readVa p (BitVec.ofNat 64 a) (16 + 64 * n) with
        | .error _ => none
        | .ok l => if schedValid l then some l else none

/-- The accrue lines that must be collected before the record of 256 bytes at `a` and what it names are read: those of
the record, and once it has been read those of its kernel descriptor and of its schedule (R31, 07 R175). -/
def State.postAccrues (s : State) (p : Nat) (a : Word) : List Nat :=
  match s.vaAccrues p 2 a 256, s.readVa p a 256 with
  | [], .ok r =>
    let at' (o n : Nat) : List Nat := s.vaAccrues p (n / 8192 + 2) (BitVec.ofNat 64 o) n
    let sched := fieldLe r 0x68 8
    at' (fieldLe r 0 8) 32 ++ (if sched = 0 then [] else match at' sched 16, s.readVa p (BitVec.ofNat 64 sched) 4 with
      | [], .ok h => at' sched (16 + 64 * min 4096 (leNat h))
      | l, _ => l)
  | l, _ => l

/-! ## Posting -/

/-- Launch queue `q` of partition `p`. -/
def State.queue (s : State) (p q : Nat) : LQueue := (s.part p).lqs.getD q LQueue.start

/-- The state with a launch queue replaced. -/
def State.setQueue (s : State) (p q : Nat) (x : LQueue) : State := s.modPart p fun y => { y with lqs := y.lqs.put q x }

/-- The result code of a record of 256 bytes posted to queue `q` of partition `p` (10 R250), with the kernel and
schedule of an accepted one; `fib` tells a LAUNCH from a post through LQPOST. -/
def State.postCode (s : State) (p q : Nat) (fib : Bool) (r : List Byte) : Nat × Option (Kernel × List Byte) :=
  let x := s.queue p q
  let kd := match s.readVa p (BitVec.ofNat 64 (fieldLe r 0 8)) 32 with
    | .ok l => some l
    | .error _ => none
  let wide := match kd with
    | some k => (kernelOf k).mcast && (decide (4 < recCount r 2) || decide (6 < recCount r 3))
    | none => false
  if !partwValid (recPartw r) then (1, none)
  else if !widthsValid r || wide || (decide (1 < recCount r 5) && decide (recCount r 5 ≤ x.f5)) then (2, none)
  else if !reservedValid r then (3, none)
  else match kd with
    | none => (4, none)
    | some k =>
      if !kernelValid r k then (4, none)
      else match s.schedOf p r with
        | none => (5, none)
        | some sc =>
          if fib && decide (1 < recCount r 5) then (6, none)
          else if !x.en || decide (x.inuse = x.depth) then (7, none)
          else (0, some (kernelOf k, sc))

/-- Whether every workgroup of a launch has started once. -/
def Launch.allStarted (l : Launch) : Bool := decide (l.started.length = l.total)

/-- The entry of a queue that is served next becomes active where none is (R400), while the queue is served (R399). -/
def State.activate (s : State) (p q : Nat) : State :=
  match List.find? (fun x : Nat × Launch => decide (x.2.part = p) && decide (x.2.queue = q) && !x.2.allStarted) s.launches with
  | none => s
  | some (n, l) => if l.active || !(s.queue p q).en then s else { s with launches := s.launches.put n { l with active := true, order := s.nextId } }.named

/-- A post (R399, R400): the answer's code in LQRES, and on acceptance the launch in an entry of the queue. `views` are
the writes that the post releases (04 R105). -/
def State.post (s : State) (p q : Nat) (fib : Bool) (r : List Byte) (views : List Nat) : State × Nat :=
  let x := s.queue p q
  match s.postCode p q fib r with
  | (code, none) => (s.setQueue p q { x with code }, code)
  | (code, some (k, sched)) =>
    let seq := (x.seq + 1) % 2 ^ 32
    let f5 := if 1 < recCount r 5 then x.f5 else 0
    let l : Launch :=
      { ident := BitVec.ofNat 64 (seq * 2 ^ 32 + p * 256 + q), part := p, queue := q, record := r, kernel := k, sched, f5
        pcur := fieldLe r 0x50 4, active := false, order := 0, started := [], ended := [], again := [], bad := false
        shareOf := [], teamOf := [], views, ends := [] }
    let s := s.setQueue p q { x with seq, code, inuse := x.inuse + 1 }
    (({ s with launches := s.launches.put s.nextId l }.named).activate p q, code)

end Sys2Proof.Machine
end

