-- ==== Sys2Proof/Machine/Scalar.lean ====
section
/-! DEFINITION. Meanings of majors 0x04 to 0x07 (10 R252 to R262): scalar arithmetic and its flags, moves and special
registers, compares, and mask instructions. -/

namespace Sys2Proof.Machine

/-! ## Major 0x04 -/

/-- The result of a scalar form: Sd extended by the type, and under SF the flags (R252, R255). -/
def Cx.scalar (c : Cx) (d : BitVec 6) (ty : Ty) (sf : Bool) (look : BitVec 4) (r : SRes) : Res :=
  .ok (State.writeBack (if sf then c.setF fun x => x.setFlags r.fl else c.s) c.f look.toNat
    [(.s d.toNat, .s (extend ty.width ty.signed r.r))])

/-- The low w bits of a scalar source. -/
def Cx.lowBits (c : Cx) (ty : Ty) (a : BitVec 6) : Nat := (c.sreg a).toNat % 2 ^ ty.width

/-- A form of two sources: `op` is given the width, the signedness and both sources. -/
def scalarTwo (o : SOp) (s : State) (op : Nat → Bool → Nat → Nat → SRes) : Out :=
  issue s (sDst o.d :: sSrc o.a :: SSrc.opnds o.b) fun c =>
    c.scalar o.d o.ty o.sf o.look (op o.ty.width o.ty.signed (c.lowBits o.ty o.a) (SSrc.value o.b c.fb o.ty.width))

/-- A form of one source. -/
def scalarOne (o : SUn) (s : State) (op : Nat → Nat → SRes) : Out :=
  issue s [sDst o.d, sSrc o.a] fun c => c.scalar o.d o.ty o.sf o.look (op o.ty.width (c.lowBits o.ty o.a))

/-- R253: SADD. -/
def execSadd (o : SOp) (s : State) : Out := scalarTwo o s fun w _ a b => aluAdd w a b

/-- R253: SSUB. -/
def execSsub (o : SOp) (s : State) : Out := scalarTwo o s fun w _ a b => aluSub w a b

/-- R253: SMUL. -/
def execSmul (o : SOp) (s : State) : Out := scalarTwo o s fun w g a b => aluMul w g a b

/-- R253: SMULH. -/
def execSmulh (o : SOp) (s : State) : Out := scalarTwo o s fun w _ a b => aluMulh w true a b

/-- R253: SMULHU. -/
def execSmulhu (o : SOp) (s : State) : Out := scalarTwo o s fun w _ a b => aluMulh w false a b

/-- R254: SDIV. -/
def execSdiv (o : SOp) (s : State) : Out := scalarTwo o s fun w _ a b => aluDiv w true a b

/-- R254: SDIVU. -/
def execSdivu (o : SOp) (s : State) : Out := scalarTwo o s fun w _ a b => aluDiv w false a b

/-- R254: SREM. -/
def execSrem (o : SOp) (s : State) : Out := scalarTwo o s fun w _ a b => aluRem w true a b

/-- R254: SREMU. -/
def execSremu (o : SOp) (s : State) : Out := scalarTwo o s fun w _ a b => aluRem w false a b

/-- R253: SAND. -/
def execSand (o : SOp) (s : State) : Out := scalarTwo o s fun w _ a b => aluPlain w (a &&& b)

/-- R253: SOR. -/
def execSor (o : SOp) (s : State) : Out := scalarTwo o s fun w _ a b => aluPlain w (a ||| b)

/-- R253: SXOR. -/
def execSxor (o : SOp) (s : State) : Out := scalarTwo o s fun w _ a b => aluPlain w (a ^^^ b)

/-- R253: SANDN. -/
def execSandn (o : SOp) (s : State) : Out := scalarTwo o s fun w _ a b => aluPlain w (andn w a b)

/-- R253: SSHL. -/
def execSshl (o : SOp) (s : State) : Out := scalarTwo o s fun w _ a b => aluPlain w (shl w a b)

/-- R253: SSHR. -/
def execSshr (o : SOp) (s : State) : Out := scalarTwo o s fun w _ a b => aluPlain w (shr w a b)

/-- R253: SSRA. -/
def execSsra (o : SOp) (s : State) : Out := scalarTwo o s fun w _ a b => aluPlain w (sra w a b)

/-- R253: SROT. -/
def execSrot (o : SOp) (s : State) : Out := scalarTwo o s fun w _ a b => aluPlain w (ror w a b)

/-- R253: SMIN. -/
def execSmin (o : SOp) (s : State) : Out := scalarTwo o s fun w _ a b => aluPlain w (pick w true false a b)

/-- R253: SMAX. -/
def execSmax (o : SOp) (s : State) : Out := scalarTwo o s fun w _ a b => aluPlain w (pick w true true a b)

/-- R253: SMINU. -/
def execSminu (o : SOp) (s : State) : Out := scalarTwo o s fun w _ a b => aluPlain w (pick w false false a b)

/-- R253: SMAXU. -/
def execSmaxu (o : SOp) (s : State) : Out := scalarTwo o s fun w _ a b => aluPlain w (pick w false true a b)

/-- R253: SCLZ. -/
def execSclz (o : SUn) (s : State) : Out := scalarOne o s fun w a => aluPlain w (clz w a)

/-- R253: SCTZ. -/
def execSctz (o : SUn) (s : State) : Out := scalarOne o s fun w a => aluPlain w (ctz w a)

/-- R253: SPOP. -/
def execSpop (o : SUn) (s : State) : Out := scalarOne o s fun w a => aluPlain w (popc w a)

/-- R253: SEXT. -/
def execSext (o : SUn) (s : State) : Out := scalarOne o s fun w a => aluPlain w a

/-! ## Major 0x05 -/

/-- R257: SMOV. -/
def execSmov (o : SUn) (s : State) : Out := scalarOne o s fun w a => aluPlain w a

/-- The immediate of SLI. -/
def immWord : Disp → Word
  | .imm v => v.signExtend 64
  | .long v => sext58 v

/-- R257: SLI. -/
def execSli (o : SliOp) (s : State) : Out :=
  issue s [sDst o.d] fun c => c.scalar o.d o.ty o.sf o.look (aluPlain o.ty.width (immWord o.imm).toNat)

/-- R257: SADR. -/
def execSadr (o : SadrOp) (s : State) : Out :=
  issue s [sDst o.d] fun c => c.writeS o.look o.d (c.fb.pc + sext58 o.off * 8)

/-- FLAGS (R260). -/
def flagsWord (f : Flags) : Word := BitVec.ofNat 64 (8 * bit f.n + 4 * bit f.z + 2 * bit f.c + bit f.v)

/-- OCNT (R260). -/
def Cx.ocnt (c : Cx) : Word :=
  let n (k : Ctr) : Nat := min (c.s.oc c.f c.fb k) 0xFF
  BitVec.ofNat 64 (n .ocm + 2 ^ 8 * n .ocf + 2 ^ 16 * n .ocg + 2 ^ 24 * n .occ + 2 ^ 32 * n .oca + 2 ^ 40 * n .oci)

/-- Field Fi of the fibre's WID. -/
def Cx.widField (c : Cx) (i : Nat) : Word :=
  BitVec.ofNat 64 ((widOf c.l c.w c.fb.num).toNat / 2 ^ c.l.shift i % 2 ^ c.l.width i)

/-- The value of a special register (R258, R259, 02 R30). -/
def Cx.special (c : Cx) (r : SReg) : Word :=
  match r with
  | .wid => widOf c.l c.w c.fb.num
  | .wf0 => 0
  | .wf1 => c.widField 1
  | .wf2 => c.widField 2
  | .wf3 => c.widField 3
  | .wf4 => c.widField 4
  | .wf5 => c.widField 5
  | .lane => BitVec.ofNat 64 (c.w.slot c.fb.num)
  | .fwidth => BitVec.ofNat 64 c.width
  | .gang => BitVec.ofNat 64 ((c.w.gangOf c.fb.num).getD 0)
  | .core => BitVec.ofNat 64 c.w.core
  | .clus => BitVec.ofNat 64 (clusOf c.w.core)
  | .die => BitVec.ofNat 64 c.w.die
  | .chip => BitVec.ofNat 64 c.s.chip
  | .clk => BitVec.ofNat 64 (c.s.clkOf c.w)
  | .partw => BitVec.ofNat 64 (recPartw c.l.record)
  | .ucause => c.fb.ucause
  | .upc => c.fb.upc
  | .uinfo => c.fb.uinfo
  | .fmode => BitVec.ofNat 64 (bit c.fb.ftz)
  | .lkst0 => (c.fb.slot 0).word
  | .lkst1 => (c.fb.slot 1).word
  | .lkst2 => (c.fb.slot 2).word
  | .lkst3 => (c.fb.slot 3).word
  | .flags => flagsWord c.fb.flags
  | .lsdepth => BitVec.ofNat 64 c.fb.loops.length
  | .ocnt => c.ocnt
  | .fbatch => BitVec.ofNat 64 (c.fb.batch % 65536)

/-- R257, R259: SGETSR. -/
def execSgetsr (o : GetSrOp) (s : State) : Out := issue s [sDst o.d] fun c => c.writeS o.look o.d (c.special o.sel)

/-- A special register written (R261): FMODE and FLAGS; no other selector is admitted. -/
def Fibre.setSpecial (f : Fibre) (r : SReg) (x : Word) : Fibre :=
  match r with
  | .fmode => { f with ftz := x.getLsbD 0 }
  | .flags => f.setFlags { n := x.getLsbD 3, z := x.getLsbD 2, c := x.getLsbD 1, v := x.getLsbD 0 }
  | _ => f

/-- R257, R261: SSETSR. -/
def execSsetsr (o : SetSrOp) (s : State) : Out :=
  issue s [sSrc o.a] fun c => .ok (c.setF fun x => x.setSpecial o.sel (c.sreg o.a))

/-- The operand that a register or IMM58 names. -/
def regOrLongOpnds : RegOrLong → List Opnd
  | .reg b => [sSrc b]
  | .long _ => []

/-- The value of a register or IMM58. -/
def Cx.regOrLong (c : Cx) : RegOrLong → Word
  | .reg b => c.sreg b
  | .long v => sext58 v

/-- R257: SSEL. -/
def execSsel (o : SselOp) (s : State) : Out :=
  issue s (sDst o.d :: sSrc o.a :: regOrLongOpnds o.b) fun c =>
    let x := if condHolds o.cond c.fb.flags then c.sreg o.a else c.regOrLong o.b
    c.writeS o.look o.d (extend o.ty.width o.ty.signed (x.toNat % 2 ^ o.ty.width))

/-! ## Major 0x06 -/

/-- A compare: the flags of `op` are written, no register is. -/
def scalarCompare (o : ScmpOp) (s : State) (op : Nat → Nat → Nat → SRes) : Out :=
  issue s (sSrc o.a :: SSrc.opnds o.b) fun c =>
    .ok (c.setF fun x => x.setFlags (op o.ty.width (c.lowBits o.ty o.a) (SSrc.value o.b c.fb o.ty.width)).fl)

/-- R256: SCMP. -/
def execScmp (o : ScmpOp) (s : State) : Out := scalarCompare o s aluSub

/-- R256: SCMN. -/
def execScmn (o : ScmpOp) (s : State) : Out := scalarCompare o s aluAdd

/-- R256: STST. -/
def execStst (o : ScmpOp) (s : State) : Out := scalarCompare o s fun w a b => aluPlain w (a &&& b)

/-! ## Major 0x07 -/

/-- The result of a form that writes one mask. -/
def Cx.writeM (c : Cx) (d : BitVec 4) (x : Wide) : Res := c.write 0 [(.m d.toNat, .m x)]

/-- Mm. -/
def Cx.mreg (c : Cx) (m : BitVec 4) : Wide := c.fb.mreg m.toNat

/-- A mask form of two sources. -/
def maskTwo (o : K3Op) (s : State) (op : Wide → Wide → Wide) : Out :=
  issue s [mDst o.d, mSrc o.a, mSrc o.b] fun c => c.writeM o.d (op (c.mreg o.a) (c.mreg o.b))

/-- R262: KAND. -/
def execKand (o : K3Op) (s : State) : Out := maskTwo o s fun a b => a &&& b

/-- R262: KOR. -/
def execKor (o : K3Op) (s : State) : Out := maskTwo o s fun a b => a ||| b

/-- R262: KXOR. -/
def execKxor (o : K3Op) (s : State) : Out := maskTwo o s fun a b => a ^^^ b

/-- R262: KANDN. -/
def execKandn (o : K3Op) (s : State) : Out := maskTwo o s fun a b => a &&& ~~~b

/-- R262: KNOT. -/
def execKnot (o : K2Op) (s : State) : Out := issue s [mDst o.d, mSrc o.a] fun c => c.writeM o.d (~~~(c.mreg o.a))

/-- R262: KMOV. -/
def execKmov (o : K2Op) (s : State) : Out := issue s [mDst o.d, mSrc o.a] fun c => c.writeM o.d (c.mreg o.a)

/-- R262: KPOP. -/
def execKpop (o : KsOp) (s : State) : Out :=
  issue s [sDst o.d, mSrc o.a] fun c => c.writeS 0 o.d (BitVec.ofNat 64 (popBelow (c.mreg o.a).toNat c.width))

/-- R262: KFIRST. -/
def execKfirst (o : KsOp) (s : State) : Out :=
  issue s [sDst o.d, mSrc o.a] fun c =>
    c.writeS 0 o.d (match lowestFrom (c.mreg o.a).toNat 0 c.width with
      | some i => BitVec.ofNat 64 i
      | none => BitVec.allOnes 64)

/-- R262: KFROMS. -/
def execKfroms (o : KfOp) (s : State) : Out :=
  issue s [mDst o.d, sSrc o.a, sSrc o.b] fun c => c.writeM o.d (c.sreg o.b ++ c.sreg o.a)

/-- R262: KTOS. -/
def execKtos (o : KtOp) (s : State) : Out :=
  issue s [sDst o.d, mSrc o.a] fun c => c.writeS 0 o.d ((c.mreg o.a).extractLsb' (64 * o.n.toNat) 64)

end Sys2Proof.Machine
end

