-- ==== Sys2Proof/Machine/Matrix.lean ====
section
/-! DEFINITION. Meanings of major 0x22 (06 R148 to R169, 13 R344 to R350): bank loads, steps, loops, tiles, drains and
the events of the matrix engine. -/

namespace Sys2Proof.Machine

/-! ## Formats and layouts (R151 to R153) -/

/-- Bits of an element. -/
def mxBits : MxFmt → Nat
  | .i8 | .e4m3 | .e5m2 => 8
  | .i4 | .e2m1 => 4
  | .e3m2 | .e2m3 => 6
  | .bf16 | .f16 => 16

/-- Planes per pass as A. -/
def mxPlanes : MxFmt → Nat
  | .i4 | .e2m1 => 4
  | .f16 => 16
  | _ => 8

/-- Bmin of a floating-point format; none for an integer one. -/
def mxBmin : MxFmt → Option Int
  | .i8 | .i4 => none
  | .e4m3 => some (-9)
  | .e5m2 => some (-16)
  | .e3m2 => some (-4)
  | .e2m3 => some (-3)
  | .e2m1 => some (-1)
  | .bf16 => some (-133)
  | .f16 => some (-24)

/-- The element type of a format. -/
def mxTy : MxFmt → Ty
  | .i8 => .i8 | .i4 => .i4 | .e4m3 => .e4m3 | .e5m2 => .e5m2 | .e3m2 => .e3m2 | .e2m3 => .e2m3 | .e2m1 => .e2m1
  | .bf16 => .bf16 | .f16 => .f16

/-- The step depth K for a B format. -/
def mxK : MxFmt → Nat
  | .bf16 => 128
  | _ => 256

/-- Bytes of `n` elements of a format. -/
def mxBytes (f : MxFmt) (n : Nat) : Nat := mxBits f * n / 8

/-- `n` packed elements of a format (03 R56). -/
def mxElems (f : MxFmt) (n : Nat) (l : List Byte) : List Nat :=
  let x := leNat (l.take (mxBytes f n))
  (List.range n).map fun i => packedElem (mxBits f) i x

/-- A value times 2^k. -/
def fvScale (k : Int) : FV → FV
  | .fin neg m e => .fin neg m (e + k)
  | x => x

/-- The exact value of an element under a scale code (03 R68). -/
def mxValue (f : MxFmt) (x : Nat) (scale : Byte) : FV :=
  if scale = 0xFF then .nan else fvScale ((scale.toNat : Int) - 127) (valueOf (mxTy f) x)

/-! ## Durations (R155, R156) -/

/-- The band of an A element; none for a zero, an infinity or a NaN. -/
def mxBand (f : MxFmt) (bmin : Int) (x : Nat) : Option Int :=
  match valueOf (mxTy f) x with
  | .fin _ m e => some (((log2 m : Int) + e - bmin) / 8)
  | _ => none

/-- Cycles of one A row. -/
def mxRow (f : MxFmt) (l : List Nat) : Nat :=
  match mxBmin f with
  | none => mxPlanes f
  | some b =>
    let n := (l.filterMap (mxBand f b)).eraseDups.length
    if n = 0 then 2 else mxPlanes f * n

/-- Cycles of a step whose captured rows have `n` elements. -/
def mxStepCycles (f : MxFmt) (n : Nat) (rows : List Byte) : Nat :=
  ((List.range 16).map fun i => mxRow f (mxElems f n (rows.drop (i * mxBytes f n)))).foldl (· + ·) 0

/-- Cycles of a bank load. -/
def mxLoadCycles (f : MxFmt) : Nat := mxBytes f 128 * mxK f / 256


/-! ## Regions -/

/-- `n` rows of `b` bytes from `a` up with a stride, as regions: one where they touch each other. -/
def rowRegions (a stride n b : Nat) : List (Nat × Nat) :=
  if stride = b then [(a, n * b)] else (List.range n).map fun k => (a + k * stride, b)

/-- The offset of slice `k` of an operand that starts at `a`. -/
def sliceAt (a : Nat) (d : Int) (k : Nat) : Nat := ((a : Int) + k * d).toNat

/-- The A regions of slice `k`, for a step of depth `K`. -/
def MxRun.aRegions (x : MxRun) (k : Nat) : List (Nat × Nat) :=
  let n := mxK x.bfmt
  rowRegions (sliceAt x.aoff x.da k) x.astr 16 (mxBytes x.fmt n)
    ++ (match x.asc with
      | some a => [(sliceAt a x.das k, n / 2)]
      | none => [])

/-- The regions of a B slice: rows, and scales where they are used. -/
def bRegions (f : MxFmt) (boff bstr : Nat) (bsc : Option Nat) : List (Nat × Nat) :=
  rowRegions boff bstr (mxK f) (mxBytes f 128)
    ++ (match bsc with
      | some a => [(a, 4 * mxK f)]
      | none => [])

/-- The B regions of slice `k`. -/
def MxRun.bRegions (x : MxRun) (k : Nat) : List (Nat × Nat) :=
  Machine.bRegions x.bfmt (sliceAt x.boff x.db k) x.bstr (if x.bscaled then some (sliceAt x.bsc x.dbs k) else none)

/-- Read ranges of regions. -/
def reads (l : List (Nat × Nat)) : List Rng := l.map fun r => readRng r.1 r.2

/-- Steps that have started. -/
def MxRun.started (x : MxRun) : Nat := x.step + bit x.stepAt.isSome

/-- The ranges of a run that are still on the scoreboard (R165). -/
def MxRun.ranges (x : MxRun) : List Rng :=
  reads (((List.range x.n).filter fun k => decide (x.started ≤ k)).flatMap x.aRegions
    ++ ((List.range x.n).filter fun k => decide (x.loaded < k)).flatMap x.bRegions)

/-- The bank of slice `k`. -/
def MxRun.bankOf (x : MxRun) (k : Nat) : Nat := (x.bank0 + k) % 2

/-! ## Banks (R148 to R150) -/

/-- The accesses of a bank that a command has still to make: whether each writes. -/
def CmdBody.bankUses (b : CmdBody) (mac bank : Nat) : List Bool :=
  match b with
  | .mxload x => if x.mac = mac ∧ x.bank = bank then [true] else []
  | .mxrun x =>
    if x.mac = mac then
      ((List.range x.n).filter fun k => decide (x.step ≤ k) && decide (x.bankOf k = bank)).map (fun _ => false)
        ++ ((List.range x.n).filter fun k => decide (x.loaded < k) && decide (x.bankOf k = bank)).map fun _ => true
    else []
  | _ => []

/-- Whether an earlier command of the workgroup still has an access of the bank that conflicts (R150). -/
def State.bankBehind (s : State) (cmd wg mac bank : Nat) (write : Bool) : Bool :=
  s.cmds.any fun p => decide (p.1 < cmd) && decide (p.2.wg = wg) && (p.2.body.bankUses mac bank).any fun w => write || w

/-- Whether a step of another command runs on the macro. -/
def State.macroBusy (s : State) (cmd wg mac : Nat) : Bool :=
  s.cmds.any fun p => decide (p.1 ≠ cmd) && decide (p.2.wg = wg) && match p.2.body with
    | .mxrun x => decide (x.mac = mac) && x.stepAt.isSome
    | _ => false

/-- Bank `b` of macro `m`. -/
def Wg.bank (w : Wg) (m b : Nat) : Bank := w.banks.getD (2 * m + b) Bank.start

/-- The tag that the commands issued so far leave on a bank (R346). -/
def State.bankTag (s : State) (wg : Nat) (w : Wg) (m b : Nat) : MxFmt × Bool :=
  s.cmds.foldl (fun t p =>
    if p.2.wg = wg then
      match p.2.body with
      | .mxload x => if x.mac = m ∧ x.bank = b then (x.fmt, x.bsc.isSome) else t
      | .mxrun x => if x.mac = m ∧ (p.2.body.bankUses m b).any id then (x.bfmt, x.bscaled) else t
      | _ => t
    else t) ((w.bank m b).fmt, (w.bank m b).scaled)

/-- A bank loaded from the scratchpad (R344). -/
def Wg.loadBank (w : Wg) (f : MxFmt) (boff bstr : Nat) (bsc : Option Nat) : Bank :=
  { fmt := f, scaled := bsc.isSome
    elems := (List.range (mxK f)).flatMap fun k =>
      (mxElems f 128 (w.spad.bytes (boff + k * bstr) (mxBytes f 128))).zipIdx.filterMap fun p =>
        if p.1 = 0 then none else some (128 * k + p.2, BitVec.ofNat 16 p.1)
    scales := match bsc with
      | none => []
      | some a => (List.range (4 * mxK f)).filterMap fun i =>
          let x := w.spad.get (a + i)
          if x = 0x7F then none else some (i, x) }

/-- A bank after a failed load (R167). -/
def junkBank (n : Nat) (f : MxFmt) (scaled : Bool) : Bank :=
  { fmt := f, scaled, elems := tabulate 32768 fun i => (i, BitVec.ofNat 16 (Config.bankJunk n i))
    scales := tabulate 1024 fun i => (i, BitVec.ofNat 8 (Config.bankJunk n (32768 + i))) }

/-! ## A step (R154) -/

/-- The values of column `j` of a bank, for depths 0 to K − 1. -/
def Bank.column (b : Bank) (j : Nat) : List FV :=
  (List.range (mxK b.fmt)).map fun k =>
    mxValue b.fmt (b.elems.getD (128 * k + j) 0).toNat (if b.scaled then b.scales.getD (128 * (k / 32) + j) 0x7F else 0x7F)

/-- The values of row `i` of the captured A slice. -/
def MxRun.row (x : MxRun) (n i : Nat) : List FV :=
  (mxElems x.fmt n (x.acap.drop (i * mxBytes x.fmt n))).zipIdx.map fun p =>
    mxValue x.fmt p.1 (if x.asc.isSome then x.scap.getD (n / 32 * i + p.2 / 32) 0x7F else 0x7F)

/-- The products of a row and a column, each exact. -/
def products (a b : List FV) : List Contrib := (a.zip b).map fun p => contribMul p.1 p.2

/-- A table of elements in place of `t`: element `e` of 2,048 becomes `g e` of what it was. -/
def mapElems (t : Tbl Wide) (g : Nat → Anc → Anc) : Tbl Wide :=
  (List.range 2048).filterMap fun e =>
    let x : Wide := BitVec.ofNat 128 (g e (Anc.ofBits (t.getD e 0).toNat)).bits
    if x = 0 then none else some (e, x)

/-- The partial after the running step, at the tile's anchor; `free` is the argument of the free order. -/
def MxRun.product (x : MxRun) (b : Bank) (anchor : Int) (free : Nat) : Tbl Wide :=
  let rows := (List.range 16).map (x.row (mxK b.fmt))
  let cols := (List.range 128).map b.column
  mapElems x.partl fun e a =>
    a.addAll anchor (fun k => Config.ancOrder free (256 * e + k)) (products (rows.getD (e / 128) []) (cols.getD (e % 128) []))

/-! ## Tiles (R159 to R163) -/

/-- Physical tile `t` of the pool. -/
def Wg.tile (w : Wg) (t : Nat) : Tile := w.tiles.getD t Tile.free

/-- The free physical tiles of the pool. -/
def freeOf (w : Wg) (nt : Nat) : List Nat := (List.range nt).filter fun t => decide ((w.tile t).st = .free)

/-- Whether a tile of the pool is RETIRING. -/
def anyRetiring (w : Wg) (nt : Nat) : Bool := (List.range nt).any fun t => decide ((w.tile t).st = .retiring)

/-- A tile name as an operand that a command reads (R161). -/
def tileSrc (t : BitVec 3) : Opnd := ⟨.tile, t.toNat, 1, true, false⟩
/-- A macro as an operand (R149). -/
def macSrc (m : BitVec 2) : Opnd := ⟨.mac, m.toNat, 1, true, false⟩

/-- The physical tile that a name is mapped to. -/
def Cx.phys (c : Cx) (t : BitVec 3) : Nat := c.fb.tiles.getD t.toNat 0

/-- The status flags of a tile: the OR over its elements. -/
def Tile.flags (t : Tile) : Nat := t.elems.foldl (fun x p => x ||| (Anc.ofBits p.2.toNat).flags) 0

/-- The descriptor of R163. -/
def tileWord (w : Wg) (nt t : Nat) : Word :=
  let x := w.tile t
  BitVec.ofNat 64 (w.ptile.getD t 0 % 64 * 2 ^ 58 + wrapTo 10 x.anchor * 2 ^ 48 + (freeOf w nt).length % 256 * 2 ^ 40 + 2 ^ 32
    + x.flags)

/-- A LIVE tile of zeros at an anchor. -/
def Tile.fresh (anchor : Int) : Tile := ⟨.live, anchor, []⟩

/-- Whether an earlier command bound to the tile still has its effect on it to make, among those that `sel` chooses. -/
def State.tileBehind (s : State) (cmd wg tile : Nat) (sel : CmdBody → Bool) : Bool :=
  s.cmds.any fun p => decide (p.1 < cmd) && decide (p.2.wg = wg) && decide (p.2.body.tile? = some tile) && sel p.2.body

/-- Accumulating commands. -/
def CmdBody.accumulates : CmdBody → Bool
  | .mxrun _ => true
  | _ => false

/-- Commands that change their tile. -/
def CmdBody.changes : CmdBody → Bool
  | .mxrun _ => true
  | .mxzero _ => true
  | _ => false

/-- Commands with an effect on their tile still to make; a drain that has started has made it. -/
def CmdBody.touches : CmdBody → Bool
  | .drain x => x.since.isNone
  | _ => true

/-! ## Issue -/

/-- MISALIGN checks of R152 on rows: offset, stride, and the stride against the row bytes. -/
def rowChecks (off stride b : Nat) : List Check :=
  [aligned off 32, aligned stride 32, ⟨decide (stride < b), .misalign, BitVec.ofNat 64 stride⟩]

/-- A region of order 5 that may start below 0. -/
def inSpadInt (spad : Nat) (a : Int) (n : Nat) : Check :=
  ⟨decide (a < 0) || decide ((spad : Int) < a + n), .spadbound, BitVec.ofInt 64 (if a < 0 then a else max a spad)⟩

/-- An engine command issued: INTERLOCK while an acquire is still out. -/
def Cx.mxIssue (c : Cx) (rngs : List Rng) (body : CmdBody) : Res :=
  if c.acquiring then c.wait .interlock else .ok (c.command c.s .ocm rngs body none 0)

/-- Operands of a form with an optional scale register. -/
def scaleOpnds : Option (BitVec 6) → List Opnd
  | some b => [sSrc b]
  | none => []

/-- R344: MXLOADB. -/
def execMxloadb (o : MxOp) (s : State) : Out :=
  issue s (sSrc o.a :: scaleOpnds o.scale ++ [macSrc o.mac]) fun c =>
    let boff := loHalf (c.sreg o.a)
    let bstr := hiHalf (c.sreg o.a)
    let bsc := o.scale.map fun b => loHalf (c.sreg b)
    let row := mxBytes o.fmt 128
    c.checked (rowChecks boff bstr row ++ bsc.toList.map (fun a => aligned a 32)
        ++ inSpad c.spadsz boff ((mxK o.fmt - 1) * bstr + row) :: bsc.toList.map fun a => inSpad c.spadsz a (4 * mxK o.fmt)) <|
      c.mxIssue (reads (bRegions o.fmt boff bstr bsc))
        (.mxload { mac := o.mac.toNat, bank := bit o.bank, fmt := o.fmt, boff, bstr, bsc, since := c.s.clkOf c.w, got := [] })

/-- A run of `n` steps on macro `mac`, with nothing started. -/
def mxStart (tile mac bank0 : Nat) (fmt : MxFmt) (n aoff astr : Nat) (asc : Option Nat) (tag : MxFmt × Bool) : MxRun :=
  { tile, mac, bank0, fmt, n, aoff, astr, asc, da := 0, das := 0, boff := 0, bstr := 0, bsc := 0, db := 0, dbs := 0
    bfmt := tag.1, bscaled := tag.2, step := 0, stepAt := none, loaded := 0, loadAt := none, endAt := 0, got := [], gotB := []
    acap := [], scap := [], partl := [], failed := false }

/-- R345: MXMUL. -/
def execMxmul (o : MxOp) (s : State) : Out :=
  issue s (tileSrc o.t :: sSrc o.a :: scaleOpnds o.scale ++ [macSrc o.mac]) fun c =>
    let aoff := loHalf (c.sreg o.a)
    let astr := hiHalf (c.sreg o.a)
    let asc := o.scale.map fun b => loHalf (c.sreg b)
    let row := mxBytes o.fmt 256
    c.checked (rowChecks aoff astr row ++ asc.toList.map (fun a => aligned a 32)
        ++ inSpad c.spadsz aoff (15 * astr + row) :: asc.toList.map fun a => inSpad c.spadsz a 128) <|
      let x := mxStart (c.phys o.t) o.mac.toNat (bit o.bank) o.fmt 1 aoff astr asc
        (c.s.bankTag c.fb.wg c.w o.mac.toNat (bit o.bank))
      c.mxIssue x.ranges (.mxrun x)

/-- The regions of the slices of a loop, in order, as R330 checks them. -/
def MxRun.slices (x : MxRun) (spad : Nat) : List Check :=
  let n := mxK x.bfmt
  let at' (a : Nat) (d : Int) (k : Nat) : Int := (a : Int) + k * d
  (List.range x.n).flatMap fun k =>
    [inSpadInt spad (at' x.aoff x.da k) (15 * x.astr + mxBytes x.fmt n)]
      ++ x.asc.toList.map (fun a => inSpadInt spad (at' a x.das k) (n / 2))
      ++ (if k = 0 then [] else
        inSpadInt spad (at' x.boff x.db k) ((n - 1) * x.bstr + mxBytes x.bfmt 128)
          :: (if x.bscaled then [inSpadInt spad (at' x.bsc x.dbs k) (4 * n)] else []))

/-- The low and high halves of a register, signed. -/
def loInt (x : Word) : Int := (x.extractLsb' 0 32).toInt
def hiInt (x : Word) : Int := (x.extractLsb' 32 32).toInt

/-- An alignment of a signed value. -/
def alignedInt (x : Int) : Check := ⟨decide (x % 32 ≠ 0), .misalign, BitVec.ofInt 64 x⟩

/-- The run that a loop's block describes. -/
def Cx.loopRun (c : Cx) (o : MxloopOp) (n : Nat) : MxRun :=
  let b := c.blk o.a
  { mxStart (c.phys o.t) o.mac.toNat (bit o.bank) o.fmt n (loHalf (b 0)) (hiHalf (b 0))
      (if o.ascale then some (loHalf (b 4)) else none) (c.s.bankTag c.fb.wg c.w o.mac.toNat (bit o.bank)) with
    da := loInt (b 1), das := hiInt (b 1), boff := loHalf (b 2), bstr := hiHalf (b 2), bsc := hiHalf (b 4)
    db := loInt (b 3), dbs := hiInt (b 3) }

/-- The checks of a loop after its count (R346). -/
def MxRun.checks (x : MxRun) (spad : Nat) : List Check :=
  let when' (b : Bool) (l : List Check) : List Check := if b then l else []
  alignedInt x.da :: when' x.asc.isSome [alignedInt x.das] ++ alignedInt x.db :: when' x.bscaled [alignedInt x.dbs]
    ++ rowChecks x.aoff x.astr (mxBytes x.fmt (mxK x.bfmt)) ++ x.asc.toList.map (fun a => aligned a 32)
    ++ when' (decide (1 < x.n)) (rowChecks x.boff x.bstr (mxBytes x.bfmt 128) ++ when' x.bscaled [aligned x.bsc 32])
    ++ x.slices spad

/-- R346: MXLOOP. -/
def execMxloop (o : MxloopOp) (s : State) : Out :=
  issue s (tileSrc o.t :: block o.a 5 :: regOrLongOpnds o.count ++ [macSrc o.mac]) fun c =>
    let n := (c.regOrLong o.count).toNat
    let reg := match o.count with
      | .reg b => b.toNat
      | .long _ => 0
    let x := c.loopRun o n
    if n < 1 ∨ 65535 < n then c.trap .illegal (BitVec.ofNat 64 reg)
    else c.checked (x.checks c.spadsz) <| c.mxIssue x.ranges (.mxrun x)

/-- The state with physical tile `t` taken for name `n` at an anchor. -/
def Cx.takeTile (c : Cx) (s : State) (n t : Nat) (anchor : Int) : State :=
  ((s.modWg c.fb.wg fun w => { w with tiles := w.tiles.put t (Tile.fresh anchor) }).modFib c.f fun fb =>
    { fb with tiles := fb.tiles.put n t }).drawn

/-- R347, R159: MXINIT. -/
def execMxinit (o : MxinitOp) (s : State) : Out :=
  issue s (regOrLongOpnds o.anchor) fun c =>
    let x := (c.regOrLong o.anchor).toInt
    let n := o.t.toNat
    let reg := match o.anchor with
      | .reg b => b.toNat
      | .long _ => 0
    c.checked [limit (decide (x < -512) || decide (511 < x)) reg] <|
      let s := match c.fb.tiles.find? n with
        | some t => c.s.leaveTile c.fb.wg t
        | none => c.s
      match s.wgs.find? c.fb.wg with
      | none => .ok s
      | some w =>
        match freeOf w c.l.kernel.nt with
        | [] =>
          if anyRetiring w c.l.kernel.nt then .part s (fun fb => { fb with tiles := fb.tiles.del n }) .interlock
          else c.trap .regbound (regInfo .tile false n)
        | [t] => .ok (c.takeTile s n t x)
        | l => .ok (c.takeTile s n (l.getD (Config.tilePick s.free l.length % l.length) 0) x)

/-- Element types of a drain: bits of an element. -/
def drainBits (t : Ty) : Nat := t.width

/-- The SRS after `n` successors. -/
def srsAfter : Nat → Lane → Lane
  | 0, g => g
  | n + 1, g => srsAfter n (nextSrs g)

/-- R348, R164: MXDRAIN. -/
def execMxdrain (o : MxdrainOp) (s : State) : Out :=
  issue s [tileSrc o.t, sSrc o.a] fun c =>
    let doff := loHalf (c.sreg o.a)
    let dstr := hiHalf (c.sreg o.a)
    let row := 16 * drainBits o.ty
    let g := c.fb.srs.getD 0 0
    c.checked (rowChecks doff dstr row ++ [inSpad c.spadsz doff (15 * dstr + row)]) <|
      if c.acquiring then c.wait .interlock
      else
        let s := if o.rnd = .rsr then c.setF fun fb => { fb with srs := fb.srs.put 0 (srsAfter 2048 g) } else c.s
        .ok (c.command s .ocm ((rowRegions doff dstr 16 row).map fun r => writeRng r.1 r.2)
          (.drain { tile := c.phys o.t, doff, dstr, ty := o.ty, rnd := o.rnd, sat := o.sat, srs := g, since := none, rows := [] })
          none 0)

/-- R349: MXSWAP. -/
def execMxswap (o : MxswapOp) (s : State) : Out :=
  issue s [] fun c => .ok (c.setF fun fb =>
    let put (t : Tbl Nat) (n : Nat) (x : Option Nat) : Tbl Nat := match x with
      | some p => t.put n p
      | none => t.del n
    { fb with tiles := put (put fb.tiles o.t.toNat (fb.tiles.find? o.u.toNat)) o.u.toNat (fb.tiles.find? o.t.toNat) })

/-- R349: MXZERO. -/
def execMxzero (o : MxzeroOp) (s : State) : Out :=
  issue s [tileSrc o.t] fun c => .ok (c.command c.s .ocm [] (.mxzero (c.phys o.t)) none 0)

/-- A command with a scalar result, uncounted where `ctr` is none: with L = 0 the fibre waits for it in INTERLOCK, with
L above 0 the result is pending (R329). -/
def Cx.answered (c : Cx) (ctr : Option Ctr) (look d : Nat) (body : CmdBody) : Res :=
  if c.again then c.wait .interlock
  else
    let id := c.s.nextId
    if look = 0 then .stay (c.commandIn (c.setF fun fb => { fb with await := .cmd id c.len, st := .interlock }) ctr [] body none d)
    else .ok (c.commandIn (c.s.pendAs c.f id look 1 [(.s d, .s 0)] .await) ctr [] body (some id) d)

/-- The result `x` of such a command given to its fibre. -/
def State.giveScalar (s : State) (cmd : Nat) (c : Cmd) (x : Word) : State :=
  match c.fib with
  | none => s
  | some f => match c.back with
    | some id => s.modFib f fun fb =>
        { fb with pend := fb.pend.map fun p => if p.id = id then { p with dst := [(.s c.dst, .s x)], left := 0, st := .ready } else p }
    | none => match s.fibres.find? f with
      | some fb => match fb.await with
        | .cmd id n =>
          if id = cmd then (s.setFib f (({ fb with await := .none }.putReg (.s c.dst) (.s x)).advance n)).makeReady f else s
        | _ => s
      | none => s

/-- R350: MXSTAT. -/
def execMxstat (o : MxstatOp) (s : State) : Out :=
  issue s [sDst o.d, tileSrc o.t] fun c => c.answered none o.look.toNat o.d.toNat (.mxstat (c.phys o.t))

/-! ## Events -/

/-- The sectors of regions. -/
def sectorsIn (l : List (Nat × Nat)) : List Nat := l.flatMap fun r => sectorsOf r.1 r.2

/-- The first FAILED sector among `l`: its cause and offset. -/
def Wg.broken (w : Wg) (l : List Nat) : Option (Cause × Word) :=
  l.findSome? fun k => (w.failedAt (32 * k) 32).map fun c => (c, BitVec.ofNat 64 (32 * k))

/-- The sectors of `l` that a matrix command reads now, where `got` are those it has read (R166, R167): none that is
ARRIVING; at its first try the first of the others and any more by a free choice, then all. -/
def Wg.takes (w : Wg) (got : Tbl (List Byte)) (l : List Nat) (n : Nat) : List Nat :=
  let here := l.filter fun k => !w.landing (32 * k) 32 && (got.find? k).isNone
  if got.isEmpty then here.filter fun k => here.head? == some k || Config.takesSector n k else here

/-- The bytes read so far, with the sectors `l`. -/
def Wg.taken (w : Wg) (got : Tbl (List Byte)) (l : List Nat) : Tbl (List Byte) :=
  l.foldl (fun t k => t.put k (w.spad.bytes (32 * k) 32)) got

/-- The scratchpad as a command has read it. -/
def Wg.seen (w : Wg) (got : Tbl (List Byte)) : Wg := { w with spad := got.foldl (fun m p => m.putBytes (32 * p.1) p.2) w.spad }

/-- What a try of a command to read sectors comes to. -/
inductive Capture where
  | failed (c : Cause) (a : Word)
  /-- Some are still to be read. -/
  | part (got : Tbl (List Byte))
  | all (got : Tbl (List Byte))

/-- A try of a command to read the sectors of regions. -/
def Wg.capture (w : Wg) (got : Tbl (List Byte)) (rs : List (Nat × Nat)) (n : Nat) : Capture :=
  let l := sectorsIn rs
  let now := w.takes got l n
  match w.broken now with
  | some (c, a) => .failed c a
  | none =>
    let got := w.taken got now
    if l.all fun k => (got.find? k).isSome then .all got else .part got

/-- A run's command after `x`. -/
def Cmd.withRun (c : Cmd) (x : MxRun) : Cmd := { c with body := .mxrun x, rngs := x.ranges }

/-- The load of a bank by MXLOADB reads its sectors, and ends once all are read. -/
def State.loadEnds (s : State) (e : EngCx) (x : MxLoad) : State :=
  let ran := since' (s.clkOf e.w) x.since
  let key := 2 * x.mac + x.bank
  if decide (ran < 8) || s.bankBehind e.cmd e.c.wg x.mac x.bank true || s.behind e.cmd e.c.wg e.c.rngs then s
  else match e.w.capture x.got (bRegions x.fmt x.boff x.bstr x.bsc) s.free with
    | .failed c a =>
      ((s.modWg e.c.wg fun w => { w with banks := w.banks.put key (junkBank s.free x.fmt x.bsc.isSome) }).drawn).completeCmd
        e.cmd (e.c.failing c a)
    | .part got => (s.setCmd e.cmd { e.c with body := .mxload { x with got } }).drawn
    | .all got =>
      if ran < 8 + mxLoadCycles x.fmt then (s.setCmd e.cmd { e.c with body := .mxload { x with got } }).drawn
      else (s.modWg e.c.wg fun w => { w with banks := w.banks.put key ((w.seen got).loadBank x.fmt x.boff x.bstr x.bsc) }).completeCmd e.cmd e.c

/-- The sequencer's load of the next slice of a loop. Where it fails while a step runs, that step still ends and its
products stay (DESIGN CHOICE, log entry 94). -/
def State.sliceLoads (s : State) (e : EngCx) (x : MxRun) : State :=
  let k := x.loaded + 1
  let b := x.bankOf k
  match x.loadAt with
  | none => s
  | some t =>
    if decide (x.n ≤ k) || s.bankBehind e.cmd e.c.wg x.mac b true || s.behind e.cmd e.c.wg (reads (x.bRegions k)) then s
    else
      let key := 2 * x.mac + b
      match e.w.capture x.gotB (x.bRegions k) s.free with
      | .failed c a =>
        let y := { x with n := k, loadAt := none, gotB := [], failed := true }
        ((s.modWg e.c.wg fun w => { w with banks := w.banks.put key (junkBank s.free x.bfmt x.bscaled) }).drawn).setCmd e.cmd
          ((e.c.failing c a).withRun y)
      | .part gotB => (s.setCmd e.cmd (e.c.withRun { x with gotB })).drawn
      | .all gotB =>
        if since' (s.clkOf e.w) t < mxLoadCycles x.bfmt then (s.setCmd e.cmd (e.c.withRun { x with gotB })).drawn
        else
          (s.modWg e.c.wg fun w =>
              { w with banks := w.banks.put key ((w.seen gotB).loadBank x.bfmt (sliceAt x.boff x.db k) x.bstr
                  (if x.bscaled then some (sliceAt x.bsc x.dbs k) else none)) }).setCmd e.cmd
            (e.c.withRun { x with loaded := k, loadAt := none, gotB := [] })

/-- R344, R158: a bank load ends. -/
def execBankLoadEnd (s : State) : Out :=
  match s.cur with
  | .event (.bankLoadEnd cmd) =>
    match s.engCx cmd with
    | some e => match e.c.body with
      | .mxload x => .next (s.loadEnds e x)
      | .mxrun x => .next (s.sliceLoads e x)
      | _ => .next s
    | none => .next s
  | _ => .next s

/-- The next step of a run captures its A rows and scales, and starts once it has all; the load of the next slice starts
with it. -/
def State.stepStarts (s : State) (e : EngCx) (x : MxRun) : State :=
  let k := x.step
  let now := s.clkOf e.w
  let b := x.bankOf k
  let x := if k = 0 then { x with bfmt := (e.w.bank x.mac b).fmt, bscaled := (e.w.bank x.mac b).scaled } else x
  let l := x.aRegions k
  if decide (x.n ≤ k) || x.stepAt.isSome || decide (x.loaded < k) || (decide (k = 0) && decide (since' now e.c.since < 8))
      || s.macroBusy e.cmd e.c.wg x.mac || s.bankBehind e.cmd e.c.wg x.mac b false || s.behind e.cmd e.c.wg (reads l) then s
  else match e.w.capture x.got l s.free with
    | .failed c a =>
      s.setCmd e.cmd ((e.c.failing c a).withRun { x with n := k, loadAt := none, got := [], gotB := [], failed := true, endAt := now })
    | .part got => (s.setCmd e.cmd (e.c.withRun { x with got })).drawn
    | .all got =>
      let n := mxK x.bfmt
      let a := sliceAt x.aoff x.da k
      let m := (e.w.seen got).spad
      s.setCmd e.cmd (e.c.withRun
        { x with
          stepAt := some now, loadAt := if k + 1 < x.n then some now else none, got := [], gotB := []
          acap := (List.range 16).flatMap fun i => m.bytes (a + i * x.astr) (mxBytes x.fmt n)
          scap := match x.asc with
            | some a => m.bytes (sliceAt a x.das k) (n / 2)
            | none => [] })

/-- R158, R165: a step starts. -/
def execMatrixStepStart (s : State) : Out :=
  match s.cur with
  | .event (.matrixStepStart cmd) =>
    match s.engCx cmd with
    | some e => match e.c.body with
      | .mxrun x => .next (s.stepStarts e x)
      | _ => .next s
    | none => .next s
  | _ => .next s

/-- The running step ends: its products are in the partial. -/
def State.stepEnds (s : State) (e : EngCx) (x : MxRun) : State :=
  match x.stepAt with
  | none => s
  | some t =>
    let now := s.clkOf e.w
    let n := mxK x.bfmt
    if since' now t < mxStepCycles x.fmt n x.acap then s
    else
      let b := e.w.bank x.mac (x.bankOf x.step)
      ((s.setCmd e.cmd (e.c.withRun
        { x with step := x.step + 1, stepAt := none, endAt := now, acap := [], scap := []
                 partl := x.product b (e.w.tile x.tile).anchor s.free })).drawn).bumpWg e.w 0x0B 1

/-- R154: a step ends. -/
def execMatrixStepEnd (s : State) : Out :=
  match s.cur with
  | .event (.matrixStepEnd cmd) =>
    match s.engCx cmd with
    | some e => match e.c.body with
      | .mxrun x => .next (s.stepEnds e x)
      | _ => .next s
    | none => .next s
  | _ => .next s

/-- The tile with a partial combined into it (03 R71). -/
def Tile.combine (t : Tile) (p : Tbl Wide) : Tile :=
  { t with elems := mapElems t.elems fun e a => a.combine (Anc.ofBits (p.getD e 0).toNat) }

/-- A command bound to a tile that completes; a RETIRING tile may become FREE. -/
def State.tileDone (s : State) (cmd : Nat) (c : Cmd) : State := (s.completeCmd cmd c).freeTiles c.wg

/-- R156, R162: the partial of a run combines into its tile. -/
def execMatrixCommandComplete (s : State) : Out :=
  match s.cur with
  | .event (.matrixCommandComplete cmd) =>
    match s.engCx cmd with
    | some e => match e.c.body with
      | .mxrun x =>
        if decide (x.step < x.n) || x.stepAt.isSome || x.loadAt.isSome || decide (since' (s.clkOf e.w) x.endAt < 16)
            || s.tileBehind cmd e.c.wg x.tile (fun b => b.touches && !b.accumulates) then .next s
        else .next ((s.modWg e.c.wg fun w => { w with tiles := w.tiles.put x.tile ((w.tile x.tile).combine x.partl) }).tileDone
          cmd e.c)
      | _ => .next s
    | none => .next s
  | _ => .next s

/-- Row `i` of a tile drained under `x`. -/
def MxDrain.row (x : MxDrain) (t : Tile) (i : Nat) : List Byte :=
  toLe (packElems (drainBits x.ty) ((List.range 128).map fun j =>
    (Anc.ofBits (t.elems.getD (128 * i + j) 0).toNat).drain t.anchor x.ty x.rnd x.sat
      (if x.rnd = .rsr then (srsAfter (128 * i + j + 1) x.srs).toNat else 0))) (16 * drainBits x.ty)

/-- R162: a drain starts, and its tile is converted. -/
def execDrainStart (s : State) : Out :=
  match s.cur with
  | .event (.drainStart cmd) =>
    match s.engCx cmd with
    | some e => match e.c.body with
      | .drain x =>
        if x.since.isSome || s.tileBehind cmd e.c.wg x.tile CmdBody.changes then .next s
        else .next (s.setCmd cmd { e.c with
          body := .drain { x with since := some (s.clkOf e.w), rows := (List.range 16).map (x.row (e.w.tile x.tile)) } })
      | _ => .next s
    | none => .next s
  | _ => .next s

/-- R164: a drain has written its region. -/
def execDrainComplete (s : State) : Out :=
  match s.cur with
  | .event (.drainComplete cmd) =>
    match s.engCx cmd with
    | some e => match e.c.body with
      | .drain x =>
        match x.since with
        | none => .next s
        | some t =>
          if decide (since' (s.clkOf e.w) t < 48) || s.behind cmd e.c.wg e.c.rngs then .next s
          else .next ((s.modWg e.c.wg fun w =>
            x.rows.zipIdx.foldl (fun w r => w.engineWrite (x.doff + r.2 * x.dstr) r.1) w).tileDone cmd e.c)
      | _ => .next s
    | none => .next s
  | _ => .next s

/-- R162, R349: MXZERO takes effect and completes. -/
def execMxzeroEffect (s : State) : Out :=
  match s.cur with
  | .event (.mxzeroEffect cmd) =>
    match s.engCx cmd with
    | some e => match e.c.body with
      | .mxzero t =>
        if s.tileBehind cmd e.c.wg t CmdBody.touches then .next s
        else .next ((s.modWg e.c.wg fun w => { w with tiles := w.tiles.put t { w.tile t with elems := [] } }).tileDone cmd e.c)
      | _ => .next s
    | none => .next s
  | _ => .next s

/-- R350, R163: MXSTAT gives its result. -/
def execMxstatResult (s : State) : Out :=
  match s.cur with
  | .event (.mxstatResult cmd) =>
    match s.engCx cmd with
    | some e => match e.c.body with
      | .mxstat t =>
        if s.tileBehind cmd e.c.wg t CmdBody.changes then .next s
        else .next ((s.giveScalar cmd e.c (tileWord e.w e.l.kernel.nt t)).tileDone cmd e.c)
      | _ => .next s
    | none => .next s
  | _ => .next s

end Sys2Proof.Machine
end

