-- ==== Sys2Proof/Machine/Service.lean ====
section
/-! DEFINITION. Service cores: levees and their checks (16 R386 to R390), exceptions with the RISC-V trap entry
(log entry 6), translation of service-core accesses (18 R417, R421), and the check of a store to a control register
(16 R393). -/

namespace Sys2Proof.Machine

/-! ## Levees (R386, R387) -/

/-- CUR. -/
def Levee.cur (c : Levee) : Nat := (c.val.extractLsb' 0 64).toNat
/-- LEN. -/
def Levee.len (c : Levee) : Nat := (c.val.extractLsb' 64 18).toNat
/-- BACK, signed. -/
def Levee.back (c : Levee) : Int := (c.val.extractLsb' 82 20).toInt
/-- GR. -/
def Levee.gr (c : Levee) : Nat := (c.val.extractLsb' 102 6).toNat
/-- LOCK. -/
def Levee.lock (c : Levee) : Nat := (c.val.extractLsb' 108 12).toNat
/-- RIGHTS. -/
def Levee.rights (c : Levee) : Nat := (c.val.extractLsb' 120 8).toNat

/-- A levee from its fields. -/
def Levee.make (tag : Bool) (rights lock gr : Nat) (back : Int) (len cur : Nat) : Levee :=
  { tag, val := BitVec.ofNat 8 rights ++ BitVec.ofNat 12 lock ++ BitVec.ofNat 6 gr ++ BitVec.ofInt 20 back
      ++ BitVec.ofNat 18 len ++ BitVec.ofNat 64 cur }

/-- An integer in a register: untagged, bits [127:64] zero. -/
def Levee.int (x : Word) : Levee := { tag := false, val := x.setWidth 128 }

/-- Base of the span (R387). -/
def Levee.base (c : Levee) : Int := ((c.cur / 2 ^ c.gr : Nat) - c.back) * ((2 ^ c.gr : Nat) : Int)
/-- Top of the span, exclusive. -/
def Levee.top (c : Levee) : Int := c.base + c.len * ((2 ^ c.gr : Nat) : Int)
/-- Malformed under R387. -/
def Levee.malformed (c : Levee) : Bool := decide (c.gr > 52) || decide (c.base < 0) || decide (c.top > 2 ^ 64)

/-- Move of R387. -/
def Levee.move (c : Levee) (a : Nat) : Levee :=
  let b := c.back + (a / 2 ^ c.gr : Nat) - (c.cur / 2 ^ c.gr : Nat)
  Levee.make (c.tag && decide (-(2 ^ 19) ≤ b) && decide (b < 2 ^ 19)) c.rights c.lock c.gr b c.len a

/-- Smallest granule exponent from `g` up, among `k` values, whose length in granules fits. -/
def granule (lo hi g : Nat) : Nat → Nat
  | 0 => g
  | k + 1 => if ceilDiv hi (2 ^ g) - lo / 2 ^ g ≤ 262143 then g else granule lo hi (g + 1) k

/-- Narrow of R390 without its check: the new levee, and the end of the requested range. -/
def Levee.narrowed (c : Levee) (len : Nat) : Levee × Nat :=
  let lo := c.cur
  let hi := c.cur + len
  let g := granule lo hi 0 64
  (Levee.make c.tag c.rights c.lock g 0 (ceilDiv hi (2 ^ g) - lo / 2 ^ g) lo, hi)

/-- Rights of an access (R386). -/
def rRD : Nat := 1
def rWR : Nat := 2
def rFX : Nat := 4
def rLVR : Nat := 8
def rLVW : Nat := 16
def rCTL : Nat := 32
def rIOP : Nat := 64
def rKEY : Nat := 128

/-- Whether a levee holds every right of `need`. -/
def Levee.has (c : Levee) (need : Nat) : Bool := decide (c.rights &&& need = need)

/-- The first failing check of R388 for `n` bytes at `a`. -/
def Levee.check (c : Levee) (need a n : Nat) : Option Nat :=
  if !c.tag then some 1
  else if c.lock ≠ 0 then some 2
  else if !c.has need then some 3
  else if (a : Int) < c.base ∨ c.top < (a + n : Nat) then some 4
  else none

/-! ## Service cores -/

/-- Service core `n`. -/
def State.sc (s : State) (n : Nat) : Sc := s.scs.getD n (Sc.start false)
/-- The state with a service core replaced. -/
def State.setSc (s : State) (n : Nat) (x : Sc) : State := { s with scs := s.scs.put n x }
/-- Register `r`; x0 reads as an untagged levee of all zeros. -/
def Sc.reg (x : Sc) (r : BitVec 5) : Levee := if r = 0 then .null else x.x.getD r.toNat .null
/-- A register written; x0 discards it. -/
def Sc.setReg (x : Sc) (r : BitVec 5) (v : Levee) : Sc := if r = 0 then x else { x with x := x.x.put r.toNat v }
/-- The program counter after an instruction of `n` bytes. -/
def Sc.step (x : Sc) (n : Nat) : Sc := { x with pc := x.pc.move ((x.pc.cur + n) % 2 ^ 64) }

/-- The trap entries of the RISC-V privileged architecture, to the handler `at'`. -/
def Sc.enterS (x : Sc) (cause tval : Word) (at' : Levee) : Sc :=
  { x with sepc := x.pc, scause := cause, stval := tval, spp := x.mode == .supervisor, spie := x.sie, sie := false
           mode := .supervisor, pc := at' }
def Sc.enterM (x : Sc) (cause tval : Word) (at' : Levee) : Sc :=
  { x with mepc := x.pc, mcause := cause, mtval := tval, mpp := x.mode, mpie := x.mie, mie := false, mode := .machine
           pc := at' }

/-- Taking an exception (RISC-V privileged architecture; log entry 6): to supervisor mode where it is delegated and the
core is below machine mode, else to machine mode. `lv` is the code of a levee fault (R388). -/
def Sc.exception (x : Sc) (cause : Nat) (tval : Word) (lv : Option Nat) : Sc :=
  let x := match lv with
    | some k => { x with lvcause := BitVec.ofNat 64 k }
    | none => x
  if x.medeleg.getLsbD cause && x.mode != .machine then
    x.enterS (BitVec.ofNat 64 cause) tval x.stvec
  else x.enterM (BitVec.ofNat 64 cause) tval x.mtvec

/-- A synchronous exception of service core `n`. -/
def State.scTrap (s : State) (n cause : Nat) (tval : Word) (lv : Option Nat := none) : State :=
  s.setSc n ((s.sc n).exception cause tval lv)

/-- The kinds of a service core's accesses. -/
inductive ScKind where
  | fetch | load | store | amo
  deriving DecidableEq, Repr

/-- Page-fault code of a kind. -/
def ScKind.pageFault : ScKind → Nat
  | .fetch => 12 | .load => 13 | .store => 15 | .amo => 15
/-- Access-fault code of a kind. -/
def ScKind.accessFault : ScKind → Nat
  | .fetch => 1 | .load => 5 | .store => 7 | .amo => 7
/-- Whether a kind writes. -/
def ScKind.writes : ScKind → Bool
  | .store | .amo => true
  | _ => false

/-- The mode in whose name an access is made: MPP's for data accesses under MPRV (log entry 8). -/
def Sc.accessMode (x : Sc) (k : ScKind) : Mode := if x.mst.getLsbD 17 && k != .fetch then x.mpp else x.mode

/-- Whether a service core's accesses are translated: below machine mode with satp.MODE 14 (R417). -/
def Sc.translates (x : Sc) (k : ScKind) : Bool :=
  x.accessMode k != .machine && decide ((x.satp.extractLsb' 60 4).toNat = 14)

/-- CRBASE (R393). -/
def crBase : Nat := 0x000F000000000000
/-- Whether a physical address lies in control-register space. -/
def inCtl (pa : Nat) : Bool := decide (crBase ≤ pa) && decide (pa < crBase + 0x9000000)
/-- Whether a physical address lies in configuration space (20 R457). -/
def inEcam (pa : Nat) : Bool := decide (0x000F010000000000 ≤ pa) && decide (pa < 0x000F010000000000 + 32 * 0x10000000)

/-- The result of a service core's address. -/
inductive ScAddr where
  /-- Memory, with the translation where there is one. -/
  | mem (pa : Nat) (x : Option Xl)
  /-- A control register, configuration space, a switch through window `k`, or a device behind a BAR. -/
  | ctl (pa : Nat)
  | ecam (pa : Nat)
  | switch (k pa : Nat)
  | device (pa : Nat)
  | fault (cause : Nat)
  /-- A severed window. -/
  | lost (cause k : Nat)
  /-- A missing CTL or IOP right (R388). -/
  | levee (code : Nat)
  /-- The access waits at the home before MEMREADY (23 R491). -/
  | blocked
  /-- A write to a page under write-block (18 R434). -/
  | stalled
  deriving DecidableEq, Repr

/-- What lies at a physical address of a service core of partition `p`. -/
def State.scPlace (s : State) (p : Nat) (lv : Levee) (k : ScKind) (pa : Nat) (t : Option Xl) : ScAddr :=
  if inCtl pa then (if lv.has rCTL then .ctl pa else .levee 3)
  else if inEcam pa then (if lv.has (rCTL + rIOP) then .ecam pa else .levee 3)
  else if !s.boot.memready then .blocked
  else match s.place p pa with
    | .refused => .fault k.accessFault
    | .severed w => .lost k.accessFault w
    | .reduce _ => .fault k.accessFault
    | .switch w => .switch w pa
    | _ => .mem pa t

/-- Translation and home checks of a service core's access of `n` bytes at `a` (18 R421, 16 R397, 19 R446, R452): the
permission, the ranges, the attributes of the page, and last write-block. -/
def State.scAddr (s : State) (c : Nat) (lv : Levee) (k : ScKind) (a : Word) (n : Nat) : ScAddr :=
  match s.scPart c with
  | none => .fault k.accessFault
  | some p =>
    if (s.sc c).translates k then
      if !canonical a then .fault k.pageFault
      else match s.leafOf p a s.free with
        | none => .fault k.pageFault
        | some l =>
          let e := l.e
          let pa := l.pa a
          let missing := match k with
            | .fetch => !ebit e 4
            | .load => !ebit e 2
            | _ => !ebit e 3
          if missing then .fault k.pageFault
          else if leafCpol e = 2 then
            if !lv.has rIOP then .levee 3
            else if inCtl pa || inEcam pa then s.scPlace p lv k pa none
            else if k = .amo then .fault k.accessFault
            else if k.writes && ebit e 11 then .stalled
            else .device pa
          else match s.scPlace p lv k pa (some { va := a, pa, leaf := l, away := false }) with
            | .mem pa x =>
              if ebit e 10 && (k == .amo || (k == .store && (decide (n < 4) || decide (a.toNat % 4 ≠ 0)))) then .fault k.accessFault
              else if k.writes && ebit e 11 then .stalled
              else .mem pa x
            | r => r
    else s.scPlace p lv k a.toNat none

/-- The rights that an access needs for where it goes: CTL for a control register, and IOP in addition for
configuration space and for an I/O page (R388). -/
def State.placeRights (s : State) (c : Nat) (a : Word) : Nat :=
  let at' (pa : Nat) : Nat := if inCtl pa then rCTL else if inEcam pa then rCTL ||| rIOP else 0
  if (s.sc c).translates .load then
    match (s.scPart c).bind fun p => s.leafOf p a s.free with
    | none => 0
    | some l => at' (l.pa a) ||| (if leafCpol l.e = 2 then rIOP else 0)
  else at' a.toNat

/-- The checks of R388 in table order on an access of `n` bytes at `a` by service core `c`; `need` are the rights of its
kind. -/
def State.leveeCheck (s : State) (c : Nat) (lv : Levee) (need : Nat) (a : Word) (n : Nat) : Option Nat :=
  lv.check (need ||| s.placeRights c a) a.toNat n

/-! ## Control-register space (16 R393) -/

/-- Service-die block. -/
def svcBase : Nat := crBase + 0x8000000
/-- Block of die `d`. -/
def dieBase (d : Nat) : Nat := crBase + 0x1000000 * d
/-- Block of physical core `p` of die `d`; address 0, which is no control register, where there is none. -/
def coreBase (d p : Nat) : Nat := if d < 8 ∧ p < 26 then dieBase d + 0x100000 + 0x10000 * p else 0
/-- Block of partition `p`, likewise. -/
def partBase (p : Nat) : Nat := if p < 8 then svcBase + 0x6000 + 0x100 * p else 0
/-- I/O block of partition `p`, likewise. -/
def ioBase (p : Nat) : Nat := if p < 8 then svcBase + 0xD000 + 0x100 * p else 0
/-- Registers of launch queue `q` of partition `p`, likewise. -/
def lqBase (p q : Nat) : Nat := if p < 8 ∧ q < 64 then svcBase + 0x1000 + 0x800 * p + 0x20 * q else 0

/-- Whether service core `n` of partition `p` may reach a control register (R393, R399, R444, R455, R459). -/
def State.ctlReach (s : State) (p addr : Nat) : Bool :=
  if addr < svcBase then (s.part p).dies.testBit ((addr - crBase) / 0x1000000)
  else
    let o := addr - svcBase
    if 0x1000 ≤ o ∧ o < 0x5000 then decide ((o - 0x1000) / 0x800 = p)
    else if 0x6000 ≤ o ∧ o < 0x6800 then decide ((o - 0x6000) / 0x100 = p)
    else if 0xC000 ≤ o ∧ o < 0xC800 then (s.part p).rpmask.getLsbD ((o - 0xC000) / 0x40)
    else if 0xD000 ≤ o ∧ o < 0xD800 then decide ((o - 0xD000) / 0x100 = p)
    else true

/-- Whether a service core can take a step now. -/
def Sc.ready (x : Sc) : Bool := x.running && x.await.isNone

/-- A store of a service core to the control register at `addr`, through the levee in its base register: the levee and
access faults of R388, R393 and R421, else the effect `g`, which is given the core's partition; then the next
instruction. -/
def State.ctl (s : State) (by' : CtlBy) (addr : Nat) (g : Nat → State → State) : State :=
  let x := s.sc by'.sc
  let lv := x.reg by'.base
  if !x.ready then s
  else match s.leveeCheck by'.sc lv rWR by'.va 8 with
    | some k => s.scTrap by'.sc 28 by'.va (some k)
    | none =>
      match s.scPart by'.sc, s.scAddr by'.sc lv .store by'.va 8 with
      | some p, .ctl pa =>
        if pa % 8 ≠ 0 ∨ !s.ctlReach p pa then s.scTrap by'.sc 7 by'.va
        else if pa = addr then g p (s.setSc by'.sc (x.step by'.len)) else s
      | _, .fault c => s.scTrap by'.sc c by'.va
      | _, .lost c w => (s.countLost w).scTrap by'.sc c by'.va
      | _, .levee k => s.scTrap by'.sc 28 by'.va (some k)
      | _, _ => s

/-- As `State.ctl` for the 8-byte register at offset `o` of switch window `k` (19 R446). -/
def State.switchStore (s : State) (by' : CtlBy) (k o : Nat) (g : State → State) : State :=
  let x := s.sc by'.sc
  let lv := x.reg by'.base
  if !x.ready then s
  else match s.leveeCheck by'.sc lv rWR by'.va 8 with
    | some c => s.scTrap by'.sc 28 by'.va (some c)
    | none =>
      match s.scAddr by'.sc lv .store by'.va 8 with
      | .switch w pa =>
        if pa % 8 ≠ 0 then s.scTrap by'.sc 7 by'.va
        else if w = k ∧ pa = (s.window k).base * 2 ^ 30 + o then g (s.setSc by'.sc (x.step by'.len)) else s
      | .fault c => s.scTrap by'.sc c by'.va
      | .lost c w => (s.countLost w).scTrap by'.sc c by'.va
      | .levee c => s.scTrap by'.sc 28 by'.va (some c)
      | _ => s

end Sys2Proof.Machine
end

