-- ==== Sys2Proof/Machine/Collective.lean ====
section
/-! DEFINITION. Meanings of major 0x23 (13 R351 to R356, 19 R448 to R450): MCSR and MCLR, the groups of the switch, the
rounds, and the completion steps. -/

namespace Sys2Proof.Machine

/-! ## Groups (R448) -/

/-- Group `g` of the switch. -/
def State.group (s : State) (g : Nat) : Group := s.groups.getD g Group.start
/-- Group `g` replaced. -/
def State.setGroup (s : State) (g : Nat) (x : Group) : State := { s with groups := s.groups.put g x }

/-- The code of a collective type (R445, R448). -/
def collCode : Ty → Nat
  | .bf16 => 0
  | .f32 => 1
  | .i32 => 2
  | _ => 3

/-- Bytes of an element by its code. -/
def collSize (code : Nat) : Nat := if code = 0 then 2 else if code = 3 then 16 else 4

/-- Factor of the output size (R351). -/
def collFactor (code : Nat) : Nat := if code = 0 then 2 else 1

/-! ## Issue (R351) -/

/-- The command that a block describes. -/
def Cx.collOf (c : Cx) (o : McOp) (mclr : Bool) : CollCmd :=
  let b := c.blk o.a
  { mclr, addr := b 0, pa := 0, window := 0, group := 0, bytes := hiHalf (b 1), spoff := loHalf (b 1), stoff := loHalf (b 2)
    ty := o.ty, scope := o.scope, weir := o.w.toNat, st := .issued, src := [], out := [], members := 0, flags := 0 }

/-- Bytes of the output. -/
def CollCmd.outBytes (x : CollCmd) : Nat := collFactor (collCode x.ty) * x.bytes
/-- Bytes of the window region. -/
def CollCmd.windowBytes (x : CollCmd) : Nat := if x.mclr then x.bytes else x.outBytes
/-- Bytes of the scratchpad operand. -/
def CollCmd.spadBytes (x : CollCmd) : Nat := if x.mclr then x.outBytes else x.bytes

/-- The checks of orders 1 to 6 of R330. -/
def Cx.collChecks (c : Cx) (o : McOp) (x : CollCmd) : List Check :=
  let a := o.a.toNat
  [⟨c.versioned, .versioned, 0⟩, limit (decide (x.addr.toNat % 32 ≠ 0)) a,
   limit (decide (x.bytes < 32) || decide (65536 < x.bytes)) (a + 1), limit (decide (hiHalf (c.blk o.a 2) ≠ 0)) (a + 2),
   weirCheck c.l.kernel.nw x.weir, aligned x.spoff 32, aligned x.stoff 32, aligned x.bytes 32,
   inSpad c.spadsz x.spoff x.spadBytes, inSpad c.spadsz x.stoff 32, apart x.spoff x.spadBytes x.stoff 32,
   canonCheck x.addr, canonCheck (x.addr + BitVec.ofNat 64 (x.windowBytes - 1))]

/-- The first addresses of the window region in each page it touches. -/
def pageStarts : Nat → Word → Nat → List Word
  | 0, _, _ => []
  | i + 1, a, n =>
    if n = 0 then []
    else
      let m := min n (8192 - a.toNat % 8192)
      a :: pageStarts i (a + BitVec.ofNat 64 m) (n - m)

/-- What a page of the window region comes to (order 7): the translation and the window, or the trap and a window whose
LOST count it adds to. -/
def Cx.collPage (c : Cx) (x : CollCmd) (a : Word) : Except (Cause × Option Nat) (Xl × Nat) :=
  match c.s.leafOf c.w.part a c.s.free with
  | none => .error (.xlate, none)
  | some l =>
    if permMissing (if x.mclr then .load else .store 4) l.e then .error (.perm, none)
    else match c.s.place c.w.part (l.pa a) with
      | .reduce k =>
        if (c.s.window k).ty = collCode x.ty && !attrRefuses (if x.mclr then .load else .store 4) a l.e then .ok ({ va := a, pa := l.pa a, leaf := l, away := true }, k) else .error (.perm, none)
      | .severed k => .error (if (c.s.window k).kind = 1 then (.cohlost, some k) else (.perm, none))
      | _ => .error (.perm, none)

/-- All the pages of the window region, through the window of the first. -/
def Cx.collPages (c : Cx) (x : CollCmd) : List Word → Option Nat → List Xl → Except Res (List Xl × Nat)
  | [], k, l => .ok (l.reverse, k.getD 0)
  | a :: as, k, l =>
    match c.collPage x a with
    | .error (e, some w) => .error (.trap (c.s.countLost w) e a 0 c.fb.errs)
    | .error (e, none) => .error (c.trap e a)
    | .ok (t, w) => if decide (k.getD w ≠ w) then .error (c.trap .perm a) else Cx.collPages c x as (some w) (t :: l)

/-- The issue of MCSR or MCLR. -/
def Cx.coll (c : Cx) (o : McOp) (mclr : Bool) : Res :=
  let x := c.collOf o mclr
  c.checked (c.collChecks o x) <|
    match c.collPages x (pageStarts (x.windowBytes / 8192 + 2) x.addr x.windowBytes) none [] with
    | .error r => r
    | .ok (l, k) =>
      if c.acquiring then c.wait .interlock
      else
        let s := l.foldl (fun s t => ((s.touch c.w.part (some (c.w.die, c.w.core)) t).cacheLeaf c.w.part t).drawn) c.s
        let pa := match l with
          | t :: _ => t.pa
          | [] => 0
        let x := { x with pa, window := k, group := (c.s.window k).group }
        let s := s.modWg c.fb.wg fun w =>
          let w := w.setSectors x.stoff 32 .arriving
          if mclr then w.setSectors x.spoff x.outBytes .arriving else w
        .ok (c.command s .occ [⟨x.spoff, x.spadBytes, mclr⟩, writeRng x.stoff 32] (.coll x) none 0)

/-- R351 to R356: MCSR. -/
def execMcsr (o : McOp) (s : State) : Out := issue s [block o.a 3] fun c => c.coll o false

/-- R351 to R356: MCLR. -/
def execMclr (o : McOp) (s : State) : Out := issue s [block o.a 3] fun c => c.coll o true

/-! ## Combining (R352) -/

/-- The element that the inputs of element `i` combine to. -/
def collElem (code : Nat) (anchor : Int) (ins : List (List Byte)) (i : Nat) : Anc :=
  let xs := ins.map fun l => fieldLe l (collSize code * i) (collSize code)
  if code = 3 then xs.foldl (fun a x => a.combine (Anc.ofBits x)) Anc.zero
  else xs.foldl (fun a x => a.add anchor (.val (valueOf (if code = 0 then .bf16 else .f32) x))) Anc.zero

/-- Output element `i`, and its flags. -/
def collOut (code : Nat) (anchor : Int) (ins : List (List Byte)) (i : Nat) : List Byte × Nat :=
  if code = 2 then (toLe ((ins.map fun l => fieldLe l (4 * i) 4).foldl (· + ·) 0) 4, 0)
  else
    let e := collElem code anchor ins i
    (if code = 3 then toLe e.bits 16 else toLe (e.drain anchor .f32 .rne false 0) 4, e.flags)

/-- The output of a round, and the OR of its flags. -/
def combineAll (code : Nat) (anchor : Int) (bytes : Nat) (ins : List (List Byte)) : List Byte × Nat :=
  let l := (List.range (bytes / collSize code)).map (collOut code anchor ins)
  (l.flatMap (·.1), l.foldl (fun f x => f ||| x.2) 0)

/-! ## Rounds (R353, R354, R450) -/

/-- A collective command changed by `g`. -/
def State.modColl (s : State) (cmd : Nat) (g : CollCmd → CollCmd) : State :=
  s.modCmd cmd fun c => match c.body with
    | .coll x => { c with body := .coll (g x) }
    | _ => c

/-- The commands of this chip among contributions end with a status. -/
def State.endParts (s : State) (l : List (Nat × Option Nat × List Byte)) (status : Nat) : State :=
  l.foldl (fun s p => match p.2.1 with
    | some cmd => s.modColl cmd fun x => { x with st := .done status }
    | none => s) s

/-- A member's presence ends with its effect on what is pending (R450). -/
def State.loseMember (s : State) (g chip status : Nat) : State :=
  let x := s.group g
  let s := s.setGroup g { x with absent := x.absent ||| 2 ^ chip, pending := [] }
  s.endParts (x.pending.flatMap Round.parts) status

/-- Whether a command of a chip that reaches the group completes ABSENT (R354, R449). -/
def Group.refuses (x : Group) (chip : Nat) : Bool := !x.valid || !x.members.testBit chip || decide (x.members &&& x.absent ≠ 0)

/-- Whether a round waits for a contribution of a chip at an offset. -/
def Round.lacks (r : Round) (offset chip : Nat) : Bool :=
  decide (r.offset = offset) && r.mclr.isNone && !(r.parts.any fun p => decide (p.1 = chip))

/-- A contribution at the switch joins its round, or closes it (R353). -/
def State.contribute (s : State) (g offset bytes : Nat) (p : Nat × Option Nat × List Byte) : State :=
  let x := s.group g
  if x.refuses p.1 then s.endParts [p] 1
  else match x.pending.find? fun r => r.lacks offset p.1 with
    | none => s.setGroup g { x with pending := x.pending ++ [{ offset, bytes, mclr := none, parts := [p] }] }
    | some r =>
      if r.bytes = bytes then
        s.setGroup g { x with pending := x.pending.set (x.pending.idxOf r) { r with parts := r.parts ++ [p] } }
      else (s.setGroup g { x with pending := x.pending.erase r }).endParts (r.parts ++ [p]) 4

/-- The offset of a command in its group's window (R449). -/
def State.collOffset (s : State) (x : CollCmd) : Nat := x.pa - (s.window x.window).base * 2 ^ 30

/-- The context of a collective command in the state ISSUED. -/
def State.collIssued (s : State) (cmd : Nat) (mclr : Bool) : Option (EngCx × CollCmd) :=
  match s.engCx cmd with
  | none => none
  | some e => match e.c.body with
    | .coll x => if x.st = .issued ∧ x.mclr = mclr then some (e, x) else none
    | _ => none

/-- Whether an earlier MCSR of this chip at the same address of its group has not reached the switch (R353). -/
def State.collBefore (s : State) (cmd : Nat) (x : CollCmd) : Bool :=
  s.cmds.any fun p => decide (p.1 < cmd) && match p.2.body with
    | .coll y => decide (y.st = .issued) && !y.mclr && decide (y.group = x.group) && decide (s.collOffset y = s.collOffset x)
    | _ => false

/-- An MCSR of this chip: its source is read and reaches the switch. -/
def State.ownContribution (s : State) (cmd : Nat) : State :=
  match s.collIssued cmd false with
  | none => s
  | some (e, x) =>
    let c := { e.c with rngs := [writeRng x.stoff 32] }
    if s.behind cmd e.c.wg [readRng x.spoff x.bytes] || e.w.landing x.spoff x.bytes || s.collBefore cmd x then s
    else match e.w.broken (sectorsOf x.spoff x.bytes) with
      | some (k, _) =>
        (s.setCmd cmd { c.failing k (BitVec.ofNat 64 x.stoff) with body := .coll { x with st := .done 2 } }).loseMember
          x.group s.chip 2
      | none =>
        if s.severed.contains s.chip then s.setCmd cmd { c with body := .coll { x with st := .done 3 } }
        else
          let data := e.w.spad.bytes x.spoff x.bytes
          (s.setCmd cmd { c with body := .coll { x with st := .pending, src := data } }).contribute x.group (s.collOffset x)
            x.bytes (s.chip, some cmd, data)

/-- R353, R354: a contribution reaches the switch. -/
def execMcsrContributionArrival (s : State) : Out :=
  match s.cur with
  | .event (.mcsrContributionArrival (.own cmd)) => .next (s.ownContribution cmd)
  | .event (.mcsrContributionArrival (.peer chip g offset data)) =>
    if chip = s.chip then .next s else .next (s.contribute g offset data.length (chip, none, data))
  | _ => .next s

/-- The members of a group other than a chip. -/
def Group.others (x : Group) (chip : Nat) : List Nat := (List.range 1024).filter fun k => x.members.testBit k && decide (k ≠ chip)

/-- This chip's input to an MCLR: the bytes at its home, or what the read meets. -/
def State.collInput (s : State) (e : EngCx) (x : CollCmd) : EngOut :=
  let a := (s.window x.window).xbase + s.collOffset x
  let l := s.physParts (x.bytes + 1) a x.bytes
  if l.any (fun q => s.engBehind e q.x.line) then .wait s
  else match s.engGates e.w false l with
    | some s => .wait s
    | none =>
      if s.dead a x.bytes then .fail (s.retireFrame a (memSource a)) .eccunc x.addr
      else
        let r := (sectorPieces a x.bytes).foldl (fun (r : List Byte × State) q =>
          let t := r.2.look (.engine e.cmd) (a + q.1) q.2
          (r.1 ++ t.1, t.2)) ([], s)
        .done r.2 r.1 []

/-- R353: an MCLR reaches the switch, which reads every member's input (R356). An input that cannot be read ends it KILLED,
which R355 makes no engine error (log entry 58). -/
def State.mclrArrival (s : State) (cmd : Nat) (inputs : List (Nat × List Byte)) : State :=
  match s.collIssued cmd true with
  | none => s
  | some (e, x) =>
    let g := s.group x.group
    let done (s : State) (c : Cmd) (k : Nat) : State := s.setCmd cmd { c with body := .coll { x with st := .done k } }
    if s.severed.contains s.chip then done s e.c 3
    else if g.refuses s.chip then done s e.c 1
    else if inputs.map (·.1) ≠ g.others s.chip ∨ inputs.any (fun p => decide (p.2.length ≠ x.bytes)) then s
    else match s.collInput e x with
      | .done s b _ =>
        let r : Round :=
          { offset := s.collOffset x, bytes := x.bytes, mclr := some s.chip
            parts := (s.chip, some cmd, b) :: inputs.map fun p => (p.1, none, p.2) }
        (s.setCmd cmd { e.c with body := .coll { x with st := .pending } }).setGroup x.group { g with pending := g.pending ++ [r] }
      | .fail s _ _ => done s e.c 2
      | .wait s => s
      | .fault _ _ => s

/-- R353: an MCLR's request. -/
def execMclrRequestArrival (s : State) : Out :=
  match s.cur with
  | .event (.mclrRequestArrival cmd inputs) => .next (s.mclrArrival cmd inputs)
  | _ => .next s

/-- Whether every member's input is present. -/
def Round.complete (r : Round) (x : Group) : Bool :=
  r.mclr.isSome || (List.range 1024).all fun k => !x.members.testBit k || r.parts.any fun p => decide (p.1 = k)

/-- A round combined: the commands of this chip in it are COMBINED. -/
def State.combineRound (s : State) (g offset : Nat) : State :=
  let x := s.group g
  match x.pending.find? fun r => decide (r.offset = offset) && r.complete x with
  | none => s
  | some r =>
    let (out, flags) := combineAll x.ty (if x.ty = 3 then 32 else x.anchor) r.bytes (r.parts.map (·.2.2))
    let s := s.setGroup g
      { x with pending := x.pending.erase r, rounds := if r.mclr.isSome then x.rounds else (x.rounds + 1) % 2 ^ 32 }
    r.parts.foldl (fun s p => match p.2.1 with
      | some cmd => s.modColl cmd fun y => { y with st := .combined, out, flags, members := r.parts.length }
      | none => s) s

/-- R353: every member's input is combined. -/
def execRoundCombined (s : State) : Out :=
  match s.cur with
  | .event (.roundCombined g offset) => .next (s.combineRound g offset)
  | _ => .next s

/-! ## Completion (R354, R355) -/

/-- The bytes of a status sector. -/
def CollCmd.sector (x : CollCmd) (status : Nat) : List Byte :=
  toLe status 4 ++ toLe (if status = 0 then x.members else 0) 4 ++ toLe (if status = 0 then x.flags else 0) 4 ++ toLe 0 4
    ++ toLe x.group 4 ++ toLe 0 12

/-- The release that the count of a collective command is: at its SCOPE, covering the command's writes (R356). -/
def State.collRel (s : State) (e : EngCx) (x : CollCmd) : Option Rel :=
  if e.versioned then none
  else some { obj := .weir e.c.wg x.weir, live := true, scope := x.scope, spot := s.spotOfWg e.c.wg
              ids := s.writesOf (.engine e.cmd) }

/-- The completion steps from the second on. -/
def State.collFinish (s : State) (e : EngCx) (x : CollCmd) (status : Nat) : State :=
  let s := s.modWg e.c.wg fun w =>
    let w := ({ w with spad := w.spad.putBytes x.stoff (x.sector status) } : Wg).setSectors x.stoff 32 .present
    if x.mclr then w.setSectors x.spoff x.outBytes .present else w
  let s := s.countWeir e.c.wg x.weir 1 0 (decide (status ≠ 0)) (s.collRel e x)
  match s.cmds.find? e.cmd with
  | some c => s.completeCmd e.cmd c
  | none => s

/-- The output of a command written part by part, each within one line. -/
def State.collStore (s : State) (e : EngCx) : List EngPart → List Byte → State
  | [], _ => s
  | q :: l, b => State.collStore (s.engPoke e.w.part (.engine e.cmd 0) (fun _ _ => { Issue.plain with wg := some e.c.wg }) q 2 0 (b.take q.n))
      e l (b.drop q.n)

/-- The output written at the issuing chip, then the other steps. -/
def State.collOutput (s : State) (e : EngCx) (x : CollCmd) : State :=
  if x.mclr then
    (s.modWg e.c.wg fun w => { w with spad := w.spad.putBytes x.spoff x.out }).collFinish e x 0
  else if x.out.isEmpty then (if s.engHeld e.cmd then s else s.collFinish e x 0)
  else
    let a := (s.window x.window).xbase + collFactor (collCode x.ty) * s.collOffset x
    let l := s.physParts (x.out.length + 1) a x.out.length
    match s.engGates e.w true l with
    | some s => s
    | none =>
      let s := (s.collStore e l x.out).modColl e.cmd fun y => { y with out := [] }
      if s.engHeld e.cmd then s else s.collFinish e x 0

/-- R354: the completion steps of a collective command. -/
def execCollectiveComplete (s : State) : Out :=
  match s.cur with
  | .event (.collectiveComplete cmd) =>
    match s.engCx cmd with
    | none => .next s
    | some e => match e.c.body with
      | .coll x =>
        if s.behind cmd e.c.wg e.c.rngs then .next s
        else match x.st with
          | .combined => if s.severed.contains s.chip && !x.out.isEmpty then .next (s.collFinish e x 3) else .next (s.collOutput e x)
          | .done k => .next (s.collFinish e x k)
          | _ => .next s
      | _ => .next s
  | _ => .next s

/-- Whether a contribution of this chip in the group belongs to a command that was killed. -/
def State.orphaned (s : State) (g : Nat) : Bool :=
  (s.group g).pending.any fun r => r.parts.any fun p => match p.2.1 with
    | some cmd => (s.cmds.find? cmd).isNone
    | none => false

/-- R450: a killed member's withdrawal reaches the switch. -/
def execMemberWithdrawal (s : State) : Out :=
  match s.cur with
  | .event (.memberWithdrawal chip g) =>
    if chip ≠ s.chip ∨ s.orphaned g then .next (s.loseMember g chip 2) else .next s
  | _ => .next s

/-! ## The group table at the switch (R448) -/

/-- The 8 bytes at offset `o` of group `g`'s entry. -/
def State.groupReg (s : State) (g o : Nat) : Nat :=
  let x := s.group g
  if o = 0 then bit x.valid * 2 ^ 63 + x.ty % 4 * 2 ^ 61 + wrapTo 10 x.anchor * 2 ^ 48 + x.pending.length % 2 ^ 16
  else if o = 8 then x.rounds % 2 ^ 32 * 2 ^ 32 + ((List.range 1024).filter x.absent.testBit).length
  else if 0x80 ≤ o ∧ o < 0x100 then x.members / 2 ^ (8 * (o - 0x80)) % 2 ^ 64
  else if 0x100 ≤ o ∧ o < 0x180 then x.absent / 2 ^ (8 * (o - 0x100)) % 2 ^ 64
  else 0

/-- A bitmap with 64 bits from `i` replaced. -/
def setBits64 (x i v : Nat) : Nat := x - x / 2 ^ i % 2 ^ 64 * 2 ^ i + v % 2 ^ 64 * 2 ^ i

/-- An 8-byte write at offset `o` of group `g`'s entry, under the ignore rules. -/
def State.setGroupReg (s : State) (g o v : Nat) : State :=
  let x := s.group g
  if o = 0 then
    let valid := v.testBit 63
    if x.valid then
      if valid || !x.pending.isEmpty then s else s.setGroup g { x with valid := false }
    else s.setGroup g { x with valid, ty := v / 2 ^ 61 % 4, anchor := intOf 10 true (v / 2 ^ 48) }
  else if 0x80 ≤ o ∧ o < 0x100 then
    if x.valid then s else s.setGroup g { x with members := setBits64 x.members (8 * (o - 0x80)) v }
  else if 0x100 ≤ o ∧ o < 0x180 then
    if x.pending.isEmpty then
      let i := 8 * (o - 0x100)
      s.setGroup g { x with absent := setBits64 x.absent i (x.absent / 2 ^ i % 2 ^ 64 &&& (2 ^ 64 - 1 - v % 2 ^ 64)) }
    else s
  else s

end Sys2Proof.Machine
end

