-- ==== Sys2Proof/Machine/Control.lean ====
section
/-! DEFINITION. Meanings of majors 0x01 to 0x03 (10 R234 to R251, 02 R35, R51, 20 R465): branches, calls, loops,
SPAWN, FEND, YIELD, traps by instruction, SYSC and LAUNCH. -/

namespace Sys2Proof.Machine

/-- The address that a branch offset names (08 R196, R199). -/
def Cx.target (c : Cx) (o : Off) : Word :=
  match o with
  | .short x => c.fb.pc + x.signExtend 64 * 8
  | .long x => c.fb.pc + sext58 x * 8

/-- Branch of R235, entries popped by PopTo. -/
def Cx.jump (c : Cx) (a : Word) : Res := c.branch a (popTo c.fb.loops a) id

/-- A conditional branch: nothing is checked where it is not taken. -/
def Cx.jumpIf (c : Cx) (taken : Bool) (o : Off) : Res := if taken then c.jump (c.target o) else .ok c.s

/-- Whether the instruction closes its block (R236). -/
def Cx.closes (c : Cx) : Bool := decide (c.next = c.fb.blkEnd)

/-- The live lanes and the lanes of Mm among them. -/
def Cx.maskPair (c : Cx) (m : BitVec 4) : Nat × Nat := (c.fb.live, c.act m)

/-- Call of R240. -/
def Cx.call (c : Cx) (a : Word) : Res :=
  if !c.closes then c.trap .illegal 0
  else c.branch a c.fb.loops fun x => { x with s := x.s.put 63 (c.next ||| BitVec.ofNat 64 x.loops.length) }

/-- R237: B. -/
def execB (o : BOp) (s : State) : Out := issue s [] fun c => c.jumpIf (condHolds o.cond c.fb.flags) o.off

/-- R238: BMZ. -/
def execBmz (o : BmOp) (s : State) : Out :=
  issue s [mSrc o.m] fun c => c.jumpIf (decide ((c.maskPair o.m).2 = 0)) o.off

/-- R238: BMNZ. -/
def execBmnz (o : BmOp) (s : State) : Out :=
  issue s [mSrc o.m] fun c => c.jumpIf (decide ((c.maskPair o.m).2 ≠ 0)) o.off

/-- R238: BMALL. -/
def execBmall (o : BmOp) (s : State) : Out :=
  issue s [mSrc o.m] fun c => c.jumpIf (decide ((c.maskPair o.m).2 = (c.maskPair o.m).1)) o.off

/-- R238: BMNALL. -/
def execBmnall (o : BmOp) (s : State) : Out :=
  issue s [mSrc o.m] fun c => c.jumpIf (decide ((c.maskPair o.m).2 ≠ (c.maskPair o.m).1)) o.off

/-- R239: BRI. -/
def execBri (o : SaOp) (s : State) : Out := issue s [sSrc o.a] fun c => c.jump (c.sreg o.a)

/-- R240: CALL. -/
def execCall (o : CallOp) (s : State) : Out := issue s [sDst 63] fun c => c.call (c.target o.off)

/-- R240: CALLI. -/
def execCalli (o : SaOp) (s : State) : Out := issue s [sSrc o.a, sDst 63] fun c => c.call (c.sreg o.a)

/-- R241: RET. -/
def execRet (o : SaOp) (s : State) : Out :=
  issue s [sSrc o.a] fun c =>
    let v := c.sreg o.a
    let d := v.toNat % 8
    if 4 < d then c.trap .badtarget 0
    else c.branch (v - BitVec.ofNat 64 d) (c.fb.loops.drop (c.fb.loops.length - d)) id

/-- The operand that a LOOP count names. -/
def LoopCountOpnds : LoopCount → List Opnd
  | .reg c _ => [sSrc c]
  | _ => []

/-- The count and exit offset of a LOOP (R242). -/
def Cx.loopArgs (c : Cx) : LoopCount → Nat × Off
  | .imm n o => (n.toNat, .short o)
  | .long n o => (n.toNat, .short o)
  | .reg r o => ((c.sreg r).toNat % 2 ^ 32, o)

/-- R242: LOOP. -/
def execLoop (o : LoopOp) (s : State) : Out :=
  issue s (LoopCountOpnds o.count) fun c =>
    let (n, off) := c.loopArgs o.count
    if !c.closes then c.trap .illegal 0
    else if c.fb.loops.length = 4 then c.trap .loopdepth 0
    else if n = 0 then c.jump (c.target off)
    else .jump (c.setF fun x => { x with loops := { start := c.next, last := c.target off - 8, rem := n } :: x.loops, pc := c.next })

/-- The child of a SPAWN (02 R35): the moved lanes, a copy of the scalar state and the reconvergence target. It runs no
upcall handler, whether or not its parent does (DESIGN CHOICE, log entry 89). -/
def Fibre.child (fb : Fibre) (f moved : Nat) (a : Word) : Fibre :=
  { ({ fb with m := fb.m.put 0 (BitVec.ofNat 128 moved) } : Fibre).goto a with
    parent := some f, loops := [], heldAt := none, slots := List.replicate 4 LockSlot.empty, batch := 0, openN := 0
    ucause := 0, upc := 0, uinfo := 0, upcalls := [], handler := false, wins := [], pend := [], tiles := [], errs := []
    finished := [], st := .ready, await := .none, stop := none, relMark := [], acqSeen := [], acqHeld := [], acqIds := []
    sysIds := [], arHeld := [], stepReq := false, lastSp := none, yield := 0 }

/-- Live fibres of the gang of `fb`. -/
def State.gangCount (s : State) (w : Wg) (fb : Fibre) : Nat :=
  (s.fibres.filter fun p => sameGang w fb p.2 && p.2.st != .ended).length

/-- R243, 02 R35: SPAWN. C is written before the child copies the flags (log entry 25). -/
def execSpawn (o : BmOp) (s : State) : Out :=
  issue s [mSrc o.m] fun c =>
    let a := c.target o.off
    let moved := c.act o.m
    if c.s.badTarget c.w a then c.trap .badtarget 0
    else match c.fb.unsettled with
      | some (.trap k i) => c.trap k i
      | some (.wait st) => c.wait st
      | none =>
        if decide (moved = 0) || decide (16 ≤ c.s.gangCount c.w c.fb) then .ok (c.setF fun x => { x.closeWins with c := true })
        else
          let p := { c.fb.closeWins with c := false }
          let keep := p.mreg 0 &&& ~~~(BitVec.ofNat 128 moved)
          let s := c.s.setFib c.f { p with m := p.m.put 0 keep }
          .ok ((s.setFib s.nextId (p.child c.f moved a)).named.inherit (.fibre s.nextId) (.fibre c.f))

/-- R51, R248: UPRET. -/
def execUpret (o : SaOp) (s : State) : Out :=
  issue s [sSrc o.a] fun c =>
    let a := c.sreg o.a
    c.branch a (popTo c.fb.loops a) fun x => { x with handler := false }

/-- R244: FEND. -/
def execFend (s : State) : Out := issue s [] fun c => .stay (c.s.endFibre c.f)

/-- R245: YIELD. -/
def execYield (s : State) : Out := issue s [] fun c => .ok (c.setF fun x => { x with yield := 16 })

/-- R246: HALT. -/
def execHalt (s : State) : Out := issue s [] fun c => c.trap .trapi 0x100

/-- R248: NOP. -/
def execNop (s : State) : Out := issue s [] fun c => .ok c.s

/-- R246: TRAP. -/
def execTrap (o : ImmOp) (s : State) : Out := issue s [] fun c => c.trap .trapi (o.n.setWidth 64)

/-- R246, 08 R217: BKPT; its imm8 is read from the word. -/
def execBkpt (s : State) : Out := issue s [] fun c => c.trap .bkpt ((c.word.extractLsb' 20 8).setWidth 64)

/-! ## SYSC (R247, 20 R465) -/

/-- Whether the call ring of a partition has a free slot. -/
def State.callRoom (s : State) (p : Nat) : Bool :=
  let io := (s.part p).io
  let n := (io.getD 0x38 0).toNat
  decide (4 ≤ n) && decide (n ≤ 16)
    && decide (((io.getD 0x48 0).toNat + 2 ^ 32 - (io.getD 0x40 0).toNat % 2 ^ 32) % 2 ^ 32 < 2 ^ n)

/-- The head of the vector call record of a fibre's gang, 2,048 bytes that hold no fibre yet. -/
def Cx.callHead (c : Cx) (n : Nat) : List Byte :=
  toLe n 1 ++ toLe 0 1 ++ toLe ((c.fb.sreg 2).toNat % 64) 1 ++ toLe 0 1
    ++ toLe c.w.part 1 ++ toLe c.w.die 1 ++ toLe c.w.core 1 ++ toLe ((c.w.gangOf c.fb.num).getD 0) 1
    ++ toLe c.l.ident.toNat 8 ++ toLe (c.s.handle c.w ((c.fb.sreg 2).toNat % 64)).toNat 8 ++ toLe (c.s.clkOf c.w) 8
    ++ toLe 0 2016

/-- The fibre as entry `k` of the record at `a`: NFIB, the lane mask, its WID, S3 and LANE, and the arguments of its
active lanes. -/
def Cx.callEntry (c : Cx) (s : State) (a k : Nat) : State :=
  let slot := c.w.slot c.fb.num
  let act := c.act 0
  let s := s.poke (a + 1) (toLe (k + 1) 1)
  let s := s.poke (a + 0x20) (toLe (s.mem.read (a + 0x20) 16 ||| act * 2 ^ slot) 16)
  let s := s.poke (a + 0x40 + 32 * k) (toLe (widOf c.l c.w c.fb.num).toNat 8 ++ toLe (c.fb.sreg 3).toNat 8 ++ toLe slot 1)
  (c.lanes 0).foldl (fun s i => s.poke (a + 0x400 + 8 * (slot + i))
    (toLe ((c.fb.vreg 2).lane i).toNat 4 ++ toLe ((c.fb.vreg 3).lane i).toNat 4)) s

/-- The record of the batch that a SYSC n joins: one of the same number and the same S2. -/
def Cx.callJoins (c : Cx) (n : Nat) : Option Gathered :=
  match c.s.batch.call with
  | some g => if g.num = n ∧ g.arg = c.fb.sreg 2 then some g else none
  | none => none

/-- R247: SYSC. It waits for the fibre's writes, which it releases (log entry 12). -/
def execSysc (o : ImmOp) (s : State) : Out :=
  issue s [⟨.s, 2, 1, true, false⟩, ⟨.s, 3, 1, true, false⟩, vSrc 2 1, vSrc 3 1] fun c =>
    let w := c.fb.sreg 2
    if w.toNat / 64 ≠ 0 then c.trap .illegal 0
    else if c.l.kernel.nw ≤ w.toNat then c.trap .weirbound w
    else if c.versioned then c.trap .versioned 0
    else if ((c.callJoins o.n.toNat).isNone && !c.s.callRoom c.w.part) || c.s.writesOut c.f then c.wait .interlock
    else
      let s := c.s.released (c.relOn .pk (.call c.w.part))
      match c.callJoins o.n.toNat with
      | some g =>
        let s := c.callEntry s g.slot g.nfib
        .ok { s with batch := { s.batch with call := some { g with nfib := g.nfib + 1 } } }
      | none =>
        let io := (c.s.part c.w.part).io
        let n := (io.getD 0x38 0).toNat
        let t := (io.getD 0x48 0).toNat
        let a := (io.getD 0x30 0).toNat + 2048 * (t % 2 ^ n)
        let s := c.callEntry (s.poke a (c.callHead o.n.toNat)) a 0
        let s := s.modPart c.w.part fun x => { x with io := x.io.put 0x48 (BitVec.ofNat 64 ((t + 1) % 2 ^ 32)) }
        .ok { s with batch := { s.batch with call := some { slot := a, num := o.n.toNat, arg := w, nfib := 1 } } }

/-! ## LAUNCH (R249 to R251) -/

/-- R249: LAUNCH. The record is posted at issue, once accrue lines that hold it are collected, and releases the fibre's
writes to the launch (04 R105); the fibre waits for the answer, which LAUNCH_ANSWER brings. -/
def execLaunch (o : LaunchOp) (s : State) : Out :=
  issue s [sSrc o.a, sDst o.d] fun c =>
    match c.fb.await with
    | .launch _ _ => c.wait .interlock
    | _ =>
      let a := c.sreg o.a
      if c.versioned then c.trap .versioned 0
      else if a.toNat % 256 ≠ 0 then c.trap .misalign a
      else match c.s.xlate c.w.part .load a c.s.free with
        | .error k => c.trap k a
        | .ok x =>
          if c.s.dead x.pa 256 then .trap (c.s.retireFrame x.pa (memSource x.pa)) .eccunc a 0 c.fb.errs
          else if c.s.writesOut c.f then c.wait .interlock
          else if !(c.s.postAccrues c.w.part a).isEmpty then .wait (c.s.startCollect (c.s.postAccrues c.w.part a)) .interlock
          else
            let s := c.s.accessed c.w x false
            let r := s.mem.bytes x.pa 256
            let sc : Scope := if 1 < recCount r 5 then .sys else .pk
            let (s, code) := s.post c.l.part c.l.queue true r (c.relOn sc (.call c.w.part)).ids
            .stay (s.modFib c.f fun fb => { fb with st := .interlock, await := .launch o.d.toNat code })

end Sys2Proof.Machine
end

