-- ==== Sys2Proof/Machine/Flume.lean ====
section
/-! DEFINITION. Meanings of major 0x20 (13 R333 to R340, 05 R132 to R144): flume copies, batches, digests, the static
copy schedule, and the events of the flume and of its faults. -/

namespace Sys2Proof.Machine

/-! ## The shape of a copy (R334, R336) -/

/-- Sectors of a row. -/
def FlCopy.perRow (x : FlCopy) : Nat := x.rowb / 32
/-- Sectors of a copy. -/
def FlCopy.count (x : FlCopy) : Nat := x.npl * x.nrows * x.perRow
/-- Bytes of the data region. -/
def FlCopy.extent (x : FlCopy) : Nat := (x.npl - 1) * x.pstr + (x.nrows - 1) * x.sstr + x.rowb
/-- Scratchpad offset of sector `k`. -/
def FlCopy.offset (x : FlCopy) (k : Nat) : Nat :=
  let j := k / x.perRow
  x.spoff + j / x.nrows * x.pstr + j % x.nrows * x.sstr + 32 * (k % x.perRow)
/-- Global address of sector `k`. -/
def FlCopy.global (x : FlCopy) (k : Nat) : Word :=
  let j := k / x.perRow
  x.gaddr + BitVec.ofInt 64 (((j / x.nrows : Nat) : Int) * x.gpstr + ((j % x.nrows : Nat) : Int) * x.gstr
    + ((32 * (k % x.perRow) : Nat) : Int))

/-- Where row `j` of a copy begins: its global address, and its scratchpad offset. -/
def FlCopy.rowAt (x : FlCopy) (j : Nat) : Word × Nat :=
  (x.gaddr + BitVec.ofInt 64 (((j / x.nrows : Nat) : Int) * x.gpstr + ((j % x.nrows : Nat) : Int) * x.gstr),
    x.spoff + j / x.nrows * x.pstr + j % x.nrows * x.sstr)

/-- Sectors of global memory that a row may touch. -/
def FlCopy.perGlobal (x : FlCopy) : Nat := x.rowb / 32 + 1

/-- The piece of an outbound copy in one global sector (04 R84, R338): sector `k mod perGlobal` of its row, as offset in
the row and length. -/
def FlCopy.piece (x : FlCopy) (k : Nat) : Nat × Nat :=
  (sectorPieces (x.rowAt (k / x.perGlobal)).1.toNat x.rowb).getD (k % x.perGlobal) (0, 0)

/-- Global address of piece `k` of an outbound copy. -/
def FlCopy.toGlobal (x : FlCopy) (k : Nat) : Word := (x.rowAt (k / x.perGlobal)).1 + BitVec.ofNat 64 (x.piece k).1

/-- Scratchpad offset of piece `k` of an outbound copy. -/
def FlCopy.ofSpad (x : FlCopy) (k : Nat) : Nat := (x.rowAt (k / x.perGlobal)).2 + (x.piece k).1

/-- The sectors that a copy moves: of the scratchpad where it is inbound, of global memory where it is outbound. -/
def FlCopy.sectors (x : FlCopy) : List Nat :=
  if x.out then (List.range (x.npl * x.nrows * x.perGlobal)).filter fun k => decide ((x.piece k).2 ≠ 0) else List.range x.count

/-- Whether masks select a logical core (05 R138). -/
def meshSelects (mc : Nat × Nat) (core : Nat) : Bool := mc.1.testBit (core % 4) && mc.2.testBit (core / 4)

/-- Whether the copy's data goes to its own workgroup, on `core`. -/
def FlCopy.toSelf (x : FlCopy) (core : Nat) : Bool :=
  match x.mc with
  | none => true
  | some m => meshSelects m core

/-- The parts of the scratchpad that a copy names: its data region (R334), or the rows of a schedule fill (05 R143). -/
def FlCopy.regions (x : FlCopy) : List (Nat × Nat) :=
  if x.fill && decide (x.sstr ≠ x.rowb) then (List.range x.nrows).map fun j => (x.spoff + j * x.sstr, x.rowb) else [(x.spoff, x.extent)]

/-- The scoreboard ranges of a copy (R337, R338, 05 R144). -/
def FlCopy.ranges (x : FlCopy) (core : Nat) : List Rng :=
  (if x.toSelf core then x.regions.map fun r => ⟨r.1, r.2, !x.out⟩ else [])
    ++ (match x.fin with
      | some d => [writeRng d 64]
      | none => [])

/-! ## Acceptance (R337, 05 R136, R139) -/

/-- The workgroup of a die share on a core, for a multicast (05 R139). -/
def State.receiver (s : State) (w : Wg) (l : Launch) (core : Nat) : Option Nat :=
  (List.find? (fun p : Nat × Wg => decide (p.2.launch = w.launch) && decide (p.2.die = w.die) && decide (p.2.core = core)
    && decide (l.fieldOf p.2.index 4 = l.fieldOf w.index 4)) s.wgs).map (·.1)

/-- The workgroups that a copy of workgroup `id` lands in, and whether a selected core has none (05 R140). -/
def State.receivers (s : State) (id : Nat) (w : Wg) (l : Launch) (x : FlCopy) : List Nat × Bool :=
  match x.mc with
  | none => ([id], false)
  | some m =>
    let cores := (List.range 24).filter (meshSelects m)
    (cores.filterMap (s.receiver w l), cores.any fun c => (s.receiver w l c).isNone)

/-- A copy accepted: its ranges are on the scoreboard, and the sectors it writes are ARRIVING. -/
def State.accept (s : State) (cmd : Nat) (c : Cmd) (x : FlCopy) : State :=
  match s.wgs.find? c.wg with
  | none => s
  | some w => match s.launchOf w with
    | none => s
    | some l =>
      let s := s.setCmd cmd { c with rngs := x.ranges w.core, body := .flume { x with accepted := true } }
      let s := if x.out then s else
        (s.receivers c.wg w l x).1.foldl (fun s r => s.modWg r fun g =>
          (List.range x.count).foldl (fun g k => g.setSector (x.offset k / 32) .arriving) g) s
      match x.fin with
      | some d => s.modWg c.wg fun g => g.setSectors d 64 .arriving
      | none => s

/-- Acceptance where no earlier range conflicts (R337). -/
def State.tryAccept (s : State) (cmd : Nat) : State :=
  match s.cmds.find? cmd with
  | none => s
  | some c => match c.body, s.wgs.find? c.wg with
    | .flume x, some w => if x.accepted || s.behind cmd c.wg (x.ranges w.core) then s else s.accept cmd c x
    | _, _ => s

/-! ## FLCOPY -/

/-- The option word of a copy. -/
def Cx.option (c : Cx) : FlOpt → Word
  | .none => 0
  | .reg b => c.sreg b
  | .long v => sext58 v

/-- The operands of an option word. -/
def optOpnds : FlOpt → List Opnd
  | .reg b => [sSrc b]
  | _ => []

/-- The register of an option word; 0 for an immediate. -/
def optReg : FlOpt → Nat
  | .reg b => b.toNat
  | _ => 0

/-- Whether an option word is given. -/
def hasOption : FlOpt → Bool
  | .none => false
  | _ => true

/-- The copy that a FLCOPY of dimension `d` describes. -/
def Cx.copyOf (c : Cx) (o : FlcopyOp) (d : Nat) : FlCopy :=
  let b := c.blk o.a
  let opt := c.option o.opt
  let rowb := hiHalf (b 1)
  let nrows := if d < 2 then 1 else hiHalf (b 2)
  let npl := if d < 3 then 1 else hiHalf (b 4)
  { gaddr := b 0, spoff := loHalf (b 1), rowb, nrows, sstr := if d < 2 then rowb else loHalf (b 2)
    gstr := if d < 2 then 0 else (b 3).toInt, npl, pstr := if d < 3 then 0 else loHalf (b 4)
    gpstr := if d < 3 then 0 else (b 5).toInt, out := o.out
    mc := if o.mc then some (opt.toNat % 16, opt.toNat / 16 % 64) else none, cred := o.cred.map BitVec.toNat
    dg := o.dg.map BitVec.toNat, fin := if o.final then some (hiHalf opt) else none, batch := c.fb.batch
    fill := false, accepted := false, left := [], seen := [], kept := [], data := [], failed := [] }

/-- First and last bytes of every row. -/
def FlCopy.rowEnds (x : FlCopy) : List Word :=
  (List.range (x.npl * x.nrows)).flatMap fun j =>
    let a := x.global (j * x.perRow)
    [a, a + BitVec.ofNat 64 (x.rowb - 1)]

/-- The checks of R330 on a copy of dimension `d`. -/
def Cx.copyChecks (c : Cx) (o : FlcopyOp) (d : Nat) (x : FlCopy) : List Check :=
  let a := o.a.toNat
  let when' (b : Bool) (l : List Check) : List Check := if b then l else []
  [limit (decide (x.rowb < 32) || decide (0x400000 < x.rowb)) (a + 1)]
    ++ when' (decide (2 ≤ d)) [limit (decide (x.nrows < 1) || decide (65535 < x.nrows) || decide (x.sstr < x.rowb)) (a + 2)]
    ++ when' (decide (3 ≤ d))
        [limit (decide (x.npl < 1) || decide (65535 < x.npl) || decide (x.pstr < (x.nrows - 1) * x.sstr + x.rowb)) (a + 4)]
    ++ when' (hasOption o.opt) [limit (decide ((c.option o.opt).extractLsb' 10 22 ≠ 0)) (optReg o.opt)]
    ++ when' (x.mc.isSome && !c.l.kernel.mcast) [⟨true, .illegal, 0⟩]
    ++ (match x.cred with
      | some i => [weirCheck c.l.kernel.nw i]
      | none => [])
    ++ [aligned x.spoff 32, aligned x.rowb 32]
    ++ when' (decide (2 ≤ d)) [aligned x.sstr 32]
    ++ when' (decide (3 ≤ d)) [aligned x.pstr 32]
    ++ (match x.fin with
      | some f => [aligned f 32]
      | none => [])
    ++ [inSpad c.spadsz x.spoff x.extent]
    ++ (match x.fin with
      | some f => [inSpad c.spadsz f 64, apart x.spoff x.extent f 64]
      | none => [])
    ++ x.rowEnds.map canonCheck

/-- Flume copies on the core of a workgroup that have not completed. -/
def State.flumeLoad (s : State) (w : Wg) : Nat :=
  (s.cmds.filter fun p => match p.2.body with
    | .flume _ => p.2.fib.isSome && match s.wgs.find? p.2.wg with
        | some g => decide (g.die = w.die) && decide (g.core = w.core)
        | none => false
    | _ => false).length

/-- The effect of FLCOPY of dimension `d` (R333 to R340). -/
def Cx.flcopy (c : Cx) (o : FlcopyOp) (d : Nat) : Res :=
  let x := c.copyOf o d
  c.checked (c.copyChecks o d x) <|
    if c.acquiring || decide (256 ≤ c.s.flumeLoad c.w) then c.wait .interlock
    else
      let empty := match x.mc with
        | some m => !(List.range 24).any (meshSelects m)
        | none => false
      let x := { x with left := if empty then [] else x.sectors }
      let s := c.command (c.setF fun fb => { fb with openN := fb.openN + 1 }) .ocf (x.ranges c.w.core) (.flume x) none 0
      .ok (s.tryAccept c.s.nextId)

/-- Operands of FLCOPY with a block of `k` registers. -/
def copyOpnds (o : FlcopyOp) (k : Nat) : List Opnd := block o.a k :: optOpnds o.opt

/-- R333 to R337: FLCOPY.1d. -/
def execFlcopy1d (o : FlcopyOp) (s : State) : Out := issue s (copyOpnds o 2) fun c => c.flcopy o 1

/-- R333 to R337: FLCOPY.2d. -/
def execFlcopy2d (o : FlcopyOp) (s : State) : Out := issue s (copyOpnds o 4) fun c => c.flcopy o 2

/-- R333 to R337: FLCOPY.3d. -/
def execFlcopy3d (o : FlcopyOp) (s : State) : Out := issue s (copyOpnds o 6) fun c => c.flcopy o 3

/-! ## Batches (05 R133, R340) -/

/-- What sealing the open batch comes to. -/
inductive Seal where
  | done (s : State) (undo : Option (Nat × Nat))
  /-- It waits for the given batch, then the oldest of 63, to complete. -/
  | wait (batch : Nat)

/-- The open batch sealed (R133). -/
def Cx.seal (c : Cx) : Seal :=
  let l := c.s.sealed c.f c.fb
  let late := match c.fb.await with
    | .seal b => if l.contains b then some b else none
    | _ => none
  if c.fb.openN = 0 then .done c.s none
  else match late with
    | some b => .wait b
    | none => match (if 63 ≤ l.length then l.head? else none) with
      | some b => .wait b
      | none => .done (c.setF fun fb => { fb with batch := fb.batch + 1, openN := 0 }) (some (c.fb.batch, c.fb.openN))

/-- The wait of FLSEAL or FLWAIT for a batch. -/
def Cx.sealWait (c : Cx) (b : Nat) : Res := .part c.s (fun fb => { fb with await := .seal b }) .interlock

/-- R133, R340: FLSEAL. -/
def execFlseal (s : State) : Out :=
  issue s [] fun c => match c.seal with
    | .done s _ => .ok s
    | .wait b => c.sealWait b

/-- R133, R340: FLWAIT. -/
def execFlwait (o : ImmOp) (s : State) : Out :=
  issue s [] fun c => match c.seal with
    | .wait b => c.sealWait b
    | .done s undo => c.waitOc s .ocf o.n.toNat undo

/-! ## The static copy schedule (05 R143, R144) -/

/-- NENT and NSTAGE of a launch's schedule. -/
def Launch.nent (l : Launch) : Nat := if l.sched.isEmpty then 0 else fieldLe l.sched 0 4
def Launch.nstage (l : Launch) : Nat := if l.sched.isEmpty then 0 else fieldLe l.sched 4 2

/-- A signed 64-bit field. -/
def signedLe (l : List Byte) (o : Nat) : Int := intOf 64 true (fieldLe l o 8)

/-- Entry `k` of a schedule as a copy of workgroup `index`. -/
def Launch.fill (l : Launch) (index k nw : Nat) : FlCopy :=
  let e := l.sched.drop (0x10 + 64 * k)
  let stride (i : Nat) : Int := signedLe e (8 * (i - 1)) * (l.fieldOf index i : Nat)
  let rowb := fieldLe e 0x2C 4
  let nrows := fieldLe e 0x30 2
  let w := fieldLe e 0x33 1
  { gaddr := BitVec.ofInt 64 ((fieldLe e 0 8 : Nat) + stride 2 + stride 3 + stride 4 + stride 5)
    spoff := fieldLe e 0x28 4, rowb, nrows, sstr := fieldLe e 0x38 4, gstr := (fieldLe e 0x34 4 : Nat), npl := 1, pstr := 0
    gpstr := 0, out := false, mc := none, cred := if w = 0xFF ∨ nw ≤ w then none else some w, dg := none, fin := none
    batch := 0, fill := true, accepted := false, left := List.range (nrows * (rowb / 32)), seen := [], kept := [], data := [], failed := [] }

/-- One schedule entry issued: a fill, which holds later accesses of its destination until it is accepted (log entry
92), or where its region passes SPADSZ the failure of its sectors. The sectors of its region are those of its rows, not
those between them (DESIGN CHOICE, log entry 93). -/
def State.issueFill (s : State) (id : Nat) (l : Launch) (k : Nat) : State :=
  match s.wgs.find? id with
  | none => s
  | some w =>
    let x := l.fill w.index k l.kernel.nw
    if l.kernel.spad < x.spoff + x.extent then
      s.setWg id ((List.range x.count).foldl (fun g i =>
        if x.offset i + 32 ≤ l.kernel.spad then g.setSector (x.offset i / 32) (.failed .spadbound) else g) w)
    else
      let n := s.nextId
      ((s.setCmd n { wg := id, fib := none, ctr := none, rngs := x.ranges w.core, body := .flume x, back := none, dst := 0, err := none
                     since := s.clkOf w, binds := [] }).named.inherit (.engine n) (.start id)).tryAccept n

/-- The entries of a stage issued in entry order. -/
def State.issueStage (s : State) (id stage : Nat) : State :=
  match s.wgs.find? id with
  | none => s
  | some w => match s.launchOf w with
    | none => s
    | some l =>
      ((List.range l.nent).filter fun k => decide (fieldLe (l.sched.drop (0x10 + 64 * k)) 0x32 1 = stage)).foldl
        (fun s k => s.issueFill id l k) s

/-- R144, R340: FLSTAGE. -/
def execFlstage (s : State) : Out :=
  issue s [] fun c =>
    if c.w.stage + 1 < c.l.nstage then
      .ok ((c.s.modWg c.fb.wg fun w => { w with stage := w.stage + 1 }).issueStage c.fb.wg (c.w.stage + 1))
    else .ok c.s

/-! ## Landing and failing (05 R134 to R140) -/

/-- A copy's command changed by `g`. -/
def State.modCopy (s : State) (cmd : Nat) (g : FlCopy → FlCopy) : State :=
  s.modCmd cmd fun c => match c.body with
    | .flume x => { c with body := .flume (g x) }
    | _ => c

/-- A copy with an error recorded, unless it has one. -/
def State.failCmd (s : State) (cmd : Nat) (cause : Cause) (addr : Word) : State := s.modCmd cmd fun c => c.failing cause addr

/-- The credit of a landed or failed sector in workgroup `r`; an excess landing under OVTRAP is an error of the copy
(05 R125), at the offset of its sector (DESIGN CHOICE, log entry 96). -/
def State.credit (s : State) (cmd r : Nat) (x : FlCopy) (off : Nat) (e : Bool) : State :=
  match x.cred, s.wgs.find? r with
  | some i, some g =>
    if i < g.weirs.length then
      let exc := (g.weir i).ovtrap && (g.weir i).excess 0 32
      let s := s.countWeir r i 0 32 e
      if exc then s.failCmd cmd .engine (BitVec.ofNat 64 off) else s
    else s
  | _, _ => s

/-- Sector `k` no longer outstanding; once none is, the data range leaves the scoreboard. -/
def State.sectorDone (s : State) (cmd k : Nat) : State :=
  s.modCmd cmd fun c => match c.body with
    | .flume x =>
      let left := x.left.filter fun j => decide (j ≠ k)
      { c with
        body := .flume { x with left }
        rngs := if left.isEmpty then (match x.fin with
          | some d => [writeRng d 64]
          | none => []) else c.rngs }
    | _ => c

/-- The byte of a sector in a save slot: 0 for PRESENT, else the FAILED cause (17 R413). -/
def Sector.saved : Sector → Byte
  | .failed c => BitVec.ofNat 8 c.code
  | _ => 0

/-- The saved image of the scratchpad sector at offset `off` of workgroup `w` brought up to date (05 R140). -/
def State.imageSector (s : State) (w off : Nat) : State :=
  match s.wgs.find? w with
  | none => s
  | some g =>
    if g.resident then s
    else match s.launchOf g with
      | none => s
      | some l =>
        let o := 0x500 + 64 * l.kernel.nw
        (s.imageBytes g (o + off) (g.spad.bytes off 32)).imageBytes g (o + l.kernel.spad + off / 32)
          [(g.sectors.getD (off / 32) .present).saved]

/-- Sector `k` of an inbound copy set in every receiver: data with PRESENT, or a failure; then its credit. -/
def State.deliver (s : State) (e : EngCx) (x : FlCopy) (k : Nat) (r : Except Cause (List Byte)) : State :=
  let (ids, missing) := s.receivers e.c.wg e.w e.l x
  let off := x.offset k
  let s := if missing then s.failCmd e.cmd .engine (BitVec.ofNat 64 off) else s
  ids.foldl (fun s id =>
    let s := s.modWg id fun g =>
      match r with
      | .ok b => ({ g with spad := g.spad.putBytes off b } : Wg).setSector (off / 32) .present
      | .error c => g.setSector (off / 32) (.failed c)
    (s.imageSector id off).credit e.cmd id x off (match r with | .ok _ => false | .error _ => true)) s

/-- The address that a failed sector of a copy reports (R331). -/
def FlCopy.errAddr (x : FlCopy) (k : Nat) : Word := if x.out then x.toGlobal k else BitVec.ofNat 64 (x.offset k)

/-- Sector `k` of a copy fails with a cause (05 R134). -/
def State.failSector (s : State) (e : EngCx) (x : FlCopy) (k : Nat) (c : Cause) : State :=
  let s := (s.modCopy e.cmd fun y => { y with failed := y.failed ++ [k] }).failCmd e.cmd c (x.errAddr k)
  let s := s.unstallWho e.w.part (.engine e.cmd k)
  let s := s.sectorDone e.cmd k
  if x.out then s else s.deliver e x k (.error c)

/-- The aligned global sector at `va` as a copy reads it: once, where two scratchpad sectors share it. -/
def State.copySector (s : State) (e : EngCx) (x : FlCopy) (seen : List Nat) (va : Word) : EngOut :=
  match x.kept.find? (va.toNat / 32) with
  | some b => .done s b seen
  | none => s.engRead e seen va 32

/-- The global bytes of scratchpad sector `k` of an inbound copy: one aligned sector, or two that it reaches into. -/
def State.copyRead (s : State) (e : EngCx) (x : FlCopy) (k : Nat) : EngOut :=
  let va := x.global k
  let m := va.toNat % 32
  if m = 0 then s.engRead e x.seen va 32
  else
    let a := va - BitVec.ofNat 64 m
    match s.copySector e x x.seen a with
    | .done s b seen => match s.copySector e x seen (a + 32) with
      | .done s b' seen => .done s (b ++ b') seen
      | r => r
    | r => r

/-- The bytes of sector `k` among those that `copyRead` gives. -/
def FlCopy.bytesOf (x : FlCopy) (k : Nat) (b : List Byte) : List Byte := (b.drop ((x.global k).toNat % 32)).take 32

/-- The global sectors kept after a read for sector `k`. -/
def FlCopy.keep (x : FlCopy) (k : Nat) (b : List Byte) : Tbl (List Byte) :=
  if b.length ≤ 32 then x.kept
  else (x.kept.put ((x.global k).toNat / 32) (b.take 32)).put (((x.global k).toNat / 32 + 1) % 2 ^ 59) (b.drop 32)

/-- What sector `k` of a copy meets now: a source read, or the write of scratchpad bytes that are PRESENT into one
sector of global memory. Rows that overlap there are written in order (R338). -/
def State.sectorTry (s : State) (e : EngCx) (x : FlCopy) (k : Nat) : EngOut :=
  if x.out then
    let off := x.ofSpad k
    let n := (x.piece k).2
    let va := x.toGlobal k
    if e.w.arriving off n || (x.left.any fun j => decide (j < k) && decide ((x.toGlobal j).toNat / 32 = va.toNat / 32)) then .wait s
    else match e.w.failedAt off n with
      | some c => .fail s c va
      | none => s.engWrite e k x.seen va (e.w.spad.bytes off n)
  else s.copyRead e x k

/-- The context and copy of an event on sector `k`, where the sector is outstanding and no fault of it waits. -/
def State.sectorCx (s : State) (cmd k : Nat) : Option (EngCx × FlCopy) :=
  match s.engCx cmd with
  | none => none
  | some e => match e.c.body with
    | .flume x => if x.accepted && x.left.contains k && !s.tokened e.w.part cmd k then some (e, x) else none
    | _ => none

/-- R337: a copy that waited for earlier ranges is accepted. -/
def execFlumeCopyAccept (s : State) : Out :=
  match s.cur with
  | .event (.flumeCopyAccept cmd) => .next (s.tryAccept cmd)
  | _ => .next s

/-- R136, R338: a sector's data lands, or is written; a fault goes to the executive. -/
def execFlumeSectorLand (s : State) : Out :=
  match s.cur with
  | .event (.flumeSectorLand cmd k) =>
    match s.sectorCx cmd k with
    | none => .next s
    | some (e, x) =>
      match s.sectorTry e x k with
      | .done s' b seen =>
        let s := (s'.modCopy cmd fun y =>
          { y with seen, kept := if x.out then y.kept else y.keep k b
                   data := if y.dg.isSome then y.data.put k (x.bytesOf k b) else y.data }).sectorDone cmd k
        .next ((if x.out then s else s.deliver e x k (.ok (x.bytesOf k b))).bumpWg e.w 0x0D 1)
      | .fault c va => .next (s.postToken e.w.part cmd k e.c c va)
      | .wait s' => .next s'
      | .fail _ _ _ => .next s
  | _ => .next s

/-- R134: a sector fails with the cause it meets. -/
def execFlumeSectorFail (s : State) : Out :=
  match s.cur with
  | .event (.flumeSectorFail cmd k) =>
    match s.sectorCx cmd k with
    | none => .next s
    | some (e, x) =>
      match s.sectorTry e x k with
      | .fail s' c _ => .next (s'.failSector e x k c)
      | _ => .next s
  | _ => .next s

/-! ## Completion and digests (05 R134, R141, R142) -/

/-- The bytes of a copy in hashing order. -/
def FlCopy.hashed (x : FlCopy) : List Byte := x.data.flatMap (·.2)

/-- A set after a completed copy's bytes; a failed sector stops it. -/
def Digest.after (d : Digest) (x : FlCopy) : Digest :=
  if d.stopped then d else if x.failed.isEmpty then d.update x.hashed else { d with stopped := true }

/-- The digest work of a copy at its completion. -/
def State.digest (s : State) (e : EngCx) (x : FlCopy) : State :=
  match x.dg with
  | none => s
  | some i =>
    let d := (e.w.dgs.getD i Digest.start).after x
    match x.fin with
    | none => s.modWg e.c.wg fun g => { g with dgs := g.dgs.set i d }
    | some o =>
      if d.stopped then
        (s.modWg e.c.wg fun g => ({ g with dgs := g.dgs.set i Digest.start } : Wg).setSectors o 64 (.failed .engine)).failCmd
          e.cmd .engine (BitVec.ofNat 64 o)
      else
        s.modWg e.c.wg fun g =>
          ({ g with dgs := g.dgs.set i Digest.start, spad := g.spad.putBytes o (d.value ++ toLe 0 16) } : Wg).setSectors o 64 .present

/-- Whether an earlier copy of the workgroup that names the same set has not completed. -/
def State.digestBehind (s : State) (e : EngCx) (x : FlCopy) : Bool :=
  x.dg.isSome && s.cmds.any fun p => decide (p.1 < e.cmd) && decide (p.2.wg = e.c.wg) && match p.2.body with
    | .flume y => decide (y.dg = x.dg)
    | _ => false

/-- R134, R337, R338: a copy completes. -/
def execFlumeCopyComplete (s : State) : Out :=
  match s.cur with
  | .event (.flumeCopyComplete cmd) =>
    match s.engCx cmd with
    | none => .next s
    | some e => match e.c.body with
      | .flume x =>
        if x.accepted && x.left.isEmpty && !s.engHeld cmd && !s.digestBehind e x then
          let s := s.digest e x
          match s.cmds.find? cmd with
          | some c => .next (s.completeCmd cmd c)
          | none => .next s
        else .next s
      | _ => .next s
  | _ => .next s

/-! ## XRESUME (18 R423) -/

/-- The token that XRESUME names, removed: its command, sector and address. -/
def State.takeToken (s : State) (p token : Nat) : Option (Token × State) :=
  ((s.part p).tokens.find? fun t => decide (t.token = token)).map fun t =>
    (t, s.modPart p fun x => { x with tokens := x.tokens.filter fun y => decide (y.token ≠ token) })

/-- A waiting sector or row failed by the executive. -/
def State.failToken (s : State) (t : Token) (c : Cause) : State :=
  match s.engCx t.cmd with
  | none => s
  | some e => match e.c.body with
    | .flume x => s.failSector e x t.sector c
    | .gather g => s.setCmd t.cmd { e.c with body := .gather { g with fails := g.fails ++ [(t.sector, c)] } }
    | .scatter g => s.setCmd t.cmd { e.c with body := .scatter { g with fails := g.fails ++ [(t.sector, c)] } }
    | _ => s

/-- A store of a service core to XRESUME. -/
def State.xresume (s : State) (by' : CtlBy) (p token : Nat) (c : Option Cause) : State :=
  s.ctl by' (partBase p + 0x80) fun _ s =>
    match s.takeToken p token with
    | none => s
    | some (t, s) => match c with
      | none => s
      | some c => s.failToken t c

/-- R423: XRESUME with ACT 0. -/
def execXresumeRetry (s : State) : Out :=
  match s.cur with
  | .event (.xresumeRetry by' p token) => .next (s.xresume by' p token none)
  | _ => .next s

/-- R423: XRESUME with ACT 1. -/
def execXresumeFailXlate (s : State) : Out :=
  match s.cur with
  | .event (.xresumeFailXlate by' p token) => .next (s.xresume by' p token (some .xlate))
  | _ => .next s

/-- R423: XRESUME with ACT 2. -/
def execXresumeFailPerm (s : State) : Out :=
  match s.cur with
  | .event (.xresumeFailPerm by' p token) => .next (s.xresume by' p token (some .perm))
  | _ => .next s

end Sys2Proof.Machine
end

