-- ==== Sys2Proof/Machine/SaveImage.lean ====
section
/-! DEFINITION. The context save area (17 R413): its sizes, and the bytes of a slot's shared section and gang sections. -/

namespace Sys2Proof.Machine

/-! ## Sizes -/

/-- The next multiple of 64. -/
def roundup64 (x : Nat) : Nat := ceilDiv x 64 * 64

/-- SHARED. -/
def Kernel.sharedSize (k : Kernel) : Nat :=
  roundup64 (1280 + 64 * k.nw + k.spad + k.spad / 32 + 32832 * k.nt + 67648 * k.nmac)

/-- GANGMAX of a launch. -/
def Launch.gangMax (l : Launch) : Nat :=
  let w := 2 ^ l.width 0
  64 + 16 * roundup64 (1536 + 4 * w + 4 * w * l.kernel.nv)

/-- Gangs of a workgroup (02 R27). -/
def Launch.gangs (l : Launch) : Nat := ceilDiv (l.count 1 * 2 ^ l.width 0) 128

/-- REFSZ. -/
def Launch.refsz (l : Launch) : Nat := l.kernel.sharedSize + l.gangs * l.gangMax

/-- Whether SAVESZ admits a swap or a save (R410). -/
def Launch.saves (l : Launch) : Bool := decide (l.refsz ≤ l.field 0x54 4)

/-! ## The shared section -/

/-- Bytes padded with zeros to `n`. -/
def padTo (n : Nat) (l : List Byte) : List Byte := (l ++ List.replicate n 0).take n

/-- Bytes whose layout R413 does not give: free values. -/
def freeBytes (n k : Nat) : List Byte := tabulate k fun i => BitVec.ofNat 8 (Config.savedByte n i)

/-- A tile record. -/
def Wg.savedTile (w : Wg) (nt t : Nat) : List Byte :=
  let x := w.tile t
  (List.range 2048).flatMap (fun i => toLe (x.elems.getD i 0).toNat 16)
    ++ toLe (if x.st = .free then 0 else (tileWord w nt t).toNat) 8 ++ toLe 0 56

/-- Elements of a bank as bytes, in the order of 128 × k + j, each in the bits of the bank's format. -/
def Bank.saved (b : Bank) : List Byte :=
  toLe (packElems (mxBits b.fmt) (tabulate (mxK b.fmt * 128) fun i => (b.elems.getD i 0).toNat)) 32768
    ++ tabulate 1024 fun i => b.scales.getD i 0x7F

/-- The shared section of a workgroup named by launch `l`; `n` names its free bytes. -/
def Wg.savedShared (w : Wg) (l : Launch) (n : Nat) : List Byte :=
  let k := l.kernel
  let mask := ((w.gangs.mapIdx fun i g => if g.isNone then 2 ^ i else 0).foldl (· + ·) 0)
  let version := match w.version with
    | none => 0
    | some v => if v.spilled then 2 else 1
  padTo 256 (toLe l.ident.toNat 8 ++ toLe (widOf l w 0).toNat 8 ++ toLe w.retired 8 ++ toLe mask 2 ++ toLe w.stage 1
      ++ toLe w.gangs.length 1 ++ toLe k.spad 4 ++ toLe version 8)
    ++ freeBytes n 1024
    ++ w.weirs.flatMap Weir.saved
    ++ w.spad.bytes 0 k.spad
    ++ tabulate (k.spad / 32) (fun i => (w.sectors.getD i .present).saved)
    ++ (List.range k.nt).flatMap (w.savedTile k.nt)
    ++ (List.range k.nmac).flatMap fun m => (w.bank m 0).saved ++ (w.bank m 1).saved ++ freeBytes (n + 1 + m) 8 ++ toLe 0 56

/-! ## Fibre records -/

/-- The code of a state in a fibre record. -/
def FibreState.code : FibreState → Nat
  | .ready => 0 | .interlock => 1 | .parked => 2 | .waiting => 3 | .held => 4 | .stopped => 5 | .ended => 5

/-- Shape code of a V register. -/
def shapeCode : Option VVal → Nat
  | none => 0
  | some (.uni _) => 1
  | some (.aff _ _) => 2
  | some (.gen _) => 3

/-- A V register's bytes by its shape. -/
def VVal.saved (w : Nat) (x : VVal) : List Byte :=
  match x with
  | .uni b => toLe b.toNat 4
  | .aff b s => toLe b.toNat 4 ++ toLe s.toNat 4
  | .gen _ => (List.range w).flatMap fun i => toLe (x.lane i).toNat 4

/-- Values packed from the lowest bit. -/
def packBits (w : Nat) (l : List Nat) (n : Nat) : List Byte := toLe (packElems w l) n

/-- Fibre record of fibre `fb` at cycle `now`, its parent's record number `parent`. -/
def Fibre.saved (fb : Fibre) (w now parent : Nat) : List Byte :=
  let left := match fb.heldAt with
    | some t => 256 - (now - t)
    | none => 0
  let tmo := match fb.await with
    | .weir x => match x.deadline with
      | some d => ceilDiv (d - now) 256
      | none => 0
    | _ => 0
  let entry (e : Option LoopEntry) : List Byte := match e with
    | some e => toLe e.start.toNat 8 ++ toLe e.last.toNat 8 ++ toLe e.rem 8
    | none => toLe 0 24
  let up (i : Nat) : List Byte := match fb.upcalls[i]? with
    | some u => toLe u.code 8 ++ toLe u.arg.toNat 8
    | none => toLe 0 16
  let regs := (List.range 256).map RegRef.v ++ (List.range 64).map RegRef.s ++ (List.range 16).map RegRef.m
  toLe fb.pc.toNat 8
    ++ toLe (fb.st.code + parent * 256 + left % 512 * 2 ^ 16 + tmo % 2 ^ 32 * 2 ^ 32) 8
    ++ toLe ((fb.target.map BitVec.toNat).getD 1) 8
    ++ toLe ((flagsWord fb.flags).toNat + 16 * bit fb.ftz + 256 * fb.loops.length + 65536 * (fb.batch % 65536)
      + 2 ^ 32 * bit (decide (fb.openN ≠ 0)) + 2 ^ 48 * fb.upcalls.length) 8
    ++ (List.range 4).flatMap (fun i => entry fb.loops[i]?)
    ++ (List.range 16).flatMap (fun i => toLe (fb.m.getD i 0).toNat 16)
    ++ (List.range 64).flatMap (fun i => toLe (fb.s.getD i 0).toNat 8)
    ++ (List.range 4).flatMap (fun i => toLe (fb.slots.getD i LockSlot.empty).word.toNat 8)
    ++ toLe fb.errs.length 8 ++ toLe (((oldestErr fb.errs).map fun e => e.info.toNat).getD 0) 8
    ++ toLe fb.ucause.toNat 8 ++ toLe fb.upc.toNat 8 ++ toLe fb.uinfo.toNat 8
    ++ (List.range 4).flatMap up
    ++ packBits 4 (regs.map fb.winOf) 168
    ++ (List.range 8).flatMap (fun t => toLe (fb.tiles.getD t 0xFF) 1)
    ++ packBits 2 ((List.range 256).map fun i => shapeCode (fb.v.find? i)) 64
    ++ toLe 0 264
    ++ (List.range w).flatMap (fun i => toLe (fb.srs.getD i 0).toNat 4)
    ++ fb.v.flatMap fun r => r.2.saved w

end Sys2Proof.Machine
end

