-- ==== Sys2Proof/Machine/Lifecycle.lean ====
section
/-! DEFINITION. The life of a workgroup: room on a core (17 R402), start (02 R33), commit and end (02 R36, 04 R112,
10 R251), flush and kill (17 R410), saving and restoring a gang (17 R410, R411, R413). -/

namespace Sys2Proof.Machine

/-! ## Room on a core (R402, R404, 01 R21, 05 R120, 06 R149) -/

/-- What workgroups take of a core. -/
structure Use where
  gangs : Nat
  win   : Nat
  nw    : Nat
  spad  : Nat
  nt    : Nat
  nmac  : Nat
  deriving DecidableEq, Repr

/-- What a kernel takes for `n` gangs, with the shared part or without it. -/
def useOf (k : Kernel) (n : Nat) (shared : Bool) : Use :=
  let b := bit shared
  { gangs := n, win := n * k.nv * 512, nw := b * k.nw, spad := b * k.spad, nt := b * k.nt, nmac := b * k.nmac }

/-- Sum of two uses. -/
def Use.add (a b : Use) : Use :=
  { gangs := a.gangs + b.gangs, win := a.win + b.win, nw := a.nw + b.nw, spad := a.spad + b.spad, nt := a.nt + b.nt
    nmac := a.nmac + b.nmac }

/-- Resident gangs of a workgroup, by their index, without those of `gone`. -/
def Wg.residentIx (w : Wg) (id : Nat) (gone : List (Nat × Nat)) : List Nat :=
  (List.range w.gangs.length).filter fun i => (w.gangs.getD i none).isSome && !gone.contains (id, i)

/-- The workgroups with a gang on a core, without the gangs of `gone`. -/
def State.residents (s : State) (d c : Nat) (gone : List (Nat × Nat)) : List (Nat × Wg) :=
  s.wgs.filter fun p => decide (p.2.die = d) && decide (p.2.core = c) && !(p.2.residentIx p.1 gone).isEmpty

/-- What stands on a core without the gangs of `gone`. -/
def State.used (s : State) (d c : Nat) (gone : List (Nat × Nat)) : Use :=
  (s.residents d c gone).foldl (fun u p => match s.launchOf p.2 with
    | some l => u.add (useOf l.kernel (p.2.residentIx p.1 gone).length true)
    | none => u) ⟨0, 0, 0, 0, 0, 0⟩

/-- PRIO of a launch's queue. -/
def State.prio (s : State) (l : Launch) : Nat := (s.queue l.part l.queue).prio

/-- Whether a core takes no launch of priority `p` because a workgroup that runs or last ran on it drains and has not
ended (R410). -/
def State.barred (s : State) (d c p : Nat) : Bool :=
  s.wgs.any fun x => decide (x.2.die = d) && decide (x.2.core = c) && match x.2.drainBar with
    | some b => decide (p < b)
    | none => false

/-- Whether `gangs` gangs of launch `l`, with or without the workgroup's shared part, fit on a core once the gangs of
`gone` are off it. -/
def State.fits (s : State) (d c : Nat) (l : Launch) (gangs : Nat) (shared : Bool) (gone : List (Nat × Nat)) : Bool :=
  let k := s.lcore d c
  let p := l.field 0x10 4
  let u := (s.used d c gone).add (useOf l.kernel gangs shared)
  k.online && !k.drain && decide (u.gangs ≤ 64) && decide (u.nw ≤ 64) && decide (u.nmac ≤ 4)
    && decide (u.win ≤ p % 256 * 65536) && decide (u.spad ≤ p / 256 % 256 * 65536) && decide (u.nt ≤ 2 * (p / 65536 % 256))
    && ((s.residents d c gone).isEmpty || decide (k.partw.toNat = p)) && !s.barred d c (s.prio l)

/-- Whether a workgroup of the same die share of a multicast launch stands on a core (R404). -/
def State.twin (s : State) (d c n : Nat) (l : Launch) (index : Nat) : Bool :=
  l.kernel.mcast && s.wgs.any fun p => decide (p.2.launch = n) && decide (p.2.die = d) && decide (p.2.core = c)
    && decide (l.fieldOf p.2.index 4 = l.fieldOf index 4) && decide (p.2.index ≠ index)

/-- Whether a core is held free for a multicast die share other than `own`, so that it takes no workgroup of launch `l`
(R404). -/
def State.heldFree (s : State) (d c : Nat) (own : Option (Nat × Nat)) (l : Launch) : Bool :=
  match (s.lcore d c).freedFor with
  | none => false
  | some m => decide (own ≠ some m) && match s.launches.find? m.1 with
    | some x => decide (s.prio l ≤ s.prio x)
    | none => false

/-- The multicast die share to which a workgroup of launch `n` belongs. -/
def Launch.share (l : Launch) (n index : Nat) : Option (Nat × Nat) := if l.kernel.mcast then some (n, l.fieldOf index 4) else none

/-- Gang numbers in use on a core. -/
def State.gangsOn (s : State) (d c : Nat) : List Nat := (s.residents d c []).flatMap fun p => p.2.gangs.filterMap id
/-- Physical tiles in use on a core. -/
def State.tilesOn (s : State) (d c : Nat) : List Nat := (s.residents d c []).flatMap fun p => p.2.ptile

/-- Whether a list names `n` different free things below `k`. -/
def picks (l : List Nat) (n k : Nat) (busy : List Nat) : Bool :=
  decide (l.length = n) && decide l.Nodup && l.all fun x => decide (x < k) && !busy.contains x

/-! ## Start (02 R33, 05 R121, R144, 04 R82) -/

/-- The byte of a core's pool at which its scratchpad begins (01 R19). -/
def spadFrom (l : Launch) : Nat := l.field 0x10 1 * 65536

/-- The bytes that a new workgroup finds in its scratchpad, which begins at byte `a` of the pool (04 R82). -/
def startSpad (relics : Mem) (a spad n : Nat) : Mem :=
  (relics.filter fun p => decide (a ≤ p.1) && decide (p.1 < a + spad) && Config.spadKeeps n (p.1 - a)).map fun p => (p.1 - a, p.2)

/-- SRS of a lane at workgroup start (03 R63). -/
def srsSeed (wid : Word) : Lane :=
  let x := wid.extractLsb' 0 32 ^^^ wid.extractLsb' 32 32 ^^^ 0x6A09E667
  if x = 0 then 1 else x

/-- A fibre at its start (02 R33) at the header at `pc`, with S0 holding ARGS, S1 its WID and SP the private size. -/
def Fibre.start (wg num width : Nat) (pc args wid sp : Word) : Fibre :=
  { wg, num, pc, blkEnd := pc, m := [(0, BitVec.ofNat 128 (2 ^ width - 1))], s := [(0, args), (1, wid), (62, sp)]
    v := [(0, .aff 0 1)], srs := tabulate width fun l => (l, srsSeed (wid ||| BitVec.ofNat 64 l)), z := false, n := false, c := false, o := false, ftz := false, loops := []
    target := none, heldAt := none, parent := none, slots := List.replicate 4 LockSlot.empty, batch := 0, openN := 0
    ucause := 0, upc := 0, uinfo := 0, upcalls := [], handler := false, wins := [], pend := [], tiles := [], errs := []
    finished := [], st := .ready, await := .none, stop := none, relMark := [], acqSeen := [], acqHeld := []
    acqIds := [], sysIds := [], arHeld := [], haltReq := false, stepReq := false
    lastSp := none, age := 0, yield := 0 }

/-- Fibre `num` at its start. -/
def startFibre (l : Launch) (w : Wg) (id num now : Nat) : Fibre :=
  { Fibre.start id num w.width l.kernel.entry (BitVec.ofNat 64 (l.field 0x48 8)) (widOf l w num) (BitVec.ofNat 64 (l.field 0x50 4))
      with age := now }

/-- A workgroup of launch `n` placed and started (R402). Its fibres and fills see what the posting of the launch released
(04 R105). -/
def State.startWg (s : State) (n : Nat) (l : Launch) (pl : Placement) : State :=
  let id := s.nextId
  let k := s.lcore pl.die pl.core
  let nfib := l.count 1
  let w : Wg :=
    { launch := n, index := pl.index, part := l.part, die := pl.die, core := pl.core, die0 := pl.die, core0 := pl.core
      gen := (k.starts + 1) % 65536, width := 2 ^ l.width 0, nfib, gangs := pl.gangs.map some, pbase := pl.pbase
      weirs := List.replicate l.kernel.nw Weir.start, priv := [], spad := startSpad k.relics (spadFrom l) l.kernel.spad s.free
      sectors := [], binds := []
      dgs := List.replicate 4 Digest.start, stage := 0, tiles := [], banks := [], ptile := pl.ptile, retired := 0
      version := if l.flag 2 then some { cells := [], spilled := false, spill := [] } else none, born := id, recalled := [], drainBar := none
      saving := [] }
  let now := s.clk pl.die
  let s := s.setLcore pl.die pl.core { k with starts := k.starts + 1, partw := BitVec.ofNat 64 (l.field 0x10 4) }
  let s := { s.drawn with
    wgs := s.wgs.put id w
    fibres := (List.range nfib).foldl (fun t i => t.put (id + 1 + i) (startFibre l w id i now)) s.fibres
    nextId := id + 1 + nfib }
  let s := (Viewer.start id :: (List.range nfib).map fun i => Viewer.fibre (id + 1 + i)).foldl (fun s v => s.learn v l.views) s
  let l' := { l with
    started := if l.started.contains pl.index then l.started else l.started ++ [pl.index], again := l.again.erase pl.index }
  let s := { s with launches := s.launches.put n l' }
  let s := if l'.allStarted && !l.allStarted then
      let q := s.queue l.part l.queue
      (s.setQueue l.part l.queue { q with inuse := q.inuse - 1 }).activate l.part l.queue
    else s
  s.issueStage id 0

/-! ## Leaving a core -/

/-- PSTAT.BUSY falls once no command of the core is in progress (R407). -/
def State.settleBusy (s : State) (d c : Nat) : State :=
  let k := s.lcore d c
  if k.busy && k.killing.isNone && !(s.wgs.any fun p => decide (p.2.die = d) && decide (p.2.core = c) && !p.2.saving.isEmpty) then
    s.setLcore d c { k with busy := false }
  else s

/-- The scratchpad bytes of a workgroup left in its core's pool (04 R82). -/
def State.leaveRelics (s : State) (w : Wg) : State :=
  match s.launchOf w with
  | none => s
  | some l =>
    let k := s.lcore w.die w.core
    s.setLcore w.die w.core { k with relics := w.spad.foldl (fun m p => m.put (spadFrom l + p.1) p.2) k.relics }

/-- A KIND 0 record that waits for room stays when its fibre goes away (R414). -/
def State.keepRecord (s : State) (id : Nat) (x : FaultWait) : FaultWait :=
  match x with
  | .fibre f => match s.fibres.find? f with
    | some fb => if fb.wg = id then (match s.recordOf f with
        | some r => .kept r.1 r.2
        | none => x) else x
    | none => x
  | .kept _ _ => x

/-- A workgroup's objects removed. -/
def State.clearWg (s : State) (id : Nat) (w : Wg) : State :=
  let s := if w.resident then s.leaveRelics w else s
  let s := { s with parts := s.parts.mapVal fun _ x => { x with waitFibs := x.waitFibs.map (s.keepRecord id) } }
  let s := { s with
    wgs := s.wgs.del id, fibres := s.fibres.filter fun p => decide (p.2.wg ≠ id), cmds := s.cmds.filter fun p => decide (p.2.wg ≠ id) }
  let s := { s with parts := s.parts.mapVal fun _ x =>
    { x with tokens := x.tokens.filter fun t => (s.cmds.find? t.cmd).isSome } }
  s.settleBusy w.die w.core

/-! ## Commit of a version (04 R112) -/

/-- What a commit waits for: locked lines, collections and fan-outs. -/
def State.commitWait (s : State) (v : Version) : Option State :=
  v.cells.keys.findSome? fun pa =>
    let g := s.grainAt pa
    let a := alignDown pa g
    if (s.line a g).locked then some s
    else match s.gate a g true with
      | .wait s => some s
      | .pass => none

/-- Runs of bytes at following addresses. -/
def runs : Tbl Byte → List (Nat × List Byte)
  | [] => []
  | (a, b) :: t => match runs t with
    | (a', l) :: r => if a' = a + 1 then (a, b :: l) :: r else (a, [b]) :: (a', l) :: r
    | [] => [(a, [b])]

/-- The bytes of one sector of workgroup `id`'s version performed at the home; a part of a lost sector is refused (21
R478). -/
def State.commitSector (s : State) (id : Nat) (v : Version) (k : Nat) : State :=
  let cells := v.cells.filter fun c => decide (c.1 / 32 = k)
  if s.dead (32 * k) 32 && decide (cells.length ≠ 32) then s.retireFrame (32 * k) (memSource (32 * k))
  else
    let s := (runs cells).foldl (fun s c =>
      s.homeStore (.start id) (BitVec.ofNat 64 c.1) { Issue.plain with wg := some id } c.1 c.2 false false) s
    let g := s.grainAt (32 * k)
    let a := alignDown (32 * k) g
    let line := s.line a g
    if line.homeWritten = line then s else s.setLine a line.homeWritten

/-- A version committed. -/
def State.commit (s : State) (id : Nat) (v : Version) : State :=
  ((v.cells.keys.map (· / 32)).foldr (fun k l => if l.head? = some k then l else k :: l) []).foldl (fun s k => s.commitSector id v k) s

/-! ## The end of a workgroup (02 R36, 10 R251) -/

/-- Whether an agent is a fibre or a command of workgroup `id`. -/
def State.agentOf (s : State) (id : Nat) (g : Agent) : Bool :=
  match g with
  | .lane f _ => match s.fibres.find? f with
    | some fb => decide (fb.wg = id)
    | none => false
  | .engine c _ => match s.cmds.find? c with
    | some x => decide (x.wg = id)
    | none => false
  | _ => false

/-- The writes that the end of a workgroup releases (04 R105): all that its fibres and commands have made, bound or
not, and those that one of its fibres sees. -/
def State.endIds (s : State) (id : Nat) : List Nat :=
  (s.past.filter fun r : Past => decide (r.wg = some id) || (r.binds.isEmpty && r.vis.any fun v => match v with
    | .fibre f => (s.fibres.find? f).any fun fb => decide (fb.wg = id)
    | .start w => decide (w = id)
    | _ => false)).map Past.id

/-- The release that the ends of a launch's workgroups are, the last at `spot` (04 R105). -/
def Launch.endRel (l : Launch) (spot : Spot) : Rel :=
  { obj := .finish l.part, live := true, scope := if 1 < l.count 5 then .sys else .pk, spot, ids := l.ends }

/-- The completion count of a launch whose last workgroup on this chip has ended at `spot` (R251). -/
def State.sendDone (s : State) (l : Launch) (spot : Spot) : State :=
  let h : Word := BitVec.ofNat 64 (l.field 0x78 8)
  if h = 0 then s
  else if (h.extractLsb' 38 10).toNat ≠ s.chip then s.send (.farArrival h 1 l.bad true)
  else match s.ofHandle l.part h with
    | some (w, i) => s.countWeir w i 1 0 l.bad (some (l.endRel spot))
    | none => s.notify l.part 0x01 h l.ident

/-- Engine errors of a workgroup that no WAITOC has reported. -/
def State.unreported (s : State) (id : Nat) : List EngErr :=
  (s.fibres.filter fun p => decide (p.2.wg = id)).flatMap fun p => p.2.errs

/-- A write of workgroup `id`, whose end is a release for every region bound to it. -/
def Past.unbound (id : Nat) (r : Past) : Past := if r.wg = some id then { r with binds := [] } else r

/-- The end of a workgroup whose fibres have ended: KIND 1 record, commit, freeing, and DONE. -/
def State.endWg (s : State) (id : Nat) (w : Wg) (l : Launch) : State :=
  let errs := s.unreported id
  let s := match oldestErr errs with
    | some e => s.faultLater w.part (s.wgRecord w 1 0x0E e.info (errs.length - 1))
    | none => s
  let s := match w.version with
    | some v => s.commit id v
    | none => s
  let l := { l with ended := l.ended ++ [w.index], bad := l.bad || !errs.isEmpty, ends := l.ends ++ s.endIds id }
  let spot := s.spotOfWg id
  let s := { s with past := s.past.map (Past.unbound id) }.clearWg id w
  if l.ended.length = l.total then { s with launches := s.launches.del w.launch }.sendDone l spot
  else { s with launches := s.launches.put w.launch l }

/-- R36: the event WORKGROUP_END. Writes held at locked lines are waited for: the end is a release (04 R105). -/
def execWorkgroupEnd (s : State) : Out :=
  .next (match s.cur with
    | .event (.workgroupEnd id) =>
      match s.wgs.find? id with
      | none => s
      | some w => match s.launchOf w with
        | none => s
        | some l =>
          if !(s.fibresOf id).isEmpty || (s.cmds.any fun p => decide (p.2.wg = id) && p.2.fib.isSome) || s.heldOf (s.agentOf id)
              || (!(s.unreported id).isEmpty && !s.storeRoom w.part) then s
          else match w.version.bind s.commitWait with
            | some s => s
            | none => s.endWg id w l
    | _ => s)

/-! ## Flush and kill (R410) -/

/-- Held writes of a workgroup that goes away without its releases: each stays or is dropped (R410, 04 R108). -/
def State.loseWrites (s : State) (id : Nat) : State :=
  { s with
    free := s.free + s.nextId + 1
    lines := s.lines.mapVal fun _ l =>
      { l with held := l.held.filter fun x => !s.agentOf id x.req.agent || Config.lostWrite (s.free + x.id) } }

/-- Whether an ACR of a workgroup has issued and is not performed (07 R180). -/
def State.acrOut (s : State) (id : Nat) : Bool :=
  s.cmds.any fun p => decide (p.2.wg = id) && match p.2.body with
    | .far ops => ops.any fun o => match o.kind with
      | .acr _ _ => true
      | .atom _ _ _ => false
      | .bank _ _ _ => false
    | _ => false

/-- Whether a lock slot of a workgroup is QUEUED, GRANTED or HELD. -/
def State.lockBusy (s : State) (id : Nat) : Bool := (s.fibresOf id).any fun p => p.2.slots.any LockSlot.busy

/-- Whether a counter of a workgroup's fibres is non-zero. -/
def State.ctrBusy (s : State) (id : Nat) (k : Ctr) : Bool :=
  s.cmds.any fun p => decide (p.2.wg = id) && decide (p.2.ctr = some k)

/-- Whether flush-and-restart is admitted (R410). -/
def State.flushable (s : State) (id : Nat) (w : Wg) : Bool :=
  !s.lockBusy id && !s.ctrBusy id .oci && !s.ctrBusy id .occ && match w.version with
    | some v => !v.spilled
    | none => true

/-- Flush-and-restart of a workgroup. -/
def State.flushWg (s : State) (id : Nat) (w : Wg) (l : Launch) : State :=
  let s := (s.loseWrites id).clearWg id w
  let s := { s with launches := s.launches.put w.launch { l with again := w.index :: l.again } }
  s.notify w.part 0x04 l.ident (BitVec.ofNat 64 w.index)

/-- The flush of a VERSIONED workgroup after a trap that is not resolved invisibly (R412). -/
def State.flushTrapped (s : State) (id : Nat) (w : Wg) (l : Launch) : State :=
  if s.acrOut id then s
  else (s.flushWg id w l).notify w.part 0x03 l.ident (BitVec.ofNat 64 w.index)

/-- Whether a kill must wait: a KIND 0 record of the workgroup that waits for the ring, or no room for its own (R414). -/
def State.killWaits (s : State) (id : Nat) (w : Wg) : Bool :=
  ((s.part w.part).waitFibs.any fun x => match x with
    | .fibre f => (s.fibres.find? f).any fun fb => decide (fb.wg = id)
    | .kept _ _ => false) || !s.storeRoom w.part

/-- A kill: every fibre ends, collective commands end with their context, the version is discarded with what engine
commands still write into it, and the record of KIND 2 is written. The workgroup ends once its other commands complete. -/
def State.killWg (s : State) (id : Nat) (w : Wg) (l : Launch) : State :=
  let s := s.loseWrites id
  let s := (s.fibresOf id).foldl (fun s p => s.endFibre p.1) s
  let s := { s with
    cmds := s.cmds.filter fun p => !(decide (p.2.wg = id) && match p.2.body with
      | .coll _ => true
      | _ => false)
    launches := s.launches.put w.launch { l with bad := true } }
  let s := s.modWg id fun g => { g with version := none, saving := [], recalled := [] }
  (s.faultLater w.part (s.wgRecord w 2 0 0 0)).settleBusy w.die w.core

/-- Kills of PCMD that waited for room, tried again (R414). -/
def State.retryKills (s : State) : State :=
  s.cores.foldl (fun s c =>
    match c.2.killing with
    | none => s
    | some id =>
      let free (s : State) : State := { s with cores := s.cores.put c.1 { (s.cores.getD c.1 c.2) with killing := none } }
      match s.wgs.find? id with
      | none => free s
      | some w => match s.launchOf w with
        | none => free s
        | some l => if s.killWaits id w then s else (free s).killWg id w l) s

/-! ## Saving a gang (R410, R413) -/

/-- The fibres of gang `i` of a workgroup, by name, live or ended. -/
def State.gangFibs (s : State) (id : Nat) (w : Wg) (i : Nat) : List (Nat × Fibre) :=
  s.fibres.filter fun p => decide (p.2.wg = id) && decide (w.gangIx p.2.num = i)

/-- Live fibres of a gang. -/
def State.gangLive (s : State) (id : Nat) (w : Wg) (i : Nat) : List (Nat × Fibre) :=
  (s.gangFibs id w i).filter fun p => p.2.st != .ended

/-- Whether every live fibre of a gang is WAITING. -/
def State.gangWaits (s : State) (id : Nat) (w : Wg) (i : Nat) : Bool := (s.gangLive id w i).all fun p => p.2.st == .waiting

/-- Whether a gang can be saved now: its commands and answers are in (R410, R249, 12 R326). -/
def State.gangQuiet (s : State) (id : Nat) (w : Wg) (i : Nat) : Bool :=
  ((s.gangFibs id w i).all fun p => !(s.cmds.any fun c => decide (c.2.fib = some p.1))
    && !(p.2.pend.any fun x => x.st == .await)
    && match p.2.await with
      | .none => true
      | .weir _ => true
      | .oc _ _ => true
      | .seal _ => true
      | _ => false)
  && (decide (1 < (w.residentIx id []).length) || !(s.cmds.any fun c => decide (c.2.wg = id)))

/-- The wake-up record of a gang for weir `k`: the smallest target ahead of PHASE, and the earliest deadline (05 R130). -/
def wakeRecord (w : Wg) (i k : Nat) (l : List WaitRec) : Option WakeRec :=
  let phase := (w.weir k).phase
  let due := (l.filterMap WaitRec.deadline).foldl (fun (b : Option Nat) x => some (match b with
    | some y => min x y
    | none => x)) none
  ((l.filter fun x => decide (x.weir = k)).foldl (fun (b : Option Nat) x => match b with
    | some t => if (x.target + 65536 - phase) % 65536 < (t + 65536 - phase) % 65536 then some x.target else some t
    | none => some x.target) none).map fun t => { gang := i, target := t, due }

/-- The waits of a gang's fibres. -/
def gangWaitRecs (l : List (Nat × Fibre)) : List WaitRec :=
  l.filterMap fun p => match p.2.await with
    | .weir x => some x
    | _ => none

/-- A fibre saved at the entry of a block (08 R209). -/
def State.dropDead (s : State) (f : Nat) : State :=
  match s.fibres.find? f with
  | none => s
  | some fb => match s.wgs.find? fb.wg with
    | none => s
    | some w =>
      if fb.pc ≠ fb.blkEnd then s
      else match (s.codeAt w.part fb.pc.toNat).bind decodeHeader, s.launchOf w with
        | some h, some l => (s.setFib f (fb.dropDead h l.kernel.nv s.free)).drawn
        | _, _ => s

/-- The bytes of a gang section (R413). -/
def State.gangSection (s : State) (id : Nat) (w : Wg) (l : Launch) (i : Nat) : List Byte :=
  let fs := s.gangLive id w i
  let size := (l.gangMax - 64) / 16
  let recOf (p : Option Nat) : Nat := match p with
    | none => 0xFF
    | some f => match fs.findIdx? fun x => decide (x.1 = f) with
      | some k => k
      | none => 0xFF
  toLe (2 ^ fs.length - 1) 2 ++ toLe i 1 ++ toLe 0 61
    ++ fs.flatMap fun p => padTo size (p.2.saved w.width (s.clkOf w) (recOf p.2.parent))

/-- Gang `i` of a workgroup saved and taken off its core. -/
def State.saveGang (s : State) (id : Nat) (w : Wg) (l : Launch) (i : Nat) : State :=
  let now := s.clkOf w
  let fs := s.gangLive id w i
  let s := fs.foldl (fun s p =>
    (s.modFib p.1 fun fb => (fb.pend.filter fun x => x.st == .ready).foldl (fun fb x => fb.settle x.id) fb).dropDead p.1) s
  let last := decide ((w.residentIx id []).length = 1)
  let bytes := s.gangSection id w l i
  let s := (s.saveBytes w.part (bytes.length / 8192 + 2) (l.slotAt w.index + BitVec.ofNat 64 (l.kernel.sharedSize + i * l.gangMax)) bytes)
  let waits := s.gangWaits id w i
  let s := fs.foldl (fun s p => s.modFib p.1 fun fb =>
    { fb with haltReq := false, stepReq := false, heldAt := fb.heldAt.map fun t => now - t }) s
  let recs := gangWaitRecs fs
  let w := { w with
    gangs := w.gangs.set i none, saving := w.saving.filter (· != i)
    weirs := if waits then w.weirs.mapIdx fun k x => match wakeRecord w i k recs with
      | some r => { x with wakes := x.wakes ++ [r] }
      | none => x else w.weirs }
  let s := (s.setWg id w).bumpWg w 0x0E 1
  let s := if last then
      let b := w.savedShared l s.free
      (({ s with free := s.free + 6 }).leaveRelics w).saveBytes w.part (b.length / 8192 + 2) (l.slotAt w.index) b
    else s
  let s := if w.saving.isEmpty then
      s.recallGangs id ((List.range w.gangs.length).filter fun j =>
        (w.gangs.getD j none).isNone && !(s.gangLive id w j).isEmpty && !(w.weirs.any fun x => x.wakes.any fun r => decide (r.gang = j)))
    else s
  s.settleBusy w.die w.core

/-- R410: the event GANG_SWAP_OUT. -/
def execGangSwapOut (s : State) : Out :=
  .next (match s.cur with
    | .event (.gangSwapOut id i) =>
      match s.wgs.find? id with
      | none => s
      | some w => match s.launchOf w with
        | none => s
        | some l => if w.saving.contains i && (w.gangs.getD i none).isSome && s.gangQuiet id w i then s.saveGang id w l i else s
    | _ => s)

end Sys2Proof.Machine
end

