-- ==== Sys2Proof/Machine/Furrow.lean ====
section
/-! DEFINITION. Distribution (17 R400 to R405): die shares to laterals, teams to furrows, placement, stealing and the
start of multicast die shares. -/

namespace Sys2Proof.Machine

/-! ## Ranges (R401) -/

/-- First of piece `i` when `n` things are divided into `k` contiguous pieces, the larger first. -/
def pieceStart (n k i : Nat) : Nat := i * (n / k) + min i (n % k)
/-- Size of piece `i`. -/
def pieceLen (n k i : Nat) : Nat := n / k + bit (decide (i < n % k))
/-- The piece that holds thing `j`. -/
def pieceOf (n k j : Nat) : Nat :=
  let q := n / k
  let r := n % k
  if j < r * (q + 1) then j / (q + 1) else r + (j - r * (q + 1)) / q

/-- The dies of a partition whose entry is in force, ascending (16 R395). -/
def State.diesOf (s : State) (p : Nat) : List Nat :=
  if (s.part p).valid then (List.range 8).filter fun d => (s.part p).dies.testBit d else []

/-- The die of a die share (R401, R403): the one that took it, while the partition has that die, else that of its range. -/
def State.shareDie (s : State) (l : Launch) (f4 : Nat) : Nat :=
  let ds := s.diesOf l.part
  let own := ds.getD (pieceOf (l.count 4) ds.length f4) 8
  match l.shareOf.find? f4 with
  | some d => if ds.contains d then d else own
  | none => own

/-- The cluster of a team (R401, R403, R404). -/
def State.teamClus (s : State) (l : Launch) (f4 f3 : Nat) : Nat :=
  if l.kernel.mcast then f3
  else
    let k := (s.diesOf l.part).length
    let n := l.count 4
    let i := pieceOf n k f4
    l.teamOf.getD (f4 * l.count 3 + f3)
      (pieceOf (pieceLen n k i * l.count 3) 6 ((f4 - pieceStart n k i) * l.count 3 + f3))

/-- The furrow of a team: die and cluster. -/
def State.furrowOf (s : State) (l : Launch) (f4 f3 : Nat) : Nat × Nat := (s.shareDie l f4, s.teamClus l f4 f3)

/-- The workgroup index of F2, F3 and F4 under the launch's F5. -/
def Launch.indexOf (l : Launch) (f2 f3 f4 : Nat) : Nat :=
  let at' (i : Nat) : Nat := 2 ^ (l.shift i - l.shift 2)
  f2 + f3 * at' 3 + f4 * at' 4 + l.f5 * at' 5

/-- Teams of a launch in ascending order, F4 first. -/
def Launch.teams (l : Launch) : List (Nat × Nat) := (List.range (l.count 4)).flatMap fun f4 => (List.range (l.count 3)).map fun f3 => (f4, f3)

/-- The cores of a cluster. -/
def coresOf (clus : Nat) : List Nat := [4 * clus, 4 * clus + 1, 4 * clus + 2, 4 * clus + 3]

/-- Workgroup indices of a team in ascending F2. -/
def Launch.teamIndices (l : Launch) (t : Nat × Nat) : List Nat := (List.range (l.count 2)).map fun f2 => l.indexOf f2 t.2 t.1

/-- The index that a furrow places next (R401, R405): a flushed one first, else the lowest of its lowest team. -/
def State.nextAt (s : State) (l : Launch) (d c : Nat) : Option Nat :=
  match l.again.find? fun x => decide (s.furrowOf l (l.fieldOf x 4) (l.fieldOf x 3) = (d, c)) with
  | some x => some x
  | none => (l.teams.filter fun t => decide (s.furrowOf l t.1 t.2 = (d, c))).findSome? fun t =>
      (l.teamIndices t).find? fun x => !l.started.contains x

/-- Whether every lower index of a launch has started (ORDERED, R403). -/
def Launch.lowerStarted (l : Launch) (x : Nat) : Bool :=
  l.teams.all fun t => (l.teamIndices t).all fun y => decide (x ≤ y) || l.started.contains y

/-- Whether the entry of a launch is active in a queue that is served (R399, R400). -/
def State.served (s : State) (l : Launch) : Bool := l.active && (s.queue l.part l.queue).en

/-- The workgroup of launch `l` pending at a furrow that may be placed alone. -/
def State.pendingAt (s : State) (l : Launch) (d c : Nat) : Option Nat :=
  if !s.served l then none
  else match s.nextAt l d c with
    | none => none
    | some x => if (l.kernel.mcast && !l.again.contains x) || (l.flag 0 && !l.lowerStarted x) then none else some x

/-- Whether workgroup `x` of launch `n` can be placed on a core (R402). -/
def State.placeable (s : State) (n : Nat) (l : Launch) (x d core : Nat) (gone : List (Nat × Nat)) : Bool :=
  s.fits d core l l.gangs true gone && !s.twin d core n l x && !s.heldFree d core (l.share n x) l

/-- The cores on which the workgroups of a multicast team start: the lowest that qualify. -/
def State.teamCores (s : State) (n : Nat) (l : Launch) (d f4 f3 : Nat) : List Nat :=
  ((coresOf f3).filter fun c => s.placeable n l (l.indexOf 0 f3 f4) d c []).take (l.count 2)

/-- Whether no workgroup of a die share has started. -/
def Launch.shareFresh (l : Launch) (f4 : Nat) : Bool := !l.started.any fun x => decide (l.fieldOf x 4 = f4)

/-- Whether every workgroup of a multicast die share can be placed at once (R404). -/
def State.shareReady (s : State) (n : Nat) (l : Launch) (f4 : Nat) : Bool :=
  s.served l && l.kernel.mcast && decide (f4 < l.count 4) && l.shareFresh f4
    && (List.range (l.count 3)).all (fun f3 => decide ((s.teamCores n l (s.shareDie l f4) f4 f3).length = l.count 2))
    && (!l.flag 0 || l.lowerStarted (l.indexOf 0 0 f4))

/-- Whether another launch that goes first can take room of a cluster now (R400). -/
def State.outranked (s : State) (n : Nat) (l : Launch) (d c : Nat) : Bool :=
  s.launches.any fun y =>
    decide (y.1 ≠ n) && decide (y.2.part = l.part)
      && (decide (s.prio l < s.prio y.2) || (decide (s.prio l = s.prio y.2) && decide (y.2.order < l.order)))
      && ((match s.pendingAt y.2 d c with
          | some x => (coresOf c).any fun k => s.placeable y.1 y.2 x d k []
          | none => false)
        || (List.range (y.2.count 4)).any fun f4 => decide (c < y.2.count 3) && decide (s.shareDie y.2 f4 = d) && s.shareReady y.1 y.2 f4)

/-- Recalled gangs of a cluster, with their workgroup and their place in the order of recalls (R411). -/
def State.recalls (s : State) (d clus : Nat) : List (Nat × Wg × Nat × Nat) :=
  s.wgs.flatMap fun p => if p.2.die = d ∧ clusOf p.2.core = clus then p.2.recalled.map fun r => (p.1, p.2, r.1, r.2) else []

/-- Whether a recalled gang of a cluster goes before launch `l` (R411). -/
def State.recallFirst (s : State) (l : Launch) (d c : Nat) : Bool :=
  (s.recalls d c).any fun r => match s.launchOf r.2.1 with
    | some x => decide (s.prio l ≤ s.prio x)
    | none => false

/-- Whether a placement names free gangs and tiles of its core. -/
def State.placementOk (s : State) (l : Launch) (pl : Placement) : Bool :=
  picks pl.gangs l.gangs 64 (s.gangsOn pl.die pl.core)
    && picks pl.ptile l.kernel.nt (2 * (l.field 0x10 4 / 65536 % 256)) (s.tilesOn pl.die pl.core)

/-- Whether a write of a flushed workgroup is not settled yet (R410). -/
def State.unsettledFlush (s : State) : Bool :=
  s.heldOf fun g => match g with
    | .lane f _ => (s.fibres.find? f).isNone
    | .engine c _ => (s.cmds.find? c).isNone
    | _ => false

/-- R402: the event FURROW_PLACE. -/
def execFurrowPlace (s : State) : Out :=
  .next (match s.cur with
    | .event (.furrowPlace n pl) =>
      match s.launches.find? n with
      | none => s
      | some l =>
        let c := clusOf pl.core
        let lowest := (coresOf c).find? fun k => s.placeable n l pl.index pl.die k []
        if s.pendingAt l pl.die c ≠ some pl.index ∨ !(s.diesOf l.part).contains pl.die ∨ lowest ≠ some pl.core ∨ s.recallFirst l pl.die c ∨ s.outranked n l pl.die c
            ∨ (l.again.contains pl.index ∧ s.unsettledFlush) ∨ !s.placementOk l pl then s
        else s.startWg n l pl
    | _ => s)

/-! ## Multicast die shares (R404) -/

/-- The cores held free for a die share of a launch given up. -/
def State.unfree (s : State) (n d f4 : Nat) : State :=
  { s with cores := s.cores.mapVal fun k x => if k / 32 = d ∧ x.freedFor = some (n, f4) then { x with freedFor := none } else x }

/-- R404: the event DIE_SHARE_START. -/
def execDieShareStart (s : State) : Out :=
  .next (match s.cur with
    | .event (.dieShareStart n f4 pls) =>
      match s.launches.find? n with
      | none => s
      | some l =>
        let d := s.shareDie l f4
        let want := (List.range (l.count 3)).flatMap fun f3 =>
          (s.teamCores n l d f4 f3).mapIdx fun f2 k => (l.indexOf f2 f3 f4, k)
        if !s.shareReady n l f4 ∨ !(s.diesOf l.part).contains d ∨ pls.map (fun p => (p.index, p.core)) ≠ want ∨ !(pls.all fun p => decide (p.die = d) && s.placementOk l p)
            ∨ (List.range (l.count 3)).any (fun c => s.recallFirst l d c || s.outranked n l d c) then s
        else (pls.foldl (fun s p => match s.launches.find? n with
          | some l => s.startWg n l p
          | none => s) s).unfree n d f4
    | _ => s)

/-! ## Stealing (R403) -/

/-- The upper half, rounded up, of a list. -/
def upperHalf (l : List α) : List α := l.drop (l.length - ceilDiv l.length 2)

/-- The sibling with the most units, the first among equals. -/
def mostUnits (l : List (Nat × List α)) : List α :=
  (l.foldl (fun b x => if b.length < x.2.length then x.2 else b) [])

/-- Unstarted die shares of a die. -/
def State.freshShares (s : State) (l : Launch) (d : Nat) : List Nat :=
  (List.range (l.count 4)).filter fun f4 => decide (s.shareDie l f4 = d) && l.shareFresh f4

/-- Unstarted teams of a furrow. -/
def State.freshTeams (s : State) (l : Launch) (d c : Nat) : List (Nat × Nat) :=
  l.teams.filter fun t => decide (s.furrowOf l t.1 t.2 = (d, c)) && !l.started.any fun x => decide (l.fieldOf x 4 = t.1) && decide (l.fieldOf x 3 = t.2)

/-- Die shares given to die `d`, their teams divided among its furrows. -/
def Launch.takeShares (l : Launch) (d : Nat) (shares : List Nat) : Launch :=
  let teams := shares.flatMap fun f4 => (List.range (l.count 3)).map fun f3 => f4 * l.count 3 + f3
  { l with
    shareOf := shares.foldl (fun t f4 => t.put f4 d) l.shareOf
    teamOf := (teams.mapIdx fun j t => (t, pieceOf teams.length 6 j)).foldl (fun t x => t.put x.1 x.2) l.teamOf }

/-- R403: the event WORK_STEAL, of a lateral, or of a furrow. -/
def execWorkSteal (s : State) : Out :=
  .next (match s.cur with
    | .event (.workSteal n d clus) =>
      match s.launches.find? n with
      | none => s
      | some l =>
        if !s.served l ∨ l.flag 0 ∨ !(s.diesOf l.part).contains d then s
        else match clus with
          | none =>
            let shares := upperHalf (mostUnits (((s.diesOf l.part).filter (· != d)).map fun x => (x, s.freshShares l x)))
            if (List.range 6).any (fun c => (s.nextAt l d c).isSome) then s
            else { s with launches := s.launches.put n (l.takeShares d shares) }
          | some c =>
            let teams := upperHalf (mostUnits (((List.range 6).filter (· != c)).map fun x => (x, s.freshTeams l d x)))
            if l.kernel.mcast ∨ 6 ≤ c ∨ (s.nextAt l d c).isSome then s
            else
              let l' := { l with teamOf := teams.foldl (fun t x => t.put (x.1 * l.count 3 + x.2) c) l.teamOf }
              { s with launches := s.launches.put n l' }
    | _ => s)

end Sys2Proof.Machine
end

