-- ==== Sys2Proof/Machine/Preempt.lean ====
section
/-! DEFINITION. Pre-emption (17 R407 to R410): the choice for a victim, the furrow's victims, and PCMD. -/

namespace Sys2Proof.Machine

/-- What is done to a victim. -/
inductive Action where
  | swap (i : Nat)
  | drain | save | flush
  deriving DecidableEq, Repr

/-- The choice of R409, before its fall-backs. -/
def choice (l : Launch) (p : Nat) : Action :=
  let e := l.field 0x70 8
  match l.preempt with
  | 1 => .drain
  | 2 => .save
  | 3 => .flush
  | _ =>
    if e = 0 then .save
    else if (l.flag 1 || l.flag 2) ∧ 4 * p < e then .flush
    else if 3 * e ≤ 4 * p then .drain
    else .save

/-- The choice with the fall-backs of R410. -/
def State.fallBack (s : State) (id : Nat) (w : Wg) (l : Launch) (a : Action) : Action :=
  let a := if a = .flush ∧ !s.flushable id w then .save else a
  match a with
  | .save => if l.saves then .save else .drain
  | .swap i => if l.saves then .swap i else .drain
  | a => a

/-- An action carried out: gangs to save are saved by GANG_SWAP_OUT; a drain bars launches below priority `p`. -/
def State.act (s : State) (id : Nat) (w : Wg) (l : Launch) (p : Nat) (a : Action) : State :=
  match a with
  | .swap i => s.modWg id fun g => if g.saving.contains i then g else { g with saving := g.saving ++ [i] }
  | .save => s.modWg id fun g => { g with saving := g.residentIx id [] }
  | .flush => s.flushWg id w l
  | .drain => s.modWg id fun g => { g with drainBar := some (max p (g.drainBar.getD 0)) }

/-! ## The furrow (R408) -/

/-- A victim with its class, its place in the class and the gangs that its action frees. -/
structure Victim where
  cls  : Nat
  prio : Nat
  born : Nat
  id   : Nat
  act  : Action
  frees : List (Nat × Nat)
  deriving DecidableEq, Repr

/-- Whether a victim comes before another. -/
def Victim.before (a b : Victim) : Bool :=
  decide (a.cls < b.cls) || (decide (a.cls = b.cls) && (decide (a.prio < b.prio) || (decide (a.prio = b.prio) && decide (b.born < a.born))))

/-- A victim put in its place, after those it equals. -/
def insertVictim (a : Victim) : List Victim → List Victim
  | [] => [a]
  | b :: l => if a.before b then a :: b :: l else b :: insertVictim a l

/-- Whether a gang waits for a LAUNCH answer. -/
def State.gangLaunching (s : State) (id : Nat) (w : Wg) (i : Nat) : Bool :=
  (s.gangLive id w i).any fun p => match p.2.await with
    | .launch _ _ => true
    | _ => false

/-- The victims that one resident workgroup offers a pending one of priority `p`. -/
def State.victimsOf (s : State) (p id : Nat) (w : Wg) (x : Launch) : List Victim :=
  let ix := w.residentIx id []
  let mk (cls : Nat) (a : Action) : Victim :=
    { cls, prio := s.prio x, born := w.born, id, act := a, frees := match a with
      | .swap i => [(id, i)]
      | .drain => []
      | _ => ix.map fun i => (id, i) }
  if !w.saving.isEmpty then []
  else
    ((ix.filter fun i => s.gangWaits id w i && !s.gangLaunching id w i).map fun i => mk 1 (s.fallBack id w x (.swap i)))
    ++ (if s.prio x < p && !ix.any (s.gangLaunching id w) then
        (if !s.lockBusy id && !s.ctrBusy id .occ then [mk 2 (s.fallBack id w x (choice x w.retired))]
        else [mk 3 (s.fallBack id w x .save)])
      else [])

/-- The candidate list of a core. -/
def State.candidatesOn (s : State) (p d core : Nat) : List Victim :=
  ((s.residents d core []).flatMap fun r => match s.launchOf r.2 with
    | some x => s.victimsOf p r.1 r.2 x
    | none => []).foldr insertVictim []

/-- Gangs that are on their way off their cores. -/
def State.leaving (s : State) : List (Nat × Nat) := s.wgs.flatMap fun p => p.2.saving.map fun i => (p.1, i)

/-- The shortest prefix of a list, up to `k` long, that `ok` admits. -/
def shortest (l : List Victim) (ok : List Victim → Bool) : Nat → Option (List Victim)
  | 0 => none
  | k + 1 => match shortest l ok k with
    | some x => some x
    | none => if ok (l.take (k + 1)) then some (l.take (k + 1)) else none

/-- What the furrow makes room for: the launch, the cores it may use, the gangs, and whether the shared part is needed. -/
structure Wanted where
  n      : Nat
  l      : Launch
  index  : Nat
  cores  : List Nat
  gangs  : Nat
  shared : Bool

/-- Whether the wanted workgroup fits on a core without the gangs of `gone`. -/
def State.wantFits (s : State) (x : Wanted) (d core : Nat) (gone : List (Nat × Nat)) : Bool :=
  !s.heldFree d core (x.l.share x.n x.index) x.l
    && if x.shared then s.fits d core x.l x.gangs true gone && !s.twin d core x.n x.l x.index
      else s.fits d core x.l x.gangs false gone

/-- The workgroup pending at a furrow that fits on no core of its cluster (R407): a recalled one, a pending one, or one
of a pending multicast die share. -/
def State.wanted (s : State) (n : Nat) (l : Launch) (index d c : Nat) : Option Wanted :=
  match List.find? (fun p : Nat × Wg => decide (p.2.launch = n) && decide (p.2.index = index)) s.wgs with
  | some (_, w) =>
    if w.recalled.isEmpty || decide (w.die ≠ d) || decide (clusOf w.core ≠ c) then none
    else some { n, l, index, cores := if w.resident then [w.core] else coresOf c, gangs := w.recalled.length, shared := !w.resident }
  | none =>
    let x : Wanted := { n, l, index, cores := coresOf c, gangs := l.gangs, shared := true }
    if s.pendingAt l d c = some index then some x
    else if s.served l && l.kernel.mcast && decide (s.furrowOf l (l.fieldOf index 4) (l.fieldOf index 3) = (d, c))
        && l.shareFresh (l.fieldOf index 4) && decide (l.fieldOf index 4 < l.count 4) && decide (l.fieldOf index 3 < l.count 3)
        && decide (l.fieldOf index 2 < l.count 2) && (!l.flag 0 || l.lowerStarted (l.indexOf 0 0 (l.fieldOf index 4))) then some x
    else none

/-- Whether the wanted workgroup has room already: a multicast workgroup takes the core of its F2. -/
def State.hasRoom (s : State) (x : Wanted) (d : Nat) (gone : List (Nat × Nat)) : Bool :=
  let n := (x.cores.filter fun k => s.wantFits x d k gone).length
  if x.l.kernel.mcast && x.shared then decide (x.l.fieldOf x.index 2 < n) else decide (0 < n)

/-- The prefix that the furrow pre-empts, with its core. -/
def State.prefixOf (s : State) (x : Wanted) (d : Nat) (gone : List (Nat × Nat)) : Option (Nat × List Victim) :=
  let worst (v : List Victim) : Nat := (v.map Victim.cls).foldl max 0
  (x.cores.filterMap fun k =>
    if s.wantFits x d k gone then none
    else
      let cand := s.candidatesOn (s.prio x.l) d k
      (shortest cand (fun v => s.wantFits x d k (gone ++ v.flatMap Victim.frees)) cand.length).map fun v => (k, v)).foldl
    (fun (b : Option (Nat × List Victim)) y => match b with
      | none => some y
      | some z => if worst y.2 < worst z.2 ∨ (worst y.2 = worst z.2 ∧ y.2.length < z.2.length) then some y else some z) none

/-- R408: the event FURROW_PREEMPT. An ACR of a workgroup to flush is performed first (07 R180). -/
def execFurrowPreempt (s : State) : Out :=
  .next (match s.cur with
    | .event (.furrowPreempt n index d c) =>
      match s.launches.find? n with
      | none => s
      | some l => match s.wanted n l index d c with
        | none => s
        | some x =>
          let gone := s.leaving
          if s.hasRoom x d gone then s
          else match s.prefixOf x d gone with
            | none => s
            | some (k, vs) =>
              if vs.any fun v => decide (v.act = .flush) && s.acrOut v.id then s
              else
                let s := vs.foldl (fun s v => match s.wgs.find? v.id with
                  | none => s
                  | some w => match s.launchOf w with
                    | none => s
                    | some y => s.act v.id w y (s.prio l) v.act) s
                if l.kernel.mcast && x.shared then
                  let core := s.lcore d k
                  s.setLcore d k { core with freedFor := some (n, l.fieldOf index 4) }
                else s
    | _ => s)

/-! ## PCMD (R407, R410) -/

/-- The workgroup that owns gang `g` of physical core `p`, with the gang's index. -/
def State.gangOwner (s : State) (d p g : Nat) : Option (Nat × Wg × Launch × Nat) :=
  let k := s.pcore d p
  if !k.en then none
  else (s.residents d k.logical []).findSome? fun r =>
    match s.launchOf r.2, r.2.gangs.findIdx? fun x => decide (x = some g) with
    | some l, some i => some (r.1, r.2, l, i)
    | _, _ => none

/-- A PCMD with operation `op`: ignored while BUSY; refused where `f` gives nothing. On a gang that nothing owns a swap, a
save and a flush are refused, and a drain, which is always admitted, a kill and a choice do nothing (DESIGN CHOICE, log
entry 76). -/
def State.pcmd (s : State) (by' : CtlBy) (d p g op : Nat) (f : State → Nat → Wg → Launch → Nat → Option State) : State :=
  s.ctl by' (coreBase d p + 0x100) fun _ s =>
    let k := s.pcore d p
    if k.busy then s
    else
      let s := s.setPcore d p { k with lastop := op, refused := false }
      let no := s.setPcore d p { k with lastop := op, refused := op == 1 || op == 3 || op == 4 }
      match s.gangOwner d p g with
      | none => no
      | some (id, w, l, i) => (f s id w l i).getD no

/-- BUSY while gangs of the workgroup are to be saved. -/
def State.busyWhile (s : State) (d p id : Nat) : State :=
  match s.wgs.find? id with
  | none => s
  | some w => if w.saving.isEmpty then s else s.setPcore d p { s.pcore d p with busy := true }

/-- R410: the event PCMD_SWAP_GANG. -/
def execPcmdSwapGang (s : State) : Out :=
  .next (match s.cur with
    | .event (.pcmdSwapGang by' d p g) =>
      s.pcmd by' d p g 1 fun s id w l i => if l.saves then some ((s.act id w l 0 (.swap i)).busyWhile d p id) else none
    | _ => s)

/-- R410: the event PCMD_DRAIN. -/
def execPcmdDrain (s : State) : Out :=
  .next (match s.cur with
    | .event (.pcmdDrain by' d p g) => s.pcmd by' d p g 2 fun s id w l _ => some (s.act id w l (s.prio l) .drain)
    | _ => s)

/-- R410: the event PCMD_SAVE. -/
def execPcmdSave (s : State) : Out :=
  .next (match s.cur with
    | .event (.pcmdSave by' d p g) =>
      s.pcmd by' d p g 3 fun s id w l _ => if l.saves then some ((s.act id w l 0 .save).busyWhile d p id) else none
    | _ => s)

/-- Whether a flush of the gang's workgroup waits for its ACRs. -/
def State.flushWaits (s : State) (d p g : Nat) : Bool :=
  match s.gangOwner d p g with
  | some (id, _, _, _) => s.acrOut id
  | none => false

/-- R410: the event PCMD_FLUSH_RESTART. -/
def execPcmdFlushRestart (s : State) : Out :=
  .next (match s.cur with
    | .event (.pcmdFlushRestart by' d p g) =>
      if s.flushWaits d p g then s
      else s.pcmd by' d p g 4 fun s id w l _ => if s.flushable id w then some (s.flushWg id w l) else none
    | _ => s)

/-- R410: the event PCMD_KILL. A kill without room for its record stays BUSY (R414). -/
def execPcmdKill (s : State) : Out :=
  .next (match s.cur with
    | .event (.pcmdKill by' d p g) =>
      s.pcmd by' d p g 5 fun s id w l _ =>
        some (if s.killWaits id w then s.setPcore d p { s.pcore d p with busy := true, killing := some id } else s.killWg id w l)
    | _ => s)

/-- R409, R410: the event PCMD_CHOICE. -/
def execPcmdChoice (s : State) : Out :=
  .next (match s.cur with
    | .event (.pcmdChoice by' d p g) =>
      if s.flushWaits d p g then s
      else s.pcmd by' d p g 6 fun s id w l _ =>
        some ((s.act id w l (s.prio l) (s.fallBack id w l (choice l w.retired))).busyWhile d p id)
    | _ => s)

end Sys2Proof.Machine
end

