-- ==== Sys2Proof/Machine/DebugEvents.lean ====
section
/-! DEFINITION. Debugging and profiling (22 R481 to R487): halts, fetch-line invalidation, sampling. -/

namespace Sys2Proof.Machine

/-! ## DBGCMD (R481, R482) -/

/-- A store to DBGCMD: `g` acts on every live fibre of the resident gang. -/
def State.dbgCmd (s : State) (by' : CtlBy) (d p gang : Nat) (g : Fibre → Fibre) (ready : Fibre → Bool) : State :=
  if d < 8 ∧ p < 26 ∧ gang < 64 then
    s.ctl by' (coreBase d p + 0x2000) fun _ s =>
      match s.gangOwner d p gang with
      | none => s
      | some (id, w, _, i) =>
        (s.gangLive id w i).foldl (fun s x =>
          let s := s.modFib x.1 g
          if ready x.2 then s.makeReady x.1 else s) s
  else s

/-- Whether a fibre is stopped by a halt. -/
def Fibre.halted (fb : Fibre) : Bool :=
  match fb.stop with
  | some .debug => fb.st == .stopped
  | _ => false

/-- R482: the event DBG_HALT. -/
def execDbgHalt (s : State) : Out :=
  .next (match s.cur with
    | .event (.dbgHalt by' d p g) => s.dbgCmd by' d p g (fun fb => { fb with haltReq := true, stepReq := false }) fun _ => false
    | _ => s)

/-- R482: the event DBG_RESUME. -/
def execDbgResume (s : State) : Out :=
  .next (match s.cur with
    | .event (.dbgResume by' d p g) =>
      s.dbgCmd by' d p g (fun fb =>
        { fb with haltReq := false, stepReq := false, stop := if fb.halted then none else fb.stop }) Fibre.halted
    | _ => s)

/-- R482: the event DBG_STEP: the site at which a resumed fibre stands retires, and its next stop site halts it. -/
def execDbgStep (s : State) : Out :=
  .next (match s.cur with
    | .event (.dbgStep by' d p g) =>
      s.dbgCmd by' d p g (fun fb =>
        { fb with haltReq := fb.halted, stepReq := fb.halted, stop := if fb.halted then none else fb.stop }) Fibre.halted
    | _ => s)

/-! ## Fetch lines (R485) -/

/-- R485: the event DICINV_WRITE. -/
def execDicinvWrite (s : State) : Out :=
  .next (match s.cur with
    | .event (.dicinvWrite by' d v) =>
      if d < 8 then
        s.ctl by' (dieBase d + 0x2000) fun _ s =>
          let x := s.die d
          if x.icBusy then s
          else s.setDie d { x with icBusy := true, icLine := BitVec.ofNat 64 ((v.extractLsb' 7 45).toNat * 128) }
      else s
    | _ => s)

/-- R485: the event DICINV_COMPLETE. -/
def execDicinvComplete (s : State) : Out :=
  .next (match s.cur with
    | .event (.dicinvComplete d) =>
      let x := s.die d
      if x.icBusy then
        let a := x.icLine.toNat
        s.setDie d { x with icBusy := false, icSeq := (x.icSeq + 1) % 2 ^ 32
                            stale := x.stale.filter fun y => !(decide (a ≤ y.1) && decide (y.1 < a + 128)) }
      else s
    | _ => s)

/-! ## Sampling (R486, R487) -/

/-- LOG2INT of a core. -/
def Core.logInt (k : Core) : Nat := (k.smpctl.extractLsb' 16 5).toNat

/-- A scheduler's down-counter reloaded with 2^LOG2INT and a draw from the generator. -/
def Core.reload (k : Core) (sch : Nat) : Core :=
  { k with smpleft := k.smpleft.put sch (2 ^ k.logInt + k.smpgen.toNat % 2 ^ k.logInt), smpgen := Config.sampleNext k.smpgen }

/-- R486: the event SAMPLE_TRIGGER: the scheduler tags the next batch it issues. -/
def execSampleTrigger (s : State) : Out :=
  .next (match s.cur with
    | .event (.sampleTrigger d core sch) =>
      let k := s.lcore d core
      if d < 8 ∧ core < 24 ∧ sch < 4 ∧ k.smpctl.getLsbD 0 ∧ k.smpleft.find? sch = some 0 ∧ !k.smparm.contains sch then
        s.setLcore d core ({ k with smparm := sch :: k.smparm }.reload sch)
      else s
    | _ => s)

/-- The trap that a tagged instruction took, as the cause of its record; 0 for none. -/
def State.sampleCause (s : State) (d core : Nat) (t : SmpTag) : Nat :=
  match s.fibres.findSome? fun p => match s.wgs.find? p.2.wg, p.2.stop with
    | some w, some (.trap r) => match s.launchOf w with
      | some l => if w.die = d ∧ w.core = core ∧ widOf l w p.2.num = t.wid ∧ r.upc = t.pc then some r.cause.code else none
      | none => none
    | _, _ => none with
  | some c => c
  | none => 0

/-- The bytes of a sample record. -/
def State.sampleBytes (s : State) (d core sch : Nat) (t : SmpTag) (lat : List Nat) (level : Nat) : List Byte :=
  toLe t.pc.toNat 8 ++ toLe t.wid.toNat 8 ++ toLe t.ident.toNat 8 ++ toLe t.ord 4
    ++ toLe (t.gang + 256 * sch + 65536 * t.batch + 2 ^ 24 * s.sampleCause d core t) 4
    ++ ((List.range 5).flatMap fun i => toLe (min (lat.getD i 0) 0xFFFF) 2) ++ toLe level 1 ++ toLe 0 5 ++ toLe t.clk 8 ++ toLe 0 8

/-- R486: the event SAMPLE_RECORD_WRITE; a record that finds the ring full is dropped and counted. -/
def execSampleRecordWrite (s : State) : Out :=
  .next (match s.cur with
    | .event (.sampleRecordWrite d core sch lat level) =>
      let k := s.lcore d core
      match k.smptag.find? sch with
      | none => s
      | some t =>
        let n := (k.smpbase.extractLsb' 0 5).toNat
        let base := (k.smpbase.extractLsb' 12 40).toNat * 4096
        let k' := { k with smptag := k.smptag.del sch }
        if 4 ≤ n ∧ n ≤ 16 ∧ (k.smptail + 2 ^ 32 - k.smphead % 2 ^ 32) % 2 ^ 32 < 2 ^ n then
          (s.poke (base + 64 * (k.smptail % 2 ^ n)) (s.sampleBytes d core sch t lat (min level 8))).setLcore d core
            { k' with smptail := (k.smptail + 1) % 2 ^ 32 }
        else s.setLcore d core { k' with smpovf := k.smpovf + 1 }
    | _ => s)

end Sys2Proof.Machine
end

