-- ==== Sys2Proof/Machine/Memory.lean ====
section
/-! DEFINITION. Meanings of majors 0x15 to 0x18 (12 R288 to R299): plain loads and stores of the scratchpad, of global
and of private memory, per lane, for the lowest active lane and for the fibre, and VPREF. -/

namespace Sys2Proof.Machine

/-- The registers of an element of a WIDTH. -/
def widthRegs (w : Width) : Nat := regsOf (8 * w.bytes)

/-- A loaded value as the V registers hold it: narrow values are extended to 32 bits (R293). -/
def loadExt (w : Width) (x : Nat) : Nat :=
  if w.signed && decide (w.bytes < 4) then wrapTo 32 (intOf (8 * w.bytes) true x) else x

/-- A loaded value as a scalar register holds it (R293). -/
def scalarExt (w : Width) (x : Nat) : Word := extend (8 * w.bytes) w.signed x

/-! ## Per lane -/

/-- The access of lane `l` at EA(l). -/
def Cx.ea (c : Cx) (o : MemV) (l : Nat) : Acc :=
  let e := eaLane (c.sreg o.b) (c.fb.vreg o.a.toNat) (Disp.bytes o.disp o.w.bytes) l
  { lane := l, va := e, info := e }

/-- The accesses of the active lanes, ascending. -/
def Cx.eas (c : Cx) (o : MemV) : List Acc := (c.lanes o.m).map (c.ea o)

/-- The destination of a per-lane load, shape G. -/
def Cx.loadDst (c : Cx) (o : MemV) (val : Acc → Nat) : List (RegRef × WVal) :=
  writeRegs c.fb c.width (c.act o.m) o.d.toNat (widthRegs o.w) (fun _ => .gen) fun l => loadExt o.w (val (c.ea o l))

/-- The data of a per-lane store. -/
def Cx.storeData (c : Cx) (o : MemV) (a : Acc) : Nat :=
  elemW (8 * o.w.bytes) (c.fb.vregs o.d.toNat (widthRegs o.w)) a.lane

/-- Operands of a per-lane load. -/
def loadOpnds (o : MemV) : List Opnd := [vDst o.d.toNat (widthRegs o.w), vSrc o.a.toNat 1, sSrc o.b, mSrc o.m]
/-- Operands of a per-lane store. -/
def storeOpnds (o : MemV) : List Opnd := [vSrc o.d.toNat (widthRegs o.w), vSrc o.a.toNat 1, sSrc o.b, mSrc o.m]

/-- R294: VLDS. -/
def execVlds (o : MemV) (s : State) : Out :=
  issue s (loadOpnds o) fun c => c.spadLoads o.w.bytes (c.eas o) o.look (c.loadDst o)

/-- R294: VSTS. -/
def execVsts (o : MemV) (s : State) : Out :=
  issue s (storeOpnds o) fun c => c.spadStores o.w.bytes (c.eas o) (c.storeData o)

/-- R294: VLDG. -/
def execVldg (o : MemV) (s : State) : Out :=
  issue s (loadOpnds o) fun c => c.loads o.w.bytes (c.eas o) o.look (c.loadDst o)

/-- R294: VSTG. -/
def execVstg (o : MemV) (s : State) : Out :=
  issue s (storeOpnds o) fun c => c.stores o.w.bytes (c.eas o) (c.storeData o)

/-- R294: VLDP. -/
def execVldp (o : MemV) (s : State) : Out :=
  issue s (loadOpnds o) fun c => c.privLoads o.w.bytes (c.eas o) o.look (c.loadDst o)

/-- R294: VSTP. -/
def execVstp (o : MemV) (s : State) : Out :=
  issue s (storeOpnds o) fun c => c.privStores o.w.bytes (c.eas o) (c.storeData o)

/-- R296: VPREF. A prefetch changes no value, so it only makes the checks of R216. -/
def execVpref (o : MemV) (s : State) : Out := issue s [vSrc o.a.toNat 1, sSrc o.b, mSrc o.m] fun c => .ok c.s

/-! ## For the lowest active lane -/

/-- The one access at EAU, none where the active set is empty. -/
def Cx.eau (c : Cx) (o : MemU) : List Acc :=
  let e := c.sreg o.b + Disp.bytes o.disp o.w.bytes
  ((c.lanes o.m).take 1).map fun l => { lane := l, va := e, info := e }

/-- The destination of a uniform load, shape U. -/
def Cx.uniDst (c : Cx) (o : MemU) (val : Acc → Nat) : List (RegRef × WVal) :=
  let x := loadExt o.w (((c.eau o).map val).headD 0)
  writeRegs c.fb c.width (c.act o.m) o.d.toNat (widthRegs o.w) (fun _ => .uni) fun _ => x

/-- Operands of a uniform load. -/
def uniOpnds (o : MemU) : List Opnd := [vDst o.d.toNat (widthRegs o.w), sSrc o.b, mSrc o.m]

/-- R295: VLDSU. -/
def execVldsu (o : MemU) (s : State) : Out :=
  issue s (uniOpnds o) fun c => c.spadLoads o.w.bytes (c.eau o) o.look (c.uniDst o)

/-- R295: VLDGU. -/
def execVldgu (o : MemU) (s : State) : Out :=
  issue s (uniOpnds o) fun c => c.loads o.w.bytes (c.eau o) o.look (c.uniDst o)

/-! ## For the fibre -/

/-- The access at EAS, of the fibre as a whole. -/
def Cx.easc (c : Cx) (o : MemS) : Acc :=
  let e := c.sreg o.a + Disp.bytes o.disp o.w.bytes
  { lane := 0, va := e, info := e }

/-- The destination of a scalar load. -/
def Cx.scalarDst (c : Cx) (o : MemS) (val : Acc → Nat) : List (RegRef × WVal) :=
  [(.s o.d.toNat, .s (scalarExt o.w (val (c.easc o))))]

/-- The data of a scalar store. -/
def Cx.scalarData (c : Cx) (o : MemS) (_ : Acc) : Nat := (c.sreg o.d).toNat

/-- R297: SLDG. -/
def execSldg (o : MemS) (s : State) : Out :=
  issue s [sDst o.d, sSrc o.a] fun c => c.loads o.w.bytes [c.easc o] o.look (c.scalarDst o)

/-- R297: SSTG. -/
def execSstg (o : MemS) (s : State) : Out :=
  issue s [sSrc o.d, sSrc o.a] fun c => c.stores o.w.bytes [c.easc o] (c.scalarData o)

/-- R297: SLDS. -/
def execSlds (o : MemS) (s : State) : Out :=
  issue s [sDst o.d, sSrc o.a] fun c => c.spadLoads o.w.bytes [c.easc o] o.look (c.scalarDst o)

/-- R297: SSTS. -/
def execSsts (o : MemS) (s : State) : Out :=
  issue s [sSrc o.d, sSrc o.a] fun c => c.spadStores o.w.bytes [c.easc o] (c.scalarData o)

end Sys2Proof.Machine
end

