-- ==== Sys2Proof/Machine/Io.lean ====
section
/-! DEFINITION. Meanings of major 0x24 (13 R357 to R359, 20 R460 to R462): IOLD, IOST, DBELL, their completion, and the
sync of the sluice table. -/

namespace Sys2Proof.Machine

/-! ## Ports and sluices (20 R454 to R460) -/

/-- Logical root port `k`. -/
def State.rp (s : State) (k : Nat) : RootPort := s.rps.getD k RootPort.start
/-- Logical root port `k` replaced. -/
def State.setRp (s : State) (k : Nat) (x : RootPort) : State := { s with rps := s.rps.put k x }

/-- The logical root port in whose BAR aperture an address lies (R457). -/
def barPort (pa : Nat) : Option Nat := if inBar pa then some ((pa - barBase) / 2 ^ 40) else none

/-- Whether a port carries requests now: its link is up and no containment is in force (R455, R458). -/
def RootPort.usable (x : RootPort) : Bool := x.en && x.up && !x.dpc

/-- Whether the address of an I/O command can be reached now. -/
def State.ioUsable (s : State) (pa : Nat) : Bool :=
  match barPort pa with
  | some k => (s.rp k).usable
  | none => false

/-- A sluice-table entry (R460). -/
structure Sluice where
  ctl  : Nat
  addr : Nat
  win0 : Nat
  win1 : Nat
  deriving DecidableEq, Repr

/-- The entries of a partition's table with EN = 1 and a port that it owns. -/
def State.sluices (s : State) (p : Nat) : List Sluice :=
  let io := (s.part p).io
  ((List.range (min (io.getD 0x08 0).toNat 4096)).map fun k =>
    let a := (io.getD 0x00 0).toNat + 32 * k
    ({ ctl := s.mem.read a 8, addr := s.mem.read (a + 8) 8, win0 := s.mem.read (a + 16) 8, win1 := s.mem.read (a + 24) 8 } : Sluice)).filter
      fun e => e.ctl.testBit 0 && (s.part p).rpmask.getLsbD (e.ctl / 256 % 32)

/-- The entry in force that a DBELL of `size` bytes at `pa` matches. -/
def State.sluiceAt (s : State) (p pa size : Nat) : Option Sluice :=
  match (s.sluices p).filter fun e => decide (e.addr = pa) with
  | [e] => if (if e.ctl.testBit 1 then 8 else 4) = size then some e else none
  | _ => none

/-- Whether an access of `n` bytes at `pa` touches the window of a window word. -/
def inWindowWord (w pa n : Nat) : Bool :=
  let base := w % 2 ^ 40 * 4096
  let len := w / 2 ^ 40 % 2 ^ 24 * 4096
  decide (pa < base + len) && decide (base < pa + n)

/-- Whether a store of `n` bytes at `pa` is one to a window of a sluice. -/
def Sluice.holdsFor (e : Sluice) (pa n : Nat) : Bool := inWindowWord e.win0 pa n || inWindowWord e.win1 pa n

/-- The names of the held stores that a DBELL of fibre `f` waits for (R109, R461): the earlier ones of the fibre, or with
`all` of its workgroup, into the windows, and unbound as the bindings stand that held them at their issue. -/
def State.bellHolds (s : State) (f wg : Nat) (all : Bool) (e : Sluice) : List Nat :=
  s.lines.flatMap fun l => l.2.held.filterMap fun x =>
    match x.req.agent, x.req.kind with
    | .lane g _, .store d =>
      let mine := (s.before f).any (fun p => decide (p.1 = g) && decide (x.id < p.2)) || (all && decide (x.issue.wg = some wg))
      if mine && x.issue.binds.isEmpty && e.holdsFor x.req.pa d.length then some x.id else none
    | _, _ => none

/-- The writes that a DBELL of fibre `f` shows its endpoint: those to the windows that it is held for (R109). -/
def State.bellShows (s : State) (f wg : Nat) (all : Bool) (e : Sluice) : List Nat :=
  (s.past.filter fun r => r.binds.isEmpty && e.holdsFor r.pa r.old.length && match r.writer with
    | .fibre g => (s.before f).any (fun p => decide (p.1 = g)) || (all && decide (r.wg = some wg))
    | _ => false).map Past.id

/-! ## Order (R358) -/

/-- Whether an earlier I/O command of the fibre has to leave first. -/
def State.ioBehind (s : State) (cmd : Nat) (c : Cmd) (x : IoCmd) : Bool :=
  s.cmds.any fun p => decide (p.1 < cmd) && decide (p.2.fib = c.fib) && match p.2.body with
    | .io y => !y.sent && (decide (barPort y.pa = barPort x.pa) || match y.kind, x.kind with
      | .bell _, .store => true
      | _, _ => false)
    | _ => false

/-- An IOLD leaves, where nothing is before it. -/
def State.ioLeave (s : State) (cmd : Nat) : State :=
  match s.cmds.find? cmd with
  | none => s
  | some c => match c.body with
    | .io x => match x.kind with
      | .load _ =>
        if x.sent || s.ioBehind cmd c x then s
        else (s.setCmd cmd { c with body := .io { x with sent := true, since := s.gtime } }).send (.ioRead cmd x.pa x.size)
      | _ => s
    | _ => s

/-- Every IOLD of a fibre that may leave does. -/
def State.ioRelease (s : State) (f : Nat) : State := (s.cmdsOf f .oci).foldl (fun s p => s.ioLeave p.1) s

/-! ## Issue (R357) -/

/-- The effective address. -/
def Cx.ioAddr (c : Cx) (o : IoOp) : Word := c.sreg o.a + Disp.bytes o.disp o.w.bytes

/-- The own checks of the I/O forms, then `g` of the translation. -/
def Cx.ioChecked (c : Cx) (o : IoOp) (write : Bool) (g : Xl → Res) : Res :=
  let a := c.ioAddr o
  c.checked [⟨c.versioned, .versioned, 0⟩, ⟨decide (a.toNat % o.w.bytes ≠ 0), .misalign, a⟩, canonCheck a] <|
    match c.s.xlate c.w.part .io a c.s.free with
    | .error k => c.trap k a
    | .ok x =>
      let own := match barPort x.pa with
        | some k => (c.s.part c.w.part).rpmask.getLsbD k
        | none => false
      if (write && !ebit x.leaf.e 3) || !own then c.trap .perm a
      else if c.acquiring then c.wait .interlock
      else g x

/-- The state after the translation of an I/O access. -/
def Cx.ioTouched (c : Cx) (x : Xl) : State := ((c.s.touch c.w.part (some (c.w.die, c.w.core)) x).cacheLeaf c.w.part x).drawn

/-- The command of an I/O form. -/
def Cx.ioCmd (c : Cx) (o : IoOp) (kind : IoKind) (x : Xl) (holds views : List Nat) : CmdBody :=
  .io { kind, pa := x.pa, va := x.va, size := o.w.bytes, data := (c.sreg o.d).toNat % 2 ^ (8 * o.w.bytes), sent := false, holds
        since := c.s.gtime, views }

/-- R357 to R359: IOLD. -/
def execIold (o : IoOp) (s : State) : Out :=
  issue s [sDst o.d, sSrc o.a] fun c =>
    if c.again then c.wait .interlock
    else c.ioChecked o false fun x =>
      let id := c.s.nextId
      let c := { c with s := c.ioTouched x }
      match c.answered (some .oci) o.look.toNat o.d.toNat (c.ioCmd o (.load o.w.signed) x [] []) with
      | .ok s => .ok ((s.modFib c.f fun fb => { fb with acqHeld := id :: fb.acqHeld }).ioRelease c.f)
      | .stay s => .stay (s.ioRelease c.f)
      | r => r

/-- R357, R358: IOST. -/
def execIost (o : IoOp) (s : State) : Out :=
  issue s [sSrc o.d, sSrc o.a] fun c => c.ioChecked o true fun x =>
    .ok (c.command (c.ioTouched x) .oci [] (c.ioCmd o .store x [] c.fb.sysIds) none 0)

/-- R357, R358, 20 R461: DBELL. -/
def execDbell (o : IoOp) (s : State) : Out :=
  issue s [sSrc o.d, sSrc o.a] fun c => c.ioChecked o true fun x =>
    match c.s.sluiceAt c.w.part x.pa o.w.bytes with
    | none => c.trap .perm x.va
    | some e =>
      .ok (c.command (c.ioTouched x) .oci [] (c.ioCmd o (.bell o.wg) x (c.s.bellHolds c.f c.fb.wg o.wg e)
        (c.s.bellShows c.f c.fb.wg o.wg e)) none 0)

/-! ## Completion (R358, R359) -/

/-- The I/O command of an event. -/
def State.ioEvent (s : State) (cmd : Nat) : Option (Cmd × IoCmd) :=
  match s.cmds.find? cmd with
  | none => none
  | some c => match c.body with
    | .io x => some (c, x)
    | _ => none

/-- The error of a read or write that the root port could not make. -/
def Cmd.ioFailed (c : Cmd) (x : IoCmd) : Cmd := c.failing .engine (BitVec.ofNat 64 x.pa)

/-- The value of Sd for a read of `size` bytes. -/
def ioValue (size : Nat) (signed : Bool) (x : Nat) : Word := extend (8 * size) signed (x % 2 ^ (8 * size))

/-- An IOLD ends with a value, as an acquire from its endpoint (R358), or with all ones and an error. -/
def State.ioldEnds (s : State) (cmd : Nat) (c : Cmd) (x : IoCmd) (signed : Bool) (v : Option Nat) : State :=
  match v with
  | some v =>
    let s := match c.fib with
      | some f => s.learn (.fibre f) (s.writesOf (.endpoint ((barPort x.pa).getD 32)))
      | none => s
    (s.giveScalar cmd c (ioValue x.size signed v)).completeCmd cmd c
  | none => (s.giveScalar cmd c (ioValue x.size signed (2 ^ 64 - 1))).completeCmd cmd (c.ioFailed x)

/-- Whether an endpoint write received earlier through a port is not performed yet (R110). -/
def State.endpointWaits (s : State) (port : Nat) (rid : Option Nat) : Bool :=
  s.lines.any fun l => (l.2.held ++ l.2.waiting).any fun x => match x.req.agent, x.req.kind with
    | .endpoint p r, .store _ => decide (p = port) && (rid.getD r == r)
    | _, _ => false

/-- R358, R359: an IOLD's completion returns, after the memory writes that its root port received earlier. -/
def execIoldCompletion (s : State) : Out :=
  match s.cur with
  | .event (.ioldCompletion cmd a) =>
    match s.ioEvent cmd with
    | some (c, x) => match x.kind with
      | .load signed =>
        if !x.sent || s.endpointWaits ((barPort x.pa).getD 32) none then .next s
        else .next (s.ioldEnds cmd c x signed (match a with
          | .data v => if s.ioUsable x.pa then some v else none
          | _ => none))
      | _ => .next s
    | none => .next s
  | _ => .next s

/-- R359: an IOLD passes the completion timeout of its root port. -/
def execCompletionTimeout (s : State) : Out :=
  match s.cur with
  | .event (.completionTimeout cmd) =>
    match s.ioEvent cmd with
    | some (c, x) => match x.kind with
      | .load signed =>
        if x.sent && decide (1000 * (s.rp ((barPort x.pa).getD 32)).cto ≤ s.gtime - x.since) then
          .next (s.ioldEnds cmd c x signed none)
        else .next s
      | _ => .next s
    | none => .next s
  | _ => .next s

/-- A write that leaves: sent where the root port can, its endpoint then seeing the writes it was ordered after (04 R109),
else dropped with an error; then the fibre's later reads. -/
def State.ioWritten (s : State) (cmd : Nat) (c : Cmd) (x : IoCmd) (m : Msg) (sent : Bool) : State :=
  let s := if sent && s.ioUsable x.pa then
      ((s.learn (.endpoint ((barPort x.pa).getD 32)) x.views).send m).completeCmd cmd c
    else s.completeCmd cmd (c.ioFailed x)
  match c.fib with
  | some f => s.ioRelease f
  | none => s

/-- R358: an IOST is sent. -/
def execIoWriteSent (s : State) : Out :=
  match s.cur with
  | .event (.ioWriteSent cmd sent) =>
    match s.ioEvent cmd with
    | some (c, x) =>
      if x.kind = .store ∧ !s.ioBehind cmd c x then .next (s.ioWritten cmd c x (.ioWrite x.pa x.size x.data) sent) else .next s
    | none => .next s
  | _ => .next s

/-- Whether a held store is still held. -/
def State.stillHeld (s : State) (ids : List Nat) : Bool := s.lines.any fun l => l.2.held.any fun x => ids.contains x.id

/-- A doorbell with what its endpoint sees as it leaves: the stores it was held for are performed by now. -/
def State.bellViews (s : State) (c : Cmd) (x : IoCmd) : IoCmd :=
  match x.kind, c.fib, x.holds with
  | .bell all, some f, _ :: _ =>
    let p := (s.wgs.find? c.wg).elim 0 Wg.part
    match s.sluiceAt p x.pa x.size with
    | some e => { x with views := s.bellShows f c.wg all e ++ x.views }
    | none => x
  | _, _, _ => x

/-- R461: a doorbell leaves once its held-for stores are performed. -/
def execDoorbellSend (s : State) : Out :=
  match s.cur with
  | .event (.doorbellSend cmd sent) =>
    match s.ioEvent cmd with
    | some (c, x) => match x.kind with
      | .bell _ =>
        if s.stillHeld x.holds || s.ioBehind cmd c x then .next s
        else .next (s.ioWritten cmd c (s.bellViews c x) (.doorbell x.pa x.size x.data) sent)
      | _ => .next s
    | none => .next s
  | _ => .next s

/-! ## The sync of the sluice table (20 R462) -/

/-- R462: a write to SLTSYNC. -/
def execSltsyncWrite (s : State) : Out :=
  match s.cur with
  | .event (.sltsyncWrite by' p) =>
    .next (s.ctl by' (ioBase p + 0x10) fun _ s => s.modPart p fun x => { x with slt := some s.nextId })
  | _ => .next s

/-- R462: every DBELL that read an entry before the write has left or been dropped. -/
def execSltsyncComplete (s : State) : Out :=
  match s.cur with
  | .event (.sltsyncComplete p) =>
    match (s.part p).slt with
    | none => .next s
    | some n =>
      let busy := s.cmds.any fun q => decide (q.1 < n) && match q.2.body with
        | .io x => (match x.kind with
            | .bell _ => true
            | _ => false) && match s.wgs.find? q.2.wg with
              | some w => decide (w.part = p)
              | none => false
        | _ => false
      if busy then .next s else .next (s.modPart p fun x => { x with slt := none })
  | _ => .next s

end Sys2Proof.Machine
end

