-- ==== Sys2Proof/Machine/Endpoint.lean ====
section
/-! DEFINITION. What requests of endpoints share (20 R455, R457, 18 R430): the partition of a logical root port, its
PASID table, and the translation of an untranslated request. -/

namespace Sys2Proof.Machine

/-- The valid partition that owns logical root port `k` (16 R395). -/
def State.portPart (s : State) (k : Nat) : Option Nat :=
  (List.range 8).find? fun p => (s.part p).valid && (s.part p).rpmask.getLsbD k

/-- The entry of a PASID, where the table of the port holds it and it has EN = 1 (R455). -/
def State.pasidEntry (s : State) (port pasid : Nat) : Option Nat :=
  let x := (s.rp port).pasid
  let bits := min (x.extractLsb' 0 5).toNat 20
  let e := s.mem.read ((x.extractLsb' 12 40).toNat * 4096 + 8 * pasid) 8
  if pasid < 2 ^ bits ∧ e.testBit 0 then some e else none

/-- Whether requests of a requester are carried now: the port is up, without containment (R455, R458). -/
def State.carries (s : State) (port : Nat) : Bool := (s.rp port).usable

/-- Whether MODE provides logical port `k` (R454). -/
def State.rpExists (s : State) (k : Nat) : Bool :=
  decide (k < 32) && match s.rpMode.getD (k / 4) 0 with
    | 1 => decide (k % 2 = 0)
    | 2 => true
    | _ => decide (k % 4 = 0)

/-- The leaf that a translated request meets at the home: of the page that the partition's cached translations map there,
with its attributes (18 R430), else of plain shared memory. -/
def State.physLeafAt (s : State) (p pa : Nat) : Leaf :=
  match List.find? (fun t : TlbEntry => decide (t.part = p) && decide (leafCpol t.leaf ≠ 2)
      && decide (alignDown (leafPpn t.leaf) (2 ^ t.bits) = alignDown pa (2 ^ t.bits))) s.tlb with
  | some t => { e := t.leaf, addr := 0, bits := t.bits }
  | none => physLeaf (s.grainAt pa)

/-- The answer UR to a requester. -/
def State.unsupported (s : State) (port rid : Nat) : State := s.send (.unsupported (.endpoint port rid))

/-- The page size of a leaf as a power of two: 256 KiB for a member of a consistent CONTIG group (18 R430). -/
def State.leafBits (s : State) (l : Leaf) : Nat :=
  if ebit l.e 61 then
    let first := alignDown l.addr 256
    let i := (l.addr - first) / 8
    if (List.range 32).all fun j =>
        decide (BitVec.ofNat 64 (s.mem.read (first + 8 * j) 8) + BitVec.ofNat 64 (8192 * i) = l.e + BitVec.ofNat 64 (8192 * j))
    then 18 else l.bits
  else l.bits

end Sys2Proof.Machine
end

