-- ==== Sys2Proof/Machine/ScAccess.lean ====
section
/-! DEFINITION. Memory accesses of service cores (16 R386, R388, R391, 18 R421, R428, R432, R434, 21 R478): pieces by
page, what the lines ask for, reads and writes. -/

namespace Sys2Proof.Machine

/-- What an access that does not go to memory comes to: an exception or a wait. -/
def State.scRefused (s : State) (n : Nat) (k : ScKind) (va : Word) : ScAddr → State
  | .fault c => s.scTrap n c va
  | .lost c k => (s.countLost k).scTrap n c va
  | .levee k => s.scTrap n 28 va (some k)
  | .stalled => match s.scPart n with
    | some p => s.stall p (.service n) va va
    | none => s
  | .blocked => s
  | _ => s.scTrap n k.accessFault va

/-- The pieces of `n` bytes at `a`, one for each page; the first that is not memory decides. -/
def State.scPieces (s : State) (c : Nat) (lv : Levee) (k : ScKind) : Nat → Word → Nat → Except ScAddr (List EngPart)
  | 0, _, _ => .ok []
  | i + 1, a, n =>
    if n = 0 then .ok []
    else
      let m := min n (8192 - a.toNat % 8192)
      match s.scAddr c lv k a m with
      | .mem pa t =>
        match State.scPieces s c lv k i (a + BitVec.ofNat 64 m) (n - m) with
        | .ok l => .ok ((match t with
            | some x => [{ x, n := m }]
            | none => s.physParts (m + 1) pa m) ++ l)
        | .error e => .error e
      | e => .error e

/-- What the lines ask for first. -/
def State.scGates (s : State) (p : Nat) (write : Bool) (l : List EngPart) : Option State :=
  match l.find? fun q => !(s.pageAccrues p none q.x).isEmpty with
  | some q => some (s.startCollect (s.pageAccrues p none q.x))
  | none => l.findSome? fun q => q.lines.findSome? fun a => match s.gate a q.x.grain write with
    | .wait s => some s
    | .pass => none

/-- The translations used: first touch, cached translation, counters. -/
def State.scUsed (s : State) (p : Nat) (always : Bool) (l : List EngPart) : State :=
  l.foldl (fun s q =>
    if q.x.leaf.addr = 0 then s
    else (((s.touch p none q.x).cacheLeaf p q.x).countAccess p q.x always).drawn) s

/-- What a memory access of a service core comes to. -/
inductive ScOut where
  /-- Performed: the state and the bytes read. -/
  | done (s : State) (l : List Byte)
  /-- An exception taken, or a wait. -/
  | stop (s : State)

/-- The read of one part by service core `c` (04 R111): a plain load may read older bytes (R97); one that reads the newest
owes the releases there to a later fence r,rw. -/
def State.scLook (s : State) (c : Nat) (q : EngPart) : List Byte × State :=
  let v := Viewer.service c
  let r := s.look v q.x.pa q.n
  if r.1 = s.mem.bytes q.x.pa q.n then
    (r.1, r.2.readsOf v { Issue.plain with read := some (.sys, false) } fun o => o.meets q.x.pa q.n)
  else r

/-- The bytes of the parts in order. -/
def State.scLooks (s : State) (c : Nat) : List EngPart → List Byte × State
  | [] => ([], s)
  | q :: l =>
    let r := s.scLook c q
    let t := State.scLooks r.2 c l
    (r.1 ++ t.1, t.2)

/-- A read of `n` bytes at `va` through a levee whose own checks have passed; `newest` for a fetch, a levee, and an
atomic read, which return the newest bytes. -/
def State.scRead (s : State) (c : Nat) (lv : Levee) (k : ScKind) (newest : Bool) (va : Word) (n : Nat) : ScOut :=
  match s.scPieces c lv k 3 va n with
  | .error e => .stop (s.scRefused c k va e)
  | .ok l =>
    let p := (s.scPart c).getD 0
    match s.scGates p false l with
    | some s => .stop s
    | none =>
      match l.find? fun q => s.dead q.x.pa q.n with
      | some q => .stop ((s.retireFrame q.x.pa (memSource q.x.pa)).scTrap c k.accessFault va)
      | none =>
        let s := s.scUsed p false l
        if newest then .done s (l.flatMap fun q => s.mem.bytes q.x.pa q.n)
        else
          let r := s.scLooks c l
          .done r.2 r.1

/-- How a service core issues a write of `n` bytes at `pa` (R111): a release where `rl`, or after a fence rw,w where it
is an aligned store of at most 8 bytes. Its accesses are always unbound. -/
def State.scIssue (s : State) (c : Nat) (rl : Bool) (pa n : Nat) : Issue :=
  { Issue.plain with
    rel := if rl || ((s.sc c).relMark && decide (n ≤ 8) && decide (pa % n = 0)) then
        some (s.relOf (.service c) .sys (.loc pa n) true) else none }

/-- Bytes of a service core written: held at a locked line (07 R187), else performed; `rmw` for a read-modify-write. -/
def State.scPoke (s : State) (c p : Nat) (i : Issue) (rmw : Bool) (l : List EngPart) (b : List Byte) : State :=
  match l with
  | [] => s
  | q :: l =>
    let line := s.line q.x.line q.x.grain
    let piece := b.take q.n
    let s :=
      if line.locked then
        let req : HomeReq :=
          { agent := .service c, part := p, kind := .store piece, va := q.x.va, pa := q.x.pa, grain := q.x.grain
            narrow := ebit q.x.leaf.e 10, count := false }
        (s.setLine q.x.line { line with held := line.held ++ [{ id := s.nextId, req, back := none, issue := i }] }).named
      else
        let s := s.homeStore (.service c) q.x.va i q.x.pa piece (ebit q.x.leaf.e 10) rmw
        if line.homeWritten = line then s else s.setLine q.x.line line.homeWritten
    State.scPoke s c p i rmw l (b.drop q.n)

/-- A write of bytes at `va` through a levee whose own checks have passed, a release where `rl`; `rmw` for the write of an
SC. -/
def State.scWrite (s : State) (c : Nat) (lv : Levee) (rl rmw : Bool) (va : Word) (b : List Byte) : ScOut :=
  let p := (s.scPart c).getD 0
  if s.engShut p (.service c) then .stop s
  else match s.scPieces c lv .store 3 va b.length with
    | .error e => .stop (s.scRefused c .store va e)
    | .ok l =>
      match s.scGates p true l with
      | some s => .stop s
      | none =>
        match l.find? fun q => s.refuses q.x.pa q.n with
        | some q => .stop ((s.retireFrame q.x.pa (memSource q.x.pa)).scTrap c 7 va)
        | none =>
          let i := match l with
            | [q] => s.scIssue c rl q.x.pa b.length
            | _ => Issue.plain
          let s := s.setSc c { s.sc c with relMark := (s.sc c).relMark && i.rel.isNone }
          .done (((s.unstallWho p (.service c)).scUsed p false l).scPoke c p i rmw l b) []

/-- The physical address of an access that one page holds, where it is memory. -/
def State.scPhys (s : State) (c : Nat) (lv : Levee) (k : ScKind) (va : Word) (n : Nat) : Option Nat :=
  match s.scAddr c lv k va n with
  | .mem pa _ => some pa
  | _ => none

/-- Service core `c` with register `d` written and `n` bytes of instruction passed. -/
def State.scNext (s : State) (c : Nat) (d : BitVec 5) (v : Levee) (n : Nat) : State := s.setSc c (((s.sc c).setReg d v).step n)

end Sys2Proof.Machine
end

