-- ==== Sys2Proof/Machine/EndpointEvents.lean ====
section
/-! DEFINITION. Events of endpoints and root ports (04 R110, 18 R421, R434, 20 R455 to R458, R463, R464, R466, R468,
R469): memory reads and writes, interrupts, errors, links, configuration accesses, posts, and the shard scrubber. -/

namespace Sys2Proof.Machine

/-! ## Memory requests (R110, R457) -/

/-- Why an endpoint's request is not served (18 R421, 19 R452). -/
inductive EpBad where
  /-- Unsupported Request. -/
  | unsupported
  /-- A write that the marking of its page refuses. -/
  | refusedPage
  | severed (k : Nat)
  deriving DecidableEq, Repr

/-- The address of a request as issued. -/
def epIssued (a : EpAddr) : Word :=
  match a with
  | .virt _ va => va
  | .phys pa => BitVec.ofNat 64 pa

/-- Translation and home checks of an endpoint's request. -/
def State.epXlate (s : State) (p port rid : Nat) (k : AccKind) (a : EpAddr) : Except EpBad Xl :=
  match a with
  | .virt pasid va =>
    match s.pasidEntry port (pasid.getD 0) with
    | none => .error .unsupported
    | some _ => match s.engXlate p k va with
      | .ok x => .ok x
      | .fault _ => .error .unsupported
      | .outside => .error .unsupported
      | .fail .perm => .error .refusedPage
      | .fail _ => .error (match s.severedAt p va s.free with
        | some w => .severed w
        | none => .unsupported)
  | .phys pa =>
    if s.atsOff.contains (port, rid) then .error .unsupported
    else
      let l := s.physLeafAt p pa
      let at' (away : Bool) : Except EpBad Xl :=
        if k.writes && attrRefuses k (BitVec.ofNat 64 pa) l.e then .error .refusedPage
        else .ok { va := BitVec.ofNat 64 pa, pa, leaf := l, away }
      match s.place p pa with
      | .home => at' false
      | .peer _ => at' true
      | .severed w => .error (.severed w)
      | _ => .error .unsupported

/-- The effects of the translation of an endpoint's request: its page is shared where the root port translated it, and each
line of a counted page counts once (18 R432). -/
def State.epUsed (s : State) (p : Nat) (q : EngPart) : State :=
  q.lines.foldl (fun s a => s.countAccess p { q.x with pa := a } true)
    (if q.x.leaf.addr = 0 then s else ((s.touch p none q.x).cacheLeaf p q.x).drawn)

/-- Whether an address as issued lies in the partition's interrupt window (R463). -/
def State.intWindow (s : State) (p : Nat) (a : Word) : Bool :=
  let io := (s.part p).io
  decide ((io.getD 0x18 0).toNat ≤ a.toNat) && decide (a.toNat < (io.getD 0x18 0).toNat + 4 * min (io.getD 0x28 0).toNat 65536)

/-- A request that is refused. -/
def State.epRefused (s : State) (p port rid : Nat) (a : EpAddr) (b : EpBad) : State :=
  match b with
  | .unsupported => s.unsupported port rid
  | .severed k => (s.countLost k).unsupported port rid
  | .refusedPage =>
    let pa := match a with
      | .phys pa => pa
      | .virt _ va => match s.leafOf p va s.free with
        | some l => l.pa va
        | none => 0
    s.notify p 0x13 (BitVec.ofNat 64 pa) (BitVec.ofNat 64 (Cause.perm.code * 65536 + rid % 65536))

/-- A request of `n` bytes lies within one 4 KiB page, as PCIe requires (log entry 64). -/
def epFits (a : EpAddr) (n : Nat) : Bool := decide (1 ≤ n) && decide ((epIssued a).toNat % 4096 + n ≤ 4096)

/-- An endpoint's write in partition `p`. -/
def State.epWrite (s : State) (p port rid : Nat) (a : EpAddr) (b : List Byte) : State :=
  let who := Agent.endpoint port rid
  let aligned4 := b.length % 4 = 0 ∧ (epIssued a).toNat % 4 = 0
  if s.engShut p who then s
  else match s.epXlate p port rid (.store (if aligned4 then 4 else 1)) a with
    | .error e => s.epRefused p port rid a e
    | .ok x =>
      let q : EngPart := { x, n := b.length }
      if ebit x.leaf.e 11 then s.stall p who x.va x.va
      else match s.scGates p true [q] with
        | some s => s
        | none =>
          let s := s.unstallWho p who
          if s.refuses x.pa b.length then s.retireFrame x.pa (memSource x.pa)
          else (s.epUsed p q).engPoke p who (fun _ _ => Issue.plain) q (b.length / 32 + 2) 0 b

/-- R110, R421: the event ENDPOINT_WRITE. A poisoned write is dropped (R456). -/
def execEndpointWrite (s : State) : Out :=
  .next (match s.cur with
    | .event (.endpointWrite port rid a data poisoned) =>
      match s.portPart port with
      | none => s
      | some p =>
        if !s.carries port || !s.boot.memready || poisoned || !epFits a data.length || s.intWindow p (epIssued a) then s
        else s.epWrite p port rid a data
    | _ => s)

/-- The bytes that an endpoint below a port reads in one part, sector by sector (04 R84, R110). -/
def State.epRead (s : State) (port : Nat) (q : EngPart) : List Byte × State :=
  (sectorPieces q.x.pa q.n).foldl (fun (r : List Byte × State) x =>
    let t := r.2.look (.endpoint port) (q.x.pa + x.1) x.2
    (r.1 ++ t.1, t.2)) ([], s)

/-- R110, R421: the event ENDPOINT_READ: the data, or Completer Abort where it is uncorrectable (21 R478). -/
def execEndpointRead (s : State) : Out :=
  .next (match s.cur with
    | .event (.endpointRead port rid a size) =>
      match s.portPart port with
      | none => s
      | some p =>
        if !s.carries port || !s.boot.memready || !epFits a size then s
        else match s.epXlate p port rid .load a with
          | .error (.severed k) => (s.countLost k).unsupported port rid
          | .error _ => s.unsupported port rid
          | .ok x =>
            let q : EngPart := { x, n := size }
            match s.scGates p false [q] with
            | some s => s
            | none =>
              if s.dead x.pa size then (s.retireFrame x.pa (memSource x.pa)).send (.abort (.endpoint port rid))
              else
                let r := (s.epUsed p q).epRead port q
                r.2.send (.answer (.endpoint port rid) r.1)
    | _ => s)

/-! ## Interrupts (R463, R464) -/

/-- Interrupt `i` of a requester, its drop checks passed: the count, or a handle that does not match. The arrival is a
release for the endpoint, which a WWAIT of any scope acquires (04 R94, 12 R321). -/
def State.interrupt (s : State) (port p i count : Nat) (h : Word) : State :=
  match s.ofHandle p h with
  | some (w, k) =>
    s.countWeir w k count 0 false (some { obj := .weir w k, live := true, scope := .sys, spot := s.spotOfWg w
                                          ids := s.covered [.endpoint port] p (.weir w k) })
  | none => s.notify p 0x22 h (BitVec.ofNat 64 i)

/-- R464: the event INTERRUPT_WRITE. It waits until every memory write that the port received earlier from the requester
is performed (R110). -/
def execInterruptWrite (s : State) : Out :=
  .next (match s.cur with
    | .event (.interruptWrite port rid addr size) =>
      match s.portPart port with
      | none => s
      | some p =>
        if !s.carries port || !s.intWindow p addr then s
        else
          let io := (s.part p).io
          let i := (addr.toNat - (io.getD 0x18 0).toNat) / 4
          let e := s.mem.read ((io.getD 0x20 0).toNat + 16 * i) 8
          let h : Word := BitVec.ofNat 64 (s.mem.read ((io.getD 0x20 0).toNat + 16 * i + 8) 8)
          let count := e / 2 ^ 48
          let drop := !e.testBit 0 || decide (count = 0) || decide (e / 2 ^ 32 % 65536 ≠ rid)
            || decide ((h.extractLsb' 38 10).toNat ≠ s.chip) || !(s.part p).dies.testBit (h.extractLsb' 35 3).toNat
            || decide (size ≠ 4) || decide (addr.toNat % 4 ≠ 0)
          if drop then s.notify p 0x21 (BitVec.ofNat 64 i) (BitVec.ofNat 64 (rid % 65536))
          else if s.endpointWaits port (some rid) || (s.part p).stalls.any (fun x => decide (x.who = .endpoint port rid)) then s
          else s.interrupt port p i count h
    | _ => s)

/-- R466: the event SYSPOST_WRITE: a release at .pk, which waits for the service core's held writes. -/
def execSyspostWrite (s : State) : Out :=
  .next (match s.cur with
    | .event (.syspostWrite by' p v) =>
      if s.heldOf fun g => decide (g = .service by'.sc) then s
      else s.ctl by' (ioBase p + 0x50) fun _ s =>
        let h := v &&& ~~~(0x3FFFFFC0 : Word)
        match s.ofHandle p h with
        | some (w, k) =>
          s.countWeir w k 1 0 (ebit v 29) (some { obj := .weir w k, live := true, scope := .pk, spot := s.spotOf (.service by'.sc)
                                                  ids := s.covered [.service by'.sc] p (.weir w k) })
        | none => s.notify p 0x22 h 0
    | _ => s)

/-! ## Errors and links (R455, R458) -/

/-- R458: the event AER_EVENT. -/
def execAerEvent (s : State) : Out :=
  .next (match s.cur with
    | .event (.aerEvent port rid status) =>
      match s.portPart port with
      | none => s
      | some p => if (s.rp port).en then s.notify p 0x20 (BitVec.ofNat 64 (port * 2 ^ 40 + rid % 65536)) status else s
    | _ => s)

/-- R458: the event DPC_TRIGGER. -/
def execDpcTrigger (s : State) : Out :=
  .next (match s.cur with
    | .event (.dpcTrigger port status) =>
      match s.portPart port with
      | none => s
      | some p =>
        let x := s.rp port
        if x.en && !x.dpc then (s.setRp port { x with dpc := true, evt := true }).notify p 0x25 (BitVec.ofNat 64 port) status else s
    | _ => s)

/-- R455: the event ROOT_PORT_LINK_CHANGE. -/
def execRootPortLinkChange (s : State) : Out :=
  .next (match s.cur with
    | .event (.rootPortLinkChange port up width speed cxl flit) =>
      let x := s.rp port
      if !s.rpExists port || decide (x.up = up) then s
      else if up then
        if x.en ∧ 1 ≤ width ∧ width ≤ 16 ∧ 1 ≤ speed ∧ speed ≤ 7 then
          s.setRp port { x with up := true, evt := true, width, speed, cxl, flit := flit && decide (6 ≤ speed) }
        else s
      else s.setRp port { x with up := false, evt := true, width := 0, speed := 0, cxl := false, flit := false }
    | _ => s)

/-- A write of RPCTL without its HOTRST: CTO, where it is in range, and EN. -/
def RootPort.ctlWritten (x : RootPort) (v : Word) : RootPort :=
  let c := (v.extractLsb' 32 32).toNat
  { x with cto := if 1 ≤ c ∧ c ≤ 100000 then c else x.cto, en := ebit v 0 }

/-- R455: the event HOTRST: a store to RPCTL that sets HOTRST. The functions below the port start again, with ATS no
longer disabled (log entry 65). -/
def execHotrst (s : State) : Out :=
  .next (match s.cur with
    | .event (.hotrst by' port v) =>
      if ebit v 1 ∧ port < 32 then
        s.ctl by' (svcBase + 0xC000 + 0x40 * port) fun _ s =>
          if s.rpExists port then
            let x := (s.rp port).ctlWritten v
            { s.setRp port { x with dpc := false, evt := x.evt || x.dpc } with
              atsOff := s.atsOff.filter fun f => decide (f.1 ≠ port)
              atsFns := s.atsFns.filter fun f => decide (f.1 ≠ port) }
          else s
      else s
    | _ => s)

/-! ## PRG Responses (R455) -/

/-- A store to RPPRG. -/
def State.prgStore (s : State) (by' : CtlBy) (port pasid rid index code : Nat) : State :=
  if port < 32 then
    s.ctl by' (svcBase + 0xC000 + 0x40 * port + 0x18) fun _ s =>
      if s.rpExists port then s.send (.prg port (pasid % 2 ^ 20) (rid % 65536) (index % 512) code) else s
  else s

/-- R455: the event PRG_RESPONSE_SUCCESS. -/
def execPrgResponseSuccess (s : State) : Out :=
  .next (match s.cur with
    | .event (.prgResponseSuccess by' port pasid rid index) => s.prgStore by' port pasid rid index 0
    | _ => s)

/-- R455: the event PRG_RESPONSE_INVALID_REQUEST. -/
def execPrgResponseInvalidRequest (s : State) : Out :=
  .next (match s.cur with
    | .event (.prgResponseInvalidRequest by' port pasid rid index) => s.prgStore by' port pasid rid index 1
    | _ => s)

/-- R455: the event PRG_RESPONSE_FAILURE. -/
def execPrgResponseFailure (s : State) : Out :=
  .next (match s.cur with
    | .event (.prgResponseFailure by' port pasid rid index) => s.prgStore by' port pasid rid index 15
    | _ => s)

/-! ## Configuration space (R457) -/

/-- The base of ECAM. -/
def ecamBase : Nat := 0x000F010000000000

/-- A service core's access in ECAM that its levee and translation let through. -/
def State.ecamAccess (s : State) (c p pa size len : Nat) (op : Option (BitVec 5)) (signed : Bool) (t : BitVec 5)
    (answer : Option Nat) (va : Word) : State :=
  let port := (pa - ecamBase) / 0x10000000
  let bad := !(size == 1 || size == 2 || size == 4) || decide (pa % size ≠ 0) || !(s.part p).rpmask.getLsbD port
  let live := s.rpExists port && (s.rp port).usable
  match op with
  | some d =>
    if bad then s.scTrap c 5 va
    else
      let v := match answer with
        | some v => if live then v else 2 ^ 64 - 1
        | none => 2 ^ 64 - 1
      (s.send (.configRead pa size)).scNext c d (.int (extend (8 * size) signed (v % 2 ^ (8 * size)))) len
  | none =>
    if bad then s.scTrap c 7 va
    else
      let s := if live then s.send (.configWrite pa size (((s.sc c).reg t).cur % 2 ^ (8 * size))) else s
      s.setSc c ((s.sc c).step len)

/-- R457: the event CONFIG_ACCESS: a load into `op`, or a store of `t`. -/
def execConfigAccess (s : State) : Out :=
  .next (match s.cur with
    | .event (.configAccess c base off size len op signed t answer) =>
      let x := s.sc c
      let lv := x.reg base
      let va := BitVec.ofNat 64 lv.cur + BitVec.ofInt 64 off
      let k := if op.isSome then ScKind.load else ScKind.store
      if !x.ready || !(len == 2 || len == 4) then s
      else match s.leveeCheck c lv (if op.isSome then rRD else rWR) va size with
        | some e => s.scTrap c 28 va (some e)
        | none => match s.scPart c, s.scAddr c lv k va size with
          | some p, .ecam pa => s.ecamAccess c p pa size len op signed t answer va
          | _, _ => s
    | _ => s)

/-! ## The shard scrubber (R468) -/

/-- Address of shard-table entry `i` of a partition. -/
def State.shardAt (s : State) (p i : Nat) : Nat := ((s.part p).io.getD 0x58 0).toNat + 128 * i

/-- CTL of a shard-table entry. -/
def State.shardCtl (s : State) (p i : Nat) : Nat := s.mem.read (s.shardAt p i + 0x10) 8

/-- Whether a check of entry `i` is due: it has NOW, or no enabled entry has and the current scrub interval has not
checked it yet. -/
def State.shardDue (s : State) (p i : Nat) : Bool :=
  let n := min ((s.part p).io.getD 0x60 0).toNat 65536
  let ms := (((s.part p).io.getD 0x68 0).extractLsb' 32 32).toNat * 1000000
  let c := s.shardCtl p i
  if !c.testBit 0 then false
  else if c.testBit 1 then true
  else decide (ms ≠ 0) && !((List.range n).any fun j => (s.shardCtl p j).testBit 0 && (s.shardCtl p j).testBit 1)
    && (decide (c / 4 % 4 = 0) || decide (s.mem.read (s.shardAt p i + 0x18) 8 / ms ≠ s.gtime / ms))

/-- R468: the event SCRUB_CHECK_START: the check ends no earlier than the rate limit lets it read the shard. -/
def execScrubCheckStart (s : State) : Out :=
  .next (match s.cur with
    | .event (.scrubCheckStart p i) =>
      let x := s.part p
      if decide (i < min (x.io.getD 0x60 0).toNat 65536) && s.shardDue p i && !(x.shards.any fun y => decide (y.index = i)) then
        let rate := ((x.io.getD 0x68 0).extractLsb' 0 32).toNat
        let len := s.mem.read (s.shardAt p i + 8) 8
        let s := s.poke (s.shardAt p i + 0x10) (toLe (s.shardCtl p i - (if (s.shardCtl p i).testBit 1 then 2 else 0)) 8)
        s.modPart p fun x => { x with shards := x.shards ++ [{ index := i, due := s.gtime + (if rate = 0 then 0 else len / rate) }] }
      else s
    | _ => s)

/-- The end of a check: LAST and the time in the entry, and its notification. -/
def State.shardEnds (s : State) (p i last : Nat) (note : Option (Nat × Nat)) : State :=
  let c := s.shardCtl p i
  let s := s.poke (s.shardAt p i + 0x10) (toLe (c - c / 4 % 4 * 4 + last * 4) 8)
  let s := s.poke (s.shardAt p i + 0x18) (toLe s.gtime 8)
  let s := s.modPart p fun x => { x with shards := x.shards.filter fun y => decide (y.index ≠ i) }
  match note with
  | some (ty, b) => s.notify p ty (BitVec.ofNat 64 i) (BitVec.ofNat 64 b)
  | none => s

/-- R468: the event SHARD_CHECK_END. -/
def execShardCheckEnd (s : State) : Out :=
  .next (match s.cur with
    | .event (.shardCheckEnd p i) =>
      match List.find? (fun y : Shard => decide (y.index = i)) (s.part p).shards with
      | none => s
      | some y =>
        if s.gtime < y.due then s
        else
          let base : Word := BitVec.ofNat 64 (s.mem.read (s.shardAt p i) 8)
          let len := s.mem.read (s.shardAt p i + 8) 8
          match s.engParts p .load (pagesOf len) base len with
          | .error (.fault c _) => s.shardEnds p i 3 (some (0x24, c.code))
          | .error (.fail s c _) => s.shardEnds p i 3 (some (0x24, c.code))
          | .error _ => s
          | .ok l =>
            match s.scGates p false l with
            | some s => s
            | none =>
              match l.find? fun q => s.dead q.x.pa q.n with
              | some q => (s.retireFrame q.x.pa (memSource q.x.pa)).shardEnds p i 3 (some (0x24, Cause.eccunc.code))
              | none =>
                let d := sha384 (l.flatMap fun q => s.mem.bytes q.x.pa q.n)
                let s := l.foldl (fun s q => s.epUsed p q) s
                if d = s.mem.bytes (s.shardAt p i + 0x20) 48 then s.shardEnds p i 1 none
                else s.shardEnds p i 2 (some (0x23, leNat (d.take 8)))
    | _ => s)

end Sys2Proof.Machine
end

