-- ==== Sys2Proof/Machine/HomeEvents.lean ====
section
/-! DEFINITION. Events at homes (07 R173 to R178, 12 R305, R309, 18 R428, R432, 19 R439, R440, 21 R471, R472, R475,
R477 to R479): arrivals of requests from caches and from peer chips, far updates, collections, evictions. -/

namespace Sys2Proof.Machine

/-! ## Rows and banks (21 R475) -/

/-- The bank and row of a request lie in the stack and channel of its address (R470). -/
def bankHolds (b : BankRef) (pa : Nat) : Bool :=
  decide (pa < 2 ^ 40) && decide (b.stack = chanOf pa % 16) && decide (b.chan = chanOf pa / 16)

/-- HBM4E stack `k`. -/
def State.stack (s : State) (k : Nat) : Stack := s.hbms.getD k Stack.start
/-- Whether a bank accepts nothing. -/
def State.bankBusy (s : State) (b : BankRef) : Bool := s.busyBanks.any fun x => decide (x.1 = b)
/-- The activation count of a row. -/
def State.rowCount (s : State) (b : BankRef) (row : Nat) : Nat :=
  match List.find? (fun x : (BankRef × Nat) × Nat => decide (x.1 = (b, row))) s.rows with
  | some x => x.2
  | none => 0

/-- The counts without those of some rows of a bank, which return to 0. -/
def State.rowsReset (s : State) (b : BankRef) (l : List Nat) : State :=
  { s with rows := s.rows.filter fun x => !(decide (x.1.1 = b) && l.contains x.1.2) }

/-- An activation of a row: its count rises, and one that reaches MTH raises the alert. -/
def State.activated (s : State) (b : BankRef) (row : Nat) : State :=
  let n := s.rowCount b row + 1
  let s' := s.rowsReset b [row]
  let x := s.stack b.stack
  if n = x.mth then
    let s' := s'.rowsReset b ([row + 1, row + 2] ++ (if 1 ≤ row then [row - 1] else []) ++ (if 2 ≤ row then [row - 2] else []))
    { s' with hbms := s'.hbms.put b.stack { x with alerts := min (x.alerts + 1) 0xFFFF }
              busyBanks := s'.busyBanks ++ [(b, s'.gtime + 350)] }
  else { s' with rows := ((b, row), n) :: s'.rows }

/-! ## The cistern (21 R471, R472) -/

/-- The set of a physical address: 256 × its channel, and PA[25:18]. -/
def setKey (pa : Nat) : Nat := 256 * chanOf pa + pa / 2 ^ 18 % 256

/-- The listed lines of a 512-byte block. -/
def State.blockLines (s : State) (b : Nat) : List (Nat × Line) :=
  s.lines.filter fun l => decide (l.1 / 512 = b)

/-- A block that a cistern evicts: accrue lines are collected, and copies on the package are recalled (R472). -/
def State.evictBlock (s : State) (b : Nat) : State :=
  (s.blockLines b).foldl (fun s l =>
    let s := if l.2.acc.isSome then s.collected l.1 [] else s
    let x := s.line l.1 l.2.grain
    if x.locked then s else s.setLine l.1 { x with sharers := 0, dir := .i }) s

/-- Whether a block may not be chosen: a line in COLLECT, FANOUT or HOLD, or one whose copies behind a Nalron port
would have to be recalled first (log entry 60). -/
def State.keepsBlock (s : State) (b : Nat) : Bool :=
  (s.blockLines b).any fun l => l.2.busy || decide (l.2.sharers / 2 ^ 49 ≠ 0)

/-- The mask of the sectors of a block that `n` bytes at `pa` touch. -/
def sectorMask (pa n : Nat) : Nat := (sectorsOf (pa % 512) n).foldl (fun x k => x ||| 2 ^ (k % 16)) 0

/-- Whether the cistern holds every sector that `n` bytes at `pa` touch: such an access activates no DRAM row (01 R23). -/
def State.cisternHas (s : State) (pa n : Nat) : Bool :=
  (s.sets.getD (setKey pa) []).any fun w => decide (w.block = pa / 512) && decide (w.valid &&& sectorMask pa n = sectorMask pa n)

/-- The last element that satisfies `p`. -/
def lastWhere {α : Type} (p : α → Bool) (l : List α) : Option α := (l.filter p).getLast?

/-- An access in the cistern: its block becomes the most recently used of its set, a full set evicting the least
recently used block that may be chosen. -/
def State.cistern (s : State) (pa n : Nat) (write : Bool) : State :=
  let key := setKey pa
  let b := pa / 512
  let l := s.sets.getD key []
  let hit := sectorMask pa n
  let mark (w : Way) : Way := { w with valid := w.valid ||| hit, dirty := if write then w.dirty ||| hit else w.dirty }
  match List.find? (fun w : Way => decide (w.block = b)) l with
  | some w => { s with sets := s.sets.put key (mark w :: l.filter fun x => decide (x.block ≠ b)) }
  | none =>
    if l.length < 16 then { s with sets := s.sets.put key (mark ⟨b, 0, 0⟩ :: l) }
    else match lastWhere (fun w : Way => !s.keepsBlock w.block) l with
      | some v =>
        let s := s.evictBlock v.block
        { s with sets := s.sets.put key (mark ⟨b, 0, 0⟩ :: l.filter fun x => decide (x.block ≠ v.block)) }
      | none => s

/-! ## Requests at a line (R175, R440) -/

/-- Whether a request writes, or asks for ownership. -/
def reqWrites (r : HomeReq) : Bool :=
  match r.kind with
  | .load _ => false
  | .fill own => own
  | _ => true

/-- The first address of a request's line. -/
def reqLine (r : HomeReq) : Nat := alignDown r.pa r.grain

/-- A request performed and answered. -/
def State.serve (s : State) (x : Waiting) : State :=
  let r := s.perform x.req x.back x.issue
  r.1.answered x.req r.2

/-- A line after a request that its state allows: a read fill adds a sharer, an ownership fill leaves one copy, and a
write leaves none. -/
def Line.after (l : Line) (r : HomeReq) (b : Option Nat) : Line :=
  match r.kind, b with
  | .load _, _ => l
  | .fill false, some b => l.readBy b
  | .fill true, some b => l.ownedBy b
  | .fill _, none => l
  | _, _ => l.homeWritten

/-- The switch's snoop filter after a fill by a peer chip (19 R446). -/
def State.snooped (s : State) (a : Nat) (r : HomeReq) : State :=
  match r.agent, r.kind with
  | .peer _ c, .fill _ => { s with snoop := s.snoop.put a (c :: (s.snoop.getD a []).filter fun d => decide (d ≠ c)) }
  | _, _ => s

/-! ## Lock requests of other chips (07 R185, R188, R192; log entry 104) -/

/-- The fibre of another chip at a place. -/
def State.guestAt (s : State) (a chip die core gang lane : Nat) : Option Nat :=
  (List.find? (fun g : Nat × Guest => decide (g.2.line = a) && decide (g.2.chip = chip) && decide (g.2.die = die) && decide (g.2.core = core)
    && decide (g.2.gang = gang) && decide (g.2.lane = lane)) s.guests).map (·.1)

/-- LCK of a fibre of another chip: it asks under the name of its request. -/
def State.guestLock (s : State) (x : Waiting) (a : Nat) (g : Guest) (limit : Option Nat) : State :=
  { s with guests := s.guests.put x.id g }.lockArrives
    { grant := false, line := a, grain := x.req.grain, fib := x.id, slot := 0, status := .acquired, limit }

/-- ULK of a fibre of another chip. -/
def State.guestUnlock (s : State) (a f : Nat) : State :=
  if (s.line a 32).holder = some f then s.passLock a .acquired else s

/-- LCKCAN of a fibre of another chip: a grant on its way arrives, a queued request is removed. -/
def State.guestCancel (s : State) (a f : Nat) : State :=
  match s.lockMsgs.find? fun m => m.grant && decide (m.fib = f) with
  | some m => s.arriveGrant m
  | none =>
    if (s.line a 32).holder = some f then s
    else { s with tableWait := s.tableWait.filter fun m => decide (m.fib ≠ f) }.failRequest a f 0 .cancelled

/-- Whether a store comes from the chip of the fibre that holds the line's lock: that chip holds back those of its other
fibres. -/
def State.fromHolder (s : State) (l : Line) (g : Agent) : Bool :=
  match l.holder.bind s.guests.find?, g with
  | some x, .peer _ c => decide (x.chip = c)
  | _, _ => false

/-- A request at its line, by the line's state. -/
def State.arriveLine (s : State) (x : Waiting) : State :=
  let a := reqLine x.req
  let l := s.line a x.req.grain
  let b := s.sharerBit x.req.agent
  let later (l : Line) : State := s.setLine a { l with waiting := l.waiting ++ [x] }
  let chip : Nat × Nat := match x.req.agent with
    | .peer k c => (k, c)
    | _ => (0, s.chip)
  match x.req.kind with
  | .unlock d c g n => match s.guestAt a chip.2 d c g n with
    | some f => s.guestUnlock a f
    | none => s
  | .cancel d c g n => match s.guestAt a chip.2 d c g n with
    | some f => s.guestCancel a f
    | none => s
  | .lock d c g n limit =>
    if l.busy then later l
    else if l.acc.isSome then later { l with collect := true }
    else s.guestLock x a ⟨chip.1, chip.2, d, c, g, n, a⟩ limit
  | _ =>
  if l.busy then later l
  else match l.acc with
    | some t =>
      let same : Bool := match x.req.kind with
        | .acr u _ => decide (u = t)
        | _ => false
      if same then s.serve x else later { l with collect := true }
    | none =>
      if l.locked then
        if reqWrites x.req && !s.fromHolder l x.req.agent then s.setLine a { l with held := l.held ++ [x] } else ((s.setLine a (l.after x.req b)).snooped a x.req).serve x
      else
        let others := match b with
          | some b => if l.sharers.testBit b then l.sharers - 2 ^ b else l.sharers
          | none => l.sharers
        if reqWrites x.req && decide (others ≠ 0) then
          s.fanOut a { l with waiting := l.waiting ++ [x] } others
        else
          let s := s.snooped a x.req
          match x.req.kind with
          | .acr t _ => (s.enterAccrue a x.req.grain t).serve x
          | _ => (s.setLine a (l.after x.req b)).serve x

/-- The die and core that a request counts as for a private page: its owner's cluster acts for the owner (18 R428). -/
def ownerFor (g : Agent) (e : Word) : Option (Nat × Nat) :=
  match g with
  | .cluster n => if n = 6 * (leafOwner e).1 + clusOf (leafOwner e).2 then some (leafOwner e) else none
  | _ => none

/-- The translated page of a request, where its address under the partition's tree is the one it names. -/
def State.pageOf (s : State) (r : HomeReq) : Option Xl :=
  match s.walk r.part r.va with
  | some l => if l.pa r.va = r.pa then some { va := r.va, pa := r.pa, leaf := l, away := false } else none
  | none => none

/-- The core that a request for a private page comes from, where it is one of this package (18 R428). -/
def State.causedBy (s : State) (g : Agent) : Option (Nat × Nat) :=
  match g with
  | .cluster n => some (n / 6, 4 * (n % 6) + Config.fillCore s.free % 4)
  | _ => none

/-- A request with the attributes of its page: NARROW, and for another chip's COUNT; the lane whose access a cluster's
fill serves is counted when it is made (18 R432). -/
def reqOn (r : HomeReq) (y : Xl) : HomeReq :=
  { r with
    narrow := ebit y.leaf.e 10
    count := match r.agent with
      | .cluster _ => false
      | _ => ebit y.leaf.e 12 }

/-- A request that reaches its home: another agent's request to a private page makes it shared, once its accrue lines
are collected (07 R180, 18 R428); then its line decides. -/
def State.arrive (s : State) (x : Waiting) : State :=
  match s.pageOf x.req with
  | none => s.arriveLine x
  | some y =>
    let who := ownerFor x.req.agent y.leaf.e
    match s.pageAccrues x.req.part who y with
    | a :: l =>
      let s := s.startCollect (a :: l)
      let z := s.line a x.req.grain
      s.setLine a { z with waiting := z.waiting ++ [x] }
    | [] => (s.touchBy x.req.part who (s.causedBy x.req.agent) y).drawn.arriveLine { x with req := reqOn x.req y }

/-- The requests queued at a line, once it is neither in COLLECT, FANOUT nor HOLD (R440). -/
def State.serveWaiting (s : State) (a : Nat) : State :=
  match s.lines.find? a with
  | none => s
  | some l => if l.busy then s else l.waiting.foldl State.arrive (s.setLine a { l with waiting := [] })

/-- A DRAM row activated for an access, with the errors it meets: a correctable one is counted, an uncorrectable one
leaves its sector bad and retires the frame (R475, R477, R479). -/
def State.accessed' (s : State) (r : HomeReq) (row : Option (BankRef × Nat)) (soft hard : Bool) : State :=
  let s := match row with
    | some (b, n) => s.activated b n
    | none => s
  let k := chanOf r.pa % 16
  let s := if soft && decide (r.pa < 2 ^ 40) then { s with hbms := s.hbms.put k { s.stack k with soft := (s.stack k).soft + 1 } } else s
  if hard && !s.bad.contains (r.pa / 32) then { s with bad := r.pa / 32 :: s.bad }.retireFrame r.pa (memSource r.pa) else s

/-- R175: the event HOME_REQUEST_ARRIVAL: a fill of a cluster's caches or a request of a peer chip. -/
def execHomeRequestArrival (s : State) : Out :=
  .next (match s.cur with
    | .event (.homeRequestArrival r row soft hard) =>
      let ours : Bool := match r.agent, r.kind with
        | .cluster n, .fill _ => decide (n < 48)
        | .peer k c, _ => decide (k < 16) && !s.severed.contains c
        | _, _ => false
      let fits := (r.grain = 32 ∨ r.grain = 128 ∨ r.grain = 512) ∧ r.pa % r.grain + reqBytes r ≤ r.grain
      let rowOk := match row with
        | some (b, _) => bankHolds b r.pa
        | none => true
      if !ours || !rowOk || !s.boot.memready || decide (0x0008000000000000 ≤ r.pa) then s
      else if ¬ fits then s
      else if !s.inRange r.part r.pa then s.send (.unsupported r.agent)
      else
        let x : Waiting := { id := s.nextId, req := r, back := none, issue := Issue.plain }
        let s := s.named
        let hit := s.cisternHas r.pa (reqBytes r)
        match (if hit then none else row) with
        | some (b, n) =>
          if s.bankBusy b then { s with backed := s.backed ++ [((b, n), x)] }
          else ((s.accessed' r row soft hard).cistern r.pa (reqBytes r) (reqWrites r)).arrive x
        | none => ((s.accessed' r none (soft && !hit) (hard && !hit)).cistern r.pa (reqBytes r) (reqWrites r)).arrive x
    | _ => s)

/-! ## Collections -/

/-- A collection counted on the home's die (22 R489): the die of the line's channel is not architectural, so each die
that held a partial counts it (log entry 61). -/
def State.collectedDies (s : State) (a : Nat) : List Nat :=
  (List.range 8).filter fun d => s.partials.any fun p => decide (p.line = a) && match p.node with
    | .core e _ => decide (e = d)
    | .cluster e _ => decide (e = d)

/-- R176: the event COLLECTION_END. -/
def execCollectionEnd (s : State) : Out :=
  .next (match s.cur with
    | .event (.collectionEnd a hard) =>
      match s.lines.find? a with
      | none => s
      | some l =>
        if l.collect then
          ((s.collectedDies a).foldl (fun s d => s.bumpDie d 0x44 1) (s.collected a hard)).serveWaiting a
        else s
    | _ => s)

/-- R178: the event PARTIAL_EVICT: a partial merges into that of its cluster unit, or into the base. -/
def execPartialEvict (s : State) : Out :=
  .next (match s.cur with
    | .event (.partialEvict a d core clus) =>
      if (s.line a 32).busy then s
      else match core with
        | some c =>
          match s.partialAt (.core d c) a with
          | some p => if clus = clusOf c then ((s.dropPartial (.core d c) a).mergeInto (.cluster d clus) p).bumpDie d 0x43 1 else s
          | none => s
        | none =>
          match s.partialAt (.cluster d clus) a with
          | some p => (s.dropPartial (.cluster d clus) a).mergeBase p
          | none => s
    | _ => s)

/-- R478: the event LINE_WRITEBACK: a dirty line is written back, its uncorrectable sectors as lost. -/
def execLineWriteback (s : State) : Out :=
  .next (match s.cur with
    | .event (.lineWriteback a lost) =>
      let l := s.line a 32
      if l.dir = .m ∨ l.dir = .o then
        let ks := (lost.filter fun i => decide (i < l.grain / 32)).map fun i => a / 32 + i
        let s := { s with lost := s.lost ++ ks.filter fun k => !s.lost.contains k }
        let s := if ks.isEmpty then s else s.retireFrame a 4
        if l.locked then s
        else s.setLine a (if l.dir = .m then { l with dir := .i, sharers := 0 } else { l with dir := .s })
      else s
    | _ => s)

/-! ## Far operations (12 R305, R308, R309) -/

/-- A lane's operation of a far command that may reach its execution point: lanes of one element in ascending order
(04 R87), every lane of an ATL or ATG in that order (12 R302), and none that is held at a locked line already. -/
def State.farOp (s : State) (cmd lane : Nat) : Option (Cmd × FarOp) :=
  match s.cmds.find? cmd with
  | none => none
  | some c => match c.body with
    | .far ops =>
      match List.find? (fun o : FarOp => decide (o.lane = lane)) ops with
      | none => none
      | some o =>
        let there (n : Nat) : Bool := (s.line (alignDown o.pa o.grain) o.grain).held.any fun x => decide (x.req.agent = .engine cmd n)
        if ops.any fun p => decide (p.lane < lane) && (c.ctr.isNone || decide (p.pa = o.pa)) && !there p.lane then none
        else if there lane then none
        else some (c, o)
    | _ => none

/-- Whether an address lies in a severed window (19 R452). -/
def State.cutOff (s : State) (pa : Nat) : Bool :=
  match s.windowAt pa with
  | some k => (s.window k).severed
  | none => false

/-- A far operation toward a severed chip: it is present or absent (07 R181); none where it is performed as usual. -/
def State.farCut (s : State) (cmd lane : Nat) (o : FarOp) : Option State :=
  if s.cutOff o.pa && Config.lostWrite s.free then some (s.drawn.farDone cmd lane none) else none

/-- R302, R304 to R306: the event FAR_ATOMIC_PERFORM: a lane of a REDG, or of an ATL or ATG whose lanes fall apart. -/
def execFarAtomicPerform (s : State) : Out :=
  .next (match s.cur with
    | .event (.farAtomicPerform cmd lane) =>
      match s.farOp cmd lane with
      | none => s
      | some (c, o) =>
        let a := alignDown o.pa o.grain
        match o.kind, s.farCut cmd lane o, s.gate a o.grain true with
        | .acr _ _, _, _ => s
        | .bank p w x, _, _ => match c.fib with
          | some f =>
            let r := s.bankAtom (.fibre f) c.wg o.issue p w x o.data o.pa
            (r.1.farOld cmd lane r.2.1).farDone cmd lane none
          | none => s
        | .atom _ _ _, some s, _ => s
        | .atom _ _ _, none, .wait s => s
        | .atom _ _ _, none, .pass =>
          let r := c.farReq s cmd o
          let l := s.line a o.grain
          if l.heldFrom c then s.holdFar a r o.issue
          else
            let s := (s.perform r none o.issue).1
            if l.locked || decide (l.homeWritten = l) then s else s.setLine a l.homeWritten
    | _ => s)

/-- A partial of which a sector is found uncorrectable: its frame is retired (12 R309, 21 R479). -/
def State.spoilPartial (s : State) (n : Node) (a k : Nat) : State :=
  { s with partials := s.partials.map fun p : Partial => if p.node = n ∧ p.line = a then { p with bad := k :: p.bad } else p }.retireFrame (a + 32 * k) 4

/-- Whether a sector of a node's partial is known uncorrectable. -/
def State.partialBad (s : State) (n : Node) (a k : Nat) : Bool :=
  match s.partialAt n a with
  | some p => p.bad.contains k
  | none => false

/-- A far operation's update merged at its node, or in the base or held line where it has none; `hard`: the node finds
the sector of its partial uncorrectable, and the update is not performed (R309). -/
def State.mergeFar (s : State) (c : Cmd) (cmd : Nat) (o : FarOp) (t : AcrTag) (node : Option Node) (hard : Bool) : State :=
  match node with
  | none => (s.perform (c.farReq s cmd o) none o.issue).1
  | some n =>
    let a := alignDown o.pa o.grain
    let k := (o.pa - a) / 32
    let s := if hard && (s.partialAt n a).isSome && !s.partialBad n a k then s.spoilPartial n a k else s
    if s.partialBad n a k then s.farDone cmd o.lane (some (.eccunc, o.va))
    else
      let s := (s.mergeNode n a o.grain t ((o.pa - a) / t.size) o.data).accrued o.issue
      let s := match n with
        | .cluster d _ => s.bumpDie d 0x43 1
        | .core _ _ => s
      s.farDone cmd o.lane none

/-- R173, R308: the event ACR_NODE_MERGE. -/
def execAcrNodeMerge (s : State) : Out :=
  .next (match s.cur with
    | .event (.acrNodeMerge cmd lane hard) =>
      match s.farOp cmd lane with
      | none => s
      | some (c, o) =>
        match o.kind with
        | .atom _ _ _ => s
        | .bank _ _ _ => s
        | .acr t node =>
          let a := alignDown o.pa o.grain
          let l := s.line a o.grain
          let old := (s.accruesIn a o.grain).filter fun b => decide (b ≠ a) || decide (l.grain ≠ o.grain)
          if let some s := s.farCut cmd lane o then s
          else if l.busy then s
          else if !old.isEmpty then s.startCollect old
          else if l.heldFrom c then s.holdFar a (c.farReq s cmd o) o.issue
          else if l.locked then s.mergeFar c cmd o t none false
          else match l.acc with
            | some u => if u = t then s.mergeFar c cmd o t node hard else s.setLine a { l with collect := true }
            | none => match s.gate a o.grain true with
              | .wait s => s
              | .pass => (s.enterAccrue a o.grain t).mergeFar c cmd o t node hard
    | _ => s)

end Sys2Proof.Machine
end

