-- ==== Sys2Proof/Machine/FabricEvents.lean ====
section
/-! DEFINITION. Events of the fabric (19 R440 to R453): acknowledgements, Nalron ports and their flits, severance, the
links of the package, the snoop filter, windows, and the group table of the switch. -/

namespace Sys2Proof.Machine

/-! ## Fan-outs (R440, R451) -/

/-- A line whose acknowledgements are all in is granted, and serves what is queued. -/
def State.granted (s : State) (a : Nat) : State :=
  let l := s.line a 32
  if l.acks = 0 then
    (s.setLine a { l with granted := none, hold := false, dir := if l.sharers = 0 then .i else l.dir }).serveWaiting a
  else s.setLine a { l with hold := !(s.downPorts l.acks).isEmpty }

/-- The acknowledgement of a sharer bit counted. -/
def State.acked (s : State) (a b : Nat) : State :=
  let l := s.line a 32
  let l := { l with acks := l.acks - 2 ^ b, sharers := if l.sharers.testBit b then l.sharers - 2 ^ b else l.sharers }
  let s := if l.sharers / 2 ^ 49 = 0 then { s with snoop := s.snoop.del a } else s
  (s.setLine a l).granted a

/-- Whether an acknowledgement can travel: its port is not DOWN, or another port is UP. -/
def State.ackTravels (s : State) (b : Nat) : Bool :=
  decide (b < 49) || !(s.port (b - 49)).down || (List.range 16).any fun k => (s.port k).up

/-- R440, R451: the event INVALIDATION_ACK. -/
def execInvalidationAck (s : State) : Out :=
  .next (match s.cur with
    | .event (.invalidationAck a b) => if (s.line a 32).acks.testBit b && s.ackTravels b then s.acked a b else s
    | _ => s)

/-! ## Ports (R443, R444) -/

/-- The die whose black box holds the records of a Nalron port (log entry 63). -/
def portDie (k : Nat) : Nat := k / 2 % 8

/-- Port `k` fails: its EVT, its record, and the lines that wait for an acknowledgement across it go to HOLD. -/
def State.portDown (s : State) (k : Nat) (lanes : Nat) : State :=
  let x := s.port k
  let s := s.setPort k { x with up := false, down := true, evt := true, lanes, paused := false, run := 0 }
  let s := s.blackBox (portDie k) 0x03 true k
  let held := s.lines.filter fun l => l.2.acks.testBit (portBit k)
  let s := if held.isEmpty then s else s.timed k
  held.foldl (fun s l => s.setLine l.1 { l.2 with hold := true }) s

/-- R451: the event NALRON_PORT_DOWN. -/
def execNalronPortDown (s : State) : Out :=
  .next (match s.cur with
    | .event (.nalronPortDown k) =>
      if k < 16 ∧ (s.port k).en ∧ !(s.port k).down then s.portDown k (s.port k).lanes else s
    | _ => s)

/-- R451: the event NALRON_PORT_UP: lines held only by this port are in FANOUT again, their invalidations resent. -/
def execNalronPortUp (s : State) : Out :=
  .next (match s.cur with
    | .event (.nalronPortUp k lanes switch) =>
      let x := s.port k
      if k < 16 ∧ x.en ∧ !x.up ∧ 8 ≤ lanes ∧ lanes ≤ 16 ∧ switch < 1024 then
        let s := s.setPort k { x with up := true, down := false, evt := true, lanes, switch, paused := false, run := 0, since := none }
        let s := s.blackBox (portDie k) 0x03 true (k + 256)
        let held := s.lines.filter fun l => l.2.hold && l.2.acks.testBit (portBit k)
        held.foldl (fun s l =>
          (s.setLine l.1 { l.2 with hold := !(s.downPorts l.2.acks).isEmpty }).send (.invalidate l.1 (portBit k))) s
      else s
    | _ => s)

/-- R443: the event FLIT_CRC_FAIL: the flit is replayed; after 16 consecutive failed replays the port retrains, keeping
`lanes` lanes. -/
def execFlitCrcFail (s : State) : Out :=
  .next (match s.cur with
    | .event (.flitCrcFail k lanes) =>
      let x := s.port k
      if k < 16 ∧ x.up then
        let x := { x with crcerr := min (x.crcerr + 1) 0xFFFF, replays := min (x.replays + 1) 0xFFFF, run := x.run + 1 }
        let s := s.setPort k x
        if x.run < 16 then s
        else if lanes < 8 then s.portDown k lanes
        else s.setPort k { x with run := 0, lanes := min lanes 16 }
      else s
    | _ => s)

/-- R443: the event PAUSE_FLIT. -/
def execPauseFlit (s : State) : Out :=
  .next (match s.cur with
    | .event (.pauseFlit k) =>
      if k < 16 ∧ (s.port k).up then s.setPort k { s.port k with paused := true, run := 0 } else s
    | _ => s)

/-- R443: the event RESUME_FLIT. -/
def execResumeFlit (s : State) : Out :=
  .next (match s.cur with
    | .event (.resumeFlit k) =>
      if k < 16 ∧ (s.port k).up then s.setPort k { s.port k with paused := false, run := 0 } else s
    | _ => s)

/-- A write of NPCTL without its RETRAIN: the port in use or not. -/
def State.npctl (s : State) (k : Nat) (v : Word) : State :=
  let x := s.port k
  s.setPort k (if ebit v 0 then { x with en := true } else { x with en := false, up := false, evt := x.evt || x.up })

/-- R444: the event NPCTL_RETRAIN: a store of partition 0 that sets RETRAIN; the port keeps `lanes` lanes. -/
def execNpctlRetrain (s : State) : Out :=
  .next (match s.cur with
    | .event (.npctlRetrain by' k lanes v) =>
      if ebit v 1 ∧ k < 16 then
        s.ctl by' (svcBase + 0x9000 + 0x40 * k) fun p s =>
          if p = 0 then
            let s := s.npctl k v
            if !(s.port k).up then s
            else if lanes < 8 then s.portDown k lanes else s.setPort k { s.port k with lanes := min lanes 16, run := 0 }
          else s
      else s
    | _ => s)

/-! ## Severance (R451 to R453) -/

/-- Whether the severance of the chips `new` cuts a window. -/
def State.cuts (s : State) (new : List Nat) (w : Window) : Bool :=
  match w.kind with
  | 0 => new.contains w.peer || new.contains s.chip
  | 2 => new.contains w.peer || new.contains s.chip
  | 1 => new.any fun c => (s.group w.group).members.testBit c
  | _ => false

/-- Whether a request changes memory. -/
def reqStores (r : HomeReq) : Bool :=
  match r.kind with
  | .store _ | .atom _ _ _ _ | .acr _ _ => true
  | _ => false

/-- The requests of a list without those of severed chips; a write of theirs is present or absent (04 R113). -/
def State.keepSevered (s : State) (l : List Waiting) : List Waiting :=
  l.filter fun x => match x.req.agent with
    | .peer _ c => !s.severed.contains c || (reqStores x.req && !Config.lostWrite (s.free + x.id))
    | _ => true

/-- The chips `new` declared severed (R452): snoop filter, windows, groups, the requests they had on their way, and the
locks of their fibres. -/
def State.sever (s : State) (new : List Nat) : State :=
  let s := { s with severed := new ++ s.severed
                    snoop := s.snoop.mapVal fun _ l => l.filter fun c => !new.contains c }
  let s := { s with windows := s.windows.mapVal fun _ w => if w.en && s.cuts new w then { w with severed := true } else w }
  let s := { s with lines := s.lines.mapVal fun _ l => { l with held := s.keepSevered l.held, waiting := s.keepSevered l.waiting } }.drawn
  let s := new.foldl State.severLocks s
  new.foldl (fun s c => (s.groups.keys.filter fun g => (s.group g).members.testBit c).foldl (fun s g => s.loseMember g c 3) s) s

/-- The acknowledgements due across port `k` from lines that no surviving chip holds count as given. -/
def State.ackSevered (s : State) (k : Nat) : State :=
  let l := s.lines.filter fun l => l.2.acks.testBit (portBit k) && (s.snoop.getD l.1 []).isEmpty
  l.foldl (fun s x => if (s.line x.1 32).acks.testBit (portBit k) then s.acked x.1 (portBit k) else s) s

/-- R451, R452: the event LINK_FAILURE_TIMEOUT of port `k` of this chip, or, from 16 up, of a port of the switch, whose
timer is the switch's. -/
def execLinkFailureTimeout (s : State) : Out :=
  .next (match s.cur with
    | .event (.linkFailureTimeout k chips) =>
      let due := decide (16 ≤ k) || match (s.port k).since with
        | some t => (s.port k).down && decide (1000 * s.nlfto ≤ s.gtime - t)
        | none => false
      if due then
        let new := chips.filter fun c => decide (c < 1024) && !s.severed.contains c
        let s := (if new.isEmpty then s else s.sever new)
        if 16 ≤ k then (List.range 16).foldl State.ackSevered s
        else (s.setPort k { s.port k with since := none }).ackSevered k
      else s
    | _ => s)

/-- R446: the event SNOOP_FILTER_EVICT: the copies that a full snoop filter records for a line are invalidated. -/
def execSnoopFilterEvict (s : State) : Out :=
  .next (match s.cur with
    | .event (.snoopFilterEvict a) =>
      let s := { s with snoop := s.snoop.del a }
      let l := s.line a 32
      if (s.windowAt a).isSome && !l.locked && !l.busy && l.acc.isNone && decide (l.sharers ≠ 0) then s.setLine a { l with sharers := 0, dir := .i }
      else s
    | _ => s)

/-! ## Links inside the package (R442) -/

/-- The die at the far end of link `l` of die `d`, and the number of the link there. -/
def linkEnd (d l : Nat) : Option (Nat × Nat) :=
  match l with
  | 0 => if d % 4 = 0 then none else some (d - 1, 1)
  | 1 => if d % 4 = 3 then none else some (d + 1, 0)
  | 2 => some ((d + 4) % 8, 2)
  | _ => none

/-- CLST of link `l` of die `d`. -/
def State.linkWord (s : State) (d l : Nat) : Word := (s.die d).links.getD l (if (linkEnd d l).isSome then 1 else 0)

/-- A lane of one end of a link out of service; the link is DOWN and routed around when no lane is left. -/
def State.laneLost (s : State) (d l : Nat) (down : Bool) : State :=
  let w := s.linkWord d l
  let off := min ((w.extractLsb' 8 8).toNat + 1) 255
  let x := s.die d
  s.setDie d { x with links := x.links.put l (BitVec.ofNat 64 (off * 256 + (if down then 6 else (w.extractLsb' 0 3).toNat))) }

/-- R442: the event CULVERT_LANE_FAIL. -/
def execCulvertLaneFail (s : State) : Out :=
  .next (match s.cur with
    | .event (.culvertLaneFail d l spare left) =>
      match linkEnd d l with
      | none => s
      | some (e, m) =>
        if d < 8 ∧ ebit (s.linkWord d l) 0 then
          let down := !spare && decide (left = 0)
          (s.laneLost d l down).laneLost e m down
        else s
    | _ => s)

/-! ## Windows and groups (R445, R448) -/

/-- A window after a write of NWCTL. -/
def Window.written (w : Window) (v : Word) : Window :=
  let f (i n : Nat) : Nat := (v.extractLsb' i n).toNat
  if w.en then (if ebit v 63 then w else { w with en := false })
  else
    { w with en := ebit v 63, kind := f 61 2, part := f 58 3, peer := f 48 10, group := f 40 8, ty := f 38 2, size := f 22 16
             base := f 0 22, severed := w.severed && !ebit v 63 }

/-- R445: the event NWCTL_WRITE. -/
def execNwctlWrite (s : State) : Out :=
  .next (match s.cur with
    | .event (.nwctlWrite by' k v) =>
      s.ctl by' (svcBase + 0x8000 + 0x20 * k) fun p s =>
        if p = 0 ∧ k < 64 then
          let w := s.window k
          let w' := w.written v
          { s with windows := s.windows.put k w'
                   severed := if w.severed && !w'.severed && (w'.kind == 0 || w'.kind == 2) then
                       s.severed.filter fun c => decide (c ≠ w'.peer) && decide (c ≠ s.chip) else s.severed }
        else s
    | _ => s)

/-- R448: the event GCTL_WRITE. -/
def execGctlWrite (s : State) : Out :=
  .next (match s.cur with
    | .event (.gctlWrite by' k g v) =>
      if g < 256 then s.switchStore by' k (0x200 * g) fun s => s.setGroupReg g 0 v.toNat else s
    | _ => s)

/-- R448: the event GROUP_ABSENT_CLEAR. -/
def execGroupAbsentClear (s : State) : Out :=
  .next (match s.cur with
    | .event (.groupAbsentClear by' k g word v) =>
      if g < 256 ∧ word < 16 then
        s.switchStore by' k (0x200 * g + 0x100 + 8 * word) fun s => s.setGroupReg g (0x100 + 8 * word) v.toNat
      else s
    | _ => s)

end Sys2Proof.Machine
end

