-- ==== Sys2Proof/Machine/MemoryEvents.lean ====
section
/-! DEFINITION. Events of HBM4E stacks (21 R473, R475): the end of refresh management, periodic refresh, temperature. -/

namespace Sys2Proof.Machine

/-- The backed-off requests of a bank served in arrival order, until the bank is in refresh management again. -/
def State.serveBacked (s : State) (b : BankRef) : Nat → State
  | 0 => s
  | k + 1 =>
    if s.bankBusy b then s
    else match List.find? (fun y : (BankRef × Nat) × Waiting => decide (y.1.1 = b)) s.backed with
      | none => s
      | some y =>
        let s := { s with backed := s.backed.erase y }
        let r := y.2.req
        ((s.activated b y.1.2).cistern r.pa (reqBytes r) (reqWrites r)).arrive y.2 |>.serveBacked b k

/-- R475: the event ALERT_BACKOFF_END. -/
def execAlertBackoffEnd (s : State) : Out :=
  .next (match s.cur with
    | .event (.alertBackoffEnd b) =>
      match List.find? (fun x : BankRef × Nat => decide (x.1 = b)) s.busyBanks with
      | none => s
      | some x =>
        if s.gtime < x.2 then s
        else
          let s := { s with busyBanks := s.busyBanks.erase x }
          s.serveBacked b s.backed.length
    | _ => s)

/-- R475: the event PERIODIC_REFRESH. -/
def execPeriodicRefresh (s : State) : Out :=
  .next (match s.cur with
    | .event (.periodicRefresh b row) => s.rowsReset b [row]
    | _ => s)

/-- The refresh mode that a temperature enters. -/
def refreshMode (t : Nat) : Nat := if 105 < t then 3 else if 95 < t then 2 else if 85 < t then 1 else 0

/-- The refresh mode at temperature `t` after mode `m`: a mode is left 3 °C below its boundary. -/
def modeAfter (t m : Nat) : Nat := max (refreshMode t) (min m (refreshMode (t + 3)))

/-- R473: the event STACK_TEMPERATURE_CHANGE, with its black-box record where the mode changes. -/
def execStackTemperatureChange (s : State) : Out :=
  .next (match s.cur with
    | .event (.stackTemperatureChange k t) =>
      if k < 16 ∧ t < 256 then
        let x := s.stack k
        let m := modeAfter t x.rmode
        let s := { s with hbms := s.hbms.put k { x with temp := t, rmode := m } }
        if m = x.rmode then s else s.blackBox (k / 2) 0x04 true (k + m * 256)
      else s
    | _ => s)

end Sys2Proof.Machine
end

