-- ==== Sys2Proof/Machine/PowerEvents.lean ====
section
/-! DEFINITION. Reset, boot and firmware, clock steps and cooling (23 R490 to R499). -/

namespace Sys2Proof.Machine

/-! ## Reset (R490, R491) -/

/-- Requests held or queued at the homes when a warm reset starts: each write is present or absent (log entry 70). -/
def State.settleHeld (s : State) : State :=
  (s.lines.foldl (fun s l => (l.2.held ++ l.2.waiting).foldl (fun s x =>
    if Config.lostWrite (s.free + x.id) then s else (s.perform x.req x.back x.issue).1) s) s).drawn

/-- The partials that the caches hold when a warm reset starts: each is merged or lost (log entry 70). -/
def State.settlePartials (s : State) : State :=
  (s.partials.foldl (fun s q => (if Config.lostWrite s.free then s else s.mergeBase q).drawn) s)

/-- A retired frame repaired while spares last: its contents are undefined, and it may be used again (21 R479). -/
def State.repair (s : State) (fr : Nat) : State :=
  if Config.sparesLast s.free fr then
    let s := s.poke (8192 * fr) ((List.range 8192).map fun i => Config.repairedByte s.free (8192 * fr + i))
    { s with bad := s.bad.filter fun k => decide (k / 256 ≠ fr), lost := s.lost.filter fun k => decide (k / 256 ≠ fr) }
  else s

/-- What a warm reset leaves in memory, the scratchpads and the registers that survive. -/
def State.quiesced (s : State) : State :=
  let s := s.settleHeld.settlePartials
  let s := s.wgs.foldl (fun s w => s.clearWg w.1 w.2) s
  (s.retired.foldl State.repair s).drawn

/-- The measurement register after the boot stages (R495; log entry 71): each digest extends it. -/
def measured (digests : List (List Byte)) : List Byte :=
  digests.foldl (fun m d => sha384 (m ++ d)) (List.replicate 48 0)

/-- Whether an image is accepted (R492). -/
def accepted (image : List Byte) : Bool := Config.signatureOk 0 (leNat image) && Config.signatureOk 1 (leNat image)

/-- The boot state after a reset. -/
def Boot.after (b : Boot) (warm bad : Bool) (digests : List (List Byte)) : Boot :=
  { memready := !bad, warm, recov := bad || !b.imageOk || !accepted b.image, fw := 0, imageOk := b.imageOk, image := b.image
    staged := b.staged, measure := measured digests }

/-- What every reset keeps: the model's own fields, the chip's place in its domain, and the firmware store. -/
def State.cleared (s : State) (warm bad : Bool) (digests : List (List Byte)) : State :=
  { State.reset with
    sched := s.sched, cur := s.cur, free := s.free, nextId := s.nextId, chip := s.chip, out := s.out
    boot := s.boot.after warm bad digests }

/-- A black-box record of code 0x07 on every die (log entry 63). -/
def State.resetRecords (s : State) (warm bad : Bool) : State :=
  (List.range 8).foldl (fun s d => s.blackBox d 0x07 true (bit warm + 2 * bit bad)) s

/-- A cold reset; `bad` where a stack failed its verification pattern twice. -/
def State.coldReset (s : State) (bad : Bool) (digests : List (List Byte)) : State :=
  (s.cleared false bad digests).resetRecords false bad

/-- CLST after a warm reset: UP and LANESOFF survive (19 R442). -/
def linkKept (w : Word) : Word := w &&& 0xFF01

/-- A warm reset: memory, repair maps and black box survive, the fields marked "see text" keep their values, CLK counts on
(02 R30), and the switch keeps its groups. -/
def State.warmReset (s : State) (bad : Bool) (digests : List (List Byte)) : State :=
  let q := s.quiesced
  { q.cleared true bad digests with
    gtime := q.gtime, groups := q.groups, mem := q.mem, tags := q.tags, bad := q.bad, lost := q.lost
    hbms := q.hbms.mapVal fun _ x => { Stack.start with temp := x.temp }
    cores := q.cores.mapVal fun _ c => { Core.start c.en c.logical with relics := c.relics }
    dies := q.dies.mapVal fun _ x => { Die.start with clk := x.clk, links := x.links.mapVal fun _ w => linkKept w, temp := x.temp, bbIdx := x.bbIdx, bb := x.bb }
    parts := q.parts.mapVal fun _ x => Part.start x.valid x.dies x.scs }.resetRecords true bad

/-- R490: the event POWER_ON. -/
def execPowerOn (s : State) : Out :=
  .next (match s.cur with
    | .event (.powerOn bad digests) => s.coldReset bad digests
    | _ => s)

/-- R490: the event MGMT_RESET_COMMAND. -/
def execMgmtResetCommand (s : State) : Out :=
  .next (match s.cur with
    | .event (.mgmtResetCommand cold bad digests) => if cold then s.coldReset bad digests else s.warmReset bad digests
    | _ => s)

/-- R491: the event RSTCMD_WARM_RESET: a store of partition 0 to RSTCMD with bit [0] set. -/
def execRstcmdWarmReset (s : State) : Out :=
  .next (match s.cur with
    | .event (.rstcmdWarmReset by' bad digests) =>
      s.ctl by' (svcBase + 0xF008) fun p s => if p = 0 then s.warmReset bad digests else s
    | _ => s)

/-- R493: the event POWER_LOSS: everything volatile is lost, and a commit in progress leaves the image region invalid.
Nothing runs until POWER_ON. -/
def execPowerLoss (s : State) : Out :=
  .next (match s.cur with
    | .event .powerLoss =>
      { s.cleared false true [] with
        boot := { Boot.start with imageOk := s.boot.imageOk && decide (s.boot.fw ≠ 4), image := s.boot.image, staged := s.boot.staged }
        scs := [(0, Sc.start false)] }
    | _ => s)

/-! ## Firmware (R492 to R495) -/

/-- R493: the event FW_VERIFY; `staged` is what the executive wrote into the staging region. -/
def execFwVerify (s : State) : Out :=
  .next (match s.cur with
    | .event (.fwVerify by' staged) =>
      s.ctl by' (svcBase + 0xF100) fun _ s =>
        if s.boot.fw = 1 ∨ s.boot.fw = 4 then s else { s with boot := { s.boot with fw := 1, staged } }
    | _ => s)

/-- R493: the event FW_VERIFY_DONE. -/
def execFwVerifyDone (s : State) : Out :=
  .next (match s.cur with
    | .event .fwVerifyDone =>
      if s.boot.fw = 1 then { s with boot := { s.boot with fw := if accepted s.boot.staged then 2 else 3 } } else s
    | _ => s)

/-- R493: the event FW_COMMIT, ignored unless STATE is 2. -/
def execFwCommit (s : State) : Out :=
  .next (match s.cur with
    | .event (.fwCommit by') =>
      s.ctl by' (svcBase + 0xF100) fun _ s => if s.boot.fw = 2 then { s with boot := { s.boot with fw := 4 } } else s
    | _ => s)

/-- R493: the event FW_COMMIT_DONE; STATE is idle afterwards (log entry 72). -/
def execFwCommitDone (s : State) : Out :=
  .next (match s.cur with
    | .event .fwCommitDone =>
      if s.boot.fw = 4 then { s with boot := { s.boot with fw := 0, image := s.boot.staged, imageOk := true } } else s
    | _ => s)

/-- R494: the event RECOVERY_IMAGE. -/
def execRecoveryImage (s : State) : Out :=
  .next (match s.cur with
    | .event (.recoveryImage image) =>
      if s.boot.recov && accepted image then { s with boot := { s.boot with image, imageOk := true } } else s
    | _ => s)

/-- R495: the event ATTESTATION_QUOTE. -/
def execAttestationQuote (s : State) : Out :=
  .next (match s.cur with
    | .event (.attestationQuote nonce) =>
      let m := s.boot.measure ++ nonce
      s.send (.quote m (Config.quoteSignature 0 (leNat m)) (Config.quoteSignature 1 (leNat m)))
    | _ => s)

/-! ## Clock steps (R498) -/

/-- A die's limit. -/
def Die.limitNow (x : Die) : Nat := min x.cap x.limit

/-- CUR of a die set, with its black-box record where the step changes. -/
def State.setStep (s : State) (d new : Nat) : State :=
  let x := s.die d
  let s' := s.setDie d { x with cur := new }
  if new = x.cur then s' else s'.blackBox d 0x05 true (x.cur + 256 * new)

/-- A limit of die `d` has changed: alone the die steps at once, else every member of its group steps 1,000 ns later. -/
def State.limitChanged (s : State) (d : Nat) : State :=
  let g := (s.die d).group
  if g = 0 then s.setStep d (s.die d).limitNow
  else (List.range 8).foldl (fun s e =>
    let x := s.die e
    if x.group = g then s.setDie e { x with changes := x.changes ++ [s.gtime + 1000] } else s) s

/-- A die replaced, with what follows where its limit changes. -/
def State.relimit (s : State) (d : Nat) (x : Die) : State :=
  let old := (s.die d).limitNow
  let s := s.setDie d x
  if x.limitNow = old then s else s.limitChanged d

/-- Whether a die holds a resident gang. -/
def State.dieResident (s : State) (d : Nat) : Bool := s.wgs.any fun w => decide (w.2.die = d) && w.2.resident

/-- R498: the event TGCTL_WRITE. -/
def execTgctlWrite (s : State) : Out :=
  .next (match s.cur with
    | .event (.tgctlWrite by' d v) =>
      if d < 8 then
        s.ctl by' (dieBase d + 0x1000) fun _ s =>
          let x := s.die d
          let cap := (v.extractLsb' 0 8).toNat
          s.relimit d { x with group := if s.dieResident d then x.group else (v.extractLsb' 32 16).toNat
                               cap := if 40 ≤ cap ∧ cap ≤ 80 then cap else x.cap }
      else s
    | _ => s)

/-- The lowest limit in force across the group of die `d`. -/
def State.groupLimit (s : State) (d : Nat) (others : Option Nat) : Nat :=
  let g := (s.die d).group
  let own := (s.die d).limitNow
  let here := (List.range 8).foldl (fun m e => if g ≠ 0 ∧ (s.die e).group = g then min m (s.die e).limitNow else m) own
  match others with
  | some o => if g = 0 then here else min here o
  | none => here

/-- R498: the event CLOCK_STEP_APPLY: a change of this chip is due, or one of a member on another chip. -/
def execClockStepApply (s : State) : Out :=
  .next (match s.cur with
    | .event (.clockStepApply d others) =>
      let x := s.die d
      match x.changes with
      | t :: l =>
        if t ≤ s.gtime then (s.setDie d { x with changes := l }).setStep d (s.groupLimit d others)
        else if others.isSome && decide (x.group ≠ 0) then s.setStep d (s.groupLimit d others) else s
      | [] => if others.isSome && decide (x.group ≠ 0) then s.setStep d (s.groupLimit d others) else s
    | _ => s)

/-! ## Cooling (R499) -/

/-- R499: the event JUNCTION_LIMIT_REACHED. -/
def execJunctionLimitReached (s : State) : Out :=
  .next (match s.cur with
    | .event (.junctionLimitReached d t) =>
      let x := s.die d
      if d < 8 ∧ 105 ≤ t ∧ (!x.hot ∨ x.temp < 102) then
        s.relimit d { x with temp := t, hot := true, limit := max 40 (x.cur - 1), stepAt := s.gtime }
      else s
    | _ => s)

/-- R499: the event THERMAL_STEP_DOWN: a step lower while the junction is at or above 102 °C. -/
def execThermalStepDown (s : State) : Out :=
  .next (match s.cur with
    | .event (.thermalStepDown d t) =>
      let x := s.die d
      if d < 8 ∧ x.hot ∧ 102 ≤ t ∧ 100000 ≤ s.gtime - x.stepAt then
        s.relimit d { x with temp := t, limit := max 40 (x.limit - 1), stepAt := s.gtime }
      else s
    | _ => s)

/-- R499: the event THERMAL_STEP_UP: a step higher once the junction is below 102 °C. -/
def execThermalStepUp (s : State) : Out :=
  .next (match s.cur with
    | .event (.thermalStepUp d t) =>
      let x := s.die d
      if d < 8 ∧ x.limit < 80 ∧ (!x.hot ∨ t < 102) ∧ t < 105 ∧ 1000000 ≤ s.gtime - x.stepAt then
        s.relimit d { x with temp := t, hot := false, limit := x.limit + 1, stepAt := s.gtime }
      else s
    | _ => s)

/-- R499: the event THERMAL_TRIP. -/
def execThermalTrip (s : State) : Out :=
  .next (match s.cur with
    | .event (.thermalTrip d t bad digests) =>
      if d < 8 ∧ 115 ≤ t then ((s.setDie d { s.die d with temp := t }).blackBox d 0x06 true t).warmReset bad digests else s
    | _ => s)

end Sys2Proof.Machine
end

