-- ==== Sys2Proof/Machine/TranslationEvents.lean ====
section
/-! DEFINITION. Events of translation (18 R426, R427, R430, R433 to R436): the limit of write-block, invalidations, ATS
and PRI requests, and migration copies. -/

namespace Sys2Proof.Machine

/-! ## Write-block (R434) -/

/-- The outcome of a write whose stall reached WBLIM. -/
def State.wbExpired (s : State) (p : Nat) (x : Stall) : State :=
  let s := s.unstallWho p x.who
  match x.who with
  | .lane f _ => s.takeTrap f .wblock x.info 0
  | .engine c k =>
    match s.engCx c with
    | none => s
    | some e =>
      let core := s.lcore e.w.die e.w.core
      (s.setLcore e.w.die e.w.core { core with xwblk := (core.xwblk + 1) % 2 ^ 32 }).failToken
        { token := 0, cmd := c, sector := k, cause := .wblock, addr := x.va } .wblock
  | .service n => s.scTrap n 7 x.va
  | .endpoint _ rid =>
    s.notify p 0x13 (match s.walk p x.va with | some l => BitVec.ofNat 64 (l.pa x.va) | none => x.va)
      (BitVec.ofNat 64 (Cause.wblock.code * 65536 + rid))
  | .cluster _ => s
  | .peer _ _ => s

/-- R434: the event WBLIM_EXPIRY. -/
def execWblimExpiry (s : State) : Out :=
  .next (match s.cur with
    | .event (.wblimExpiry p who) =>
      match List.find? (fun x : Stall => decide (x.who = who)) (s.part p).stalls with
      | none => s
      | some x => if (s.part p).wblim ≠ 0 ∧ (s.part p).wblim ≤ s.gtime - x.since then s.wbExpired p x else s
    | _ => s)

/-! ## Invalidations (R426, R427) -/

/-- Whether `n` bytes at `va`, in the 53 bits of a page address, overlap the pages of an invalidation. -/
def xinvCovers (r : Option (Word × Nat)) (va n : Nat) : Bool :=
  match r with
  | none => true
  | some (lo, k) => decide (va % 2 ^ 53 < lo.toNat + 8192 * k) && decide (lo.toNat < va % 2 ^ 53 + n)

/-- The functions below the root ports of partition `p` that may hold ATS translations. -/
def State.atsOf (s : State) (p : Nat) : List (Nat × Nat) := s.atsFns.filter fun f => decide (s.portPart f.1 = some p)

/-- An invalidation begun: the root ports send ATS Invalidates (R427). -/
def State.xinvStart (s : State) (p : Nat) (r : Option (Word × Nat)) : State :=
  if (s.part p).xinv.isSome then s
  else (s.atsOf p).foldl (fun s f => s.send (.atsInvalidate f.1 f.2)) (s.modPart p fun x => { x with xinv := some r })

/-- R426: the event XINV_PARTITION: XINVCMD with KIND 0. -/
def execXinvPartition (s : State) : Out :=
  .next (match s.cur with
    | .event (.xinvPartition by' p) =>
      s.ctl by' (partBase p + 0x70) fun _ s => s.xinvStart p none
    | _ => s)

/-- R426: the event XINV_RANGE: XINVCMD with KIND 1 and NPAGES `n`. -/
def execXinvRange (s : State) : Out :=
  .next (match s.cur with
    | .event (.xinvRange by' p n) =>
      s.ctl by' (partBase p + 0x70) fun _ s =>
        if n % 2 ^ 32 = 0 then s else s.xinvStart p (some ((s.part p).xinvlo, n % 2 ^ 32))
    | _ => s)

/-- Whether an access that may have used an invalidated translation is not performed yet: one held or queued at its
home, or a far operation on its way (R427). -/
def State.oldAccess (s : State) (p : Nat) (r : Option (Word × Nat)) : Bool :=
  (s.lines.any fun l => (l.2.held ++ l.2.waiting).any fun x => decide (x.req.part = p) && xinvCovers r x.req.va.toNat 16)
  || s.cmds.any fun c => match c.2.body, s.wgs.find? c.2.wg with
    | .far ops, some w => decide (w.part = p) && ops.any fun o => xinvCovers r o.va.toNat 16
    | _, _ => false

/-- Whether a cached translation overlaps an invalidation; a CONTIG group counts as 256 KiB (R426). -/
def TlbEntry.hit (t : TlbEntry) (r : Option (Word × Nat)) : Bool :=
  let bits := if ebit t.leaf 61 then 18 else t.bits
  xinvCovers r (alignDown t.va (2 ^ bits)) (2 ^ bits)

/-- Whether the executive has changed the grain, class or attributes, or the frame, of a page since its translation was
cached. -/
def State.leafChanged (s : State) (t : TlbEntry) : Bool :=
  match s.walk t.part (BitVec.ofNat 64 t.va) with
  | some l => decide (homeMask l.e ≠ homeMask t.leaf) || (ebit t.leaf 7 && !ebit l.e 7)
  | none => true

/-- The accrue lines of the pages of an invalidation whose leaves have changed: they are collected first (07 R175). -/
def State.staleAccrues (s : State) (p : Nat) (r : Option (Word × Nat)) : List Nat :=
  (s.tlb.filter fun t : TlbEntry => decide (t.part = p) && t.hit r && s.leafChanged t).flatMap fun t =>
    s.accruesIn (alignDown (leafPpn t.leaf) (2 ^ t.bits)) (2 ^ t.bits)

/-- R427: the event INVALIDATION_COMPLETE: every function has answered or lost its ATS, the cached translations are gone, and stalled writes to the pages may retry
(R434). -/
def execInvalidationComplete (s : State) : Out :=
  .next (match s.cur with
    | .event (.invalidationComplete p acked) =>
      match (s.part p).xinv with
      | none => s
      | some r =>
        let old := s.staleAccrues p r
        if !old.isEmpty then s.startCollect old
        else if s.oldAccess p r || (s.atsOf p).any (fun f => !acked.contains f && !s.atsOff.contains f) then s
        else
          let gone := if r.isNone then s.atsOf p else []
          let s := { s with tlb := s.tlb.filter fun t => !(decide (t.part = p) && t.hit r)
                            atsFns := s.atsFns.filter fun f => !gone.contains f && !s.atsOff.contains f }
          s.modPart p fun x =>
            { x with xinv := none, xinvSeq := (x.xinvSeq + 1) % 2 ^ 32
                     stalls := x.stalls.map fun y : Stall => if xinvCovers r y.va.toNat 1 then { y with shut := false } else y }
    | _ => s)

/-- R427: the event ATS_INVALIDATE_TIMEOUT: a function that does not answer an invalidation. -/
def execAtsInvalidateTimeout (s : State) : Out :=
  .next (match s.cur with
    | .event (.atsInvalidateTimeout port rid) =>
      match s.portPart port with
      | none => s
      | some p =>
        if (s.part p).xinv.isNone || s.atsOff.contains (port, rid) || !s.atsFns.contains (port, rid) then s
        else { s with atsOff := (port, rid) :: s.atsOff }.notify p 0x15 (BitVec.ofNat 64 (rid % 65536)) (BitVec.ofNat 64 port)
    | _ => s)

/-! ## ATS and PRI (R430) -/

/-- The completion of a Translation Request for `va`. -/
def State.atsAnswer (s : State) (p port rid : Nat) (va : Word) : State :=
  if !canonical va then s.unsupported port rid
  else match s.leafOf p va s.free with
    | none => s.drawn.send (.translation port rid 0 13 false false)
    | some l =>
      let a := l.pa va
      if leafCpol l.e = 2 then s.drawn.send (.translation port rid 0 (s.leafBits l) false false)
      else match s.place p a with
        | .home | .peer _ =>
          let s := s.cacheLeaf p { va, pa := a, leaf := l, away := false }
          let s := { s with atsFns := (port, rid) :: s.atsFns.filter fun f => decide (f ≠ (port, rid)) }
          s.drawn.send (.translation port rid (alignDown a (2 ^ s.leafBits l)) (s.leafBits l) (ebit l.e 2)
            (ebit l.e 3 && !ebit l.e 10 && !ebit l.e 11))
        | _ => s.drawn.unsupported port rid

/-- R430: the event ATS_TRANSLATION_REQUEST. -/
def execAtsTranslationRequest (s : State) : Out :=
  .next (match s.cur with
    | .event (.atsTranslationRequest port rid pasid va) =>
      match s.portPart port with
      | none => s
      | some p =>
        if !s.carries port then s
        else match s.pasidEntry port (pasid.getD 0) with
          | none => s.unsupported port rid
          | some e =>
            if !e.testBit 2 || s.atsOff.contains (port, rid) then s.unsupported port rid else s.atsAnswer p port rid va
    | _ => s)

/-- R430, R455: the event PRI_PAGE_REQUEST. -/
def execPriPageRequest (s : State) : Out :=
  .next (match s.cur with
    | .event (.priPageRequest port rid pasid va w r last index) =>
      match s.portPart port with
      | none => s
      | some p =>
        let id := pasid.getD 0
        if !s.carries port then s
        else match s.pasidEntry port id with
          | none => s.unsupported port rid
          | some e =>
            if !e.testBit 1 then s.send (.prg port id rid index 1)
            else
              let x := s.part p
              let s' := s.notify p 0x12 ((va &&& ~~~(0xFFF : Word)) ||| BitVec.ofNat 64 (bit w * 2 + bit r))
                (BitVec.ofNat 64 (id % 2 ^ 20 * 2 ^ 44 + rid % 65536 * 65536 + bit last * 32768 + index % 512))
              if ringRoom x.nqsize.toNat x.nqhead x.nqtail then s' else s'.send (.prg port id rid index 15)
    | _ => s)

/-! ## Migration (R435, R436) -/

/-- R435: the event MIGCMD_GO with NPAGES `n`. -/
def execMigcmdGo (s : State) : Out :=
  .next (match s.cur with
    | .event (.migcmdGo by' p n) =>
      s.ctl by' (partBase p + 0xB8) fun _ s => s.modPart p fun x =>
        if x.mig.isSome || !(decide (1 ≤ n) && decide (n ≤ 8)) then x else { x with mig := some n }
    | _ => s)

/-- The word MIGST of a partition. -/
def Part.migWord (x : Part) : Word := BitVec.ofNat 64 (x.migSeq * 2 ^ 32 + x.migSt * 2 + bit x.mig.isSome)

/-- The lines of a copy of `n` bytes in ascending address (R436): the state, and the status. -/
def State.migLines (s : State) : Nat → Nat → Nat → Nat → State × Nat
  | 0, _, _, _ => (s, 0)
  | k + 1, src, dst, n =>
    if n = 0 then (s, 0)
    else
      let g := s.grainAt src
      let l := s.line src g
      if l.locked then (s, 1)
      else
        let s := if l.acc.isSome then (s.collected src []).serveWaiting src else s
        if s.dead src g then (s.retireFrame src (memSource src), 2)
        else
          let s := ((s.accruesIn dst g).foldl (fun s a => (s.collected a []).serveWaiting a) s)
          let s := (s.poke dst (s.mem.bytes src g)).regained dst g
          let d := s.line dst g
          let s := if d.locked || decide (d.homeWritten = d) then s else s.setLine dst d.homeWritten
          s.migLines k (src + g) (dst + g) (n - g)

/-- R436: the event MIGRATION_END: the copy is made and ends with its status. -/
def execMigrationEnd (s : State) : Out :=
  .next (match s.cur with
    | .event (.migrationEnd p) =>
      let x := s.part p
      match x.mig with
      | none => s
      | some n =>
        let src := x.migsrc.toNat
        let dst := x.migdst.toNat
        let inside := (List.range n).all fun i => s.inRange p (src + 8192 * i) && s.inRange p (dst + 8192 * i)
        let fans := s.lines.any fun l => decide (src ≤ l.1) && decide (l.1 < src + 8192 * n) && (decide (l.2.acks ≠ 0) || l.2.hold)
        if fans then s
        else
          let (s, st) := if inside then s.migLines (256 * n) src dst (8192 * n) else (s, 3)
          let s := s.modPart p fun x => { x with mig := none, migSt := st, migSeq := (x.migSeq + 1) % 2 ^ 32 }
          s.notify p 0x14 x.migsrc (s.part p).migWord
    | _ => s)

end Sys2Proof.Machine
end

