-- ==== Sys2Proof/Machine/Ctl.lean ====
section
/-! DEFINITION. The map of control-register space (16 R393 to R398, 17 R399, R407, R414, 18 R418, R426, R431, R434,
R435, 19 R441 to R447, 20 R454, R455, R459, 21 R474, R479, 22 R481 to R488, 23 R491 to R498): what each register reads,
and what a write changes. -/

namespace Sys2Proof.Machine

/-- Bits `i` to `i + n − 1` of a word. -/
def fld (v : Word) (i n : Nat) : Nat := (v.extractLsb' i n).toNat

/-- A word under a mask of `n` bits from bit `i` up. -/
def keepBits (v : Word) (i n : Nat) : Word := BitVec.ofNat 64 (fld v i n * 2 ^ i)

/-! ## Event counters (R488) -/

/-- The registers of a table of event counters at offset `o` from its base. -/
def evRead (t : Tbl EvCtr) (o : Nat) : Nat :=
  match t.find? (o / 16) with
  | none => 0
  | some c => if o % 16 = 0 then c.sel.toNat else c.cnt

/-- EVSEL after a write: OVF is cleared by writing 1. -/
def evSelWritten (old v : Word) : Word :=
  keepBits v 8 2 ||| keepBits v 0 8 ||| (if ebit old 15 && !ebit v 15 then 0x8000 else 0)

/-- The table after a write at offset `o`. -/
def evWrite (t : Tbl EvCtr) (o : Nat) (v : Word) : Tbl EvCtr :=
  let c := t.getD (o / 16) ⟨0, 0⟩
  t.put (o / 16) (if o % 16 = 0 then { c with sel := evSelWritten c.sel v } else { c with cnt := fld v 0 48 })

/-! ## Core blocks -/

/-- Resident workgroups and gangs of physical core `p`, which carries a logical core only while it is enabled. -/
def State.residentsOf (s : State) (d p : Nat) : List (Nat × Wg) :=
  let c := s.pcore d p
  if c.en then s.residents d c.logical [] else []

/-- CID. -/
def State.cid (s : State) (d p : Nat) : Nat :=
  let c := s.pcore d p
  bit c.en * 65536 + c.logical / 4 * 8192 + c.logical * 256 + p

/-- CSTAT. -/
def State.cstat (s : State) (d p : Nat) : Nat :=
  let l := s.residentsOf d p
  l.length * 2 ^ 32 + (l.flatMap fun x => x.2.gangs.filterMap id).length * 2 ^ 24 + (s.pcore d p).partw.toNat % 2 ^ 24

/-- DBGST. -/
def State.dbgst (s : State) (d p : Nat) : Nat :=
  ((List.range 64).map fun g => match s.gangOwner d p g with
    | some (id, w, _, i) =>
      let l := s.gangLive id w i
      if !l.isEmpty && l.all fun x => x.2.st == .stopped then 2 ^ g else 0
    | none => 0).foldl (· + ·) 0

/-- A register of a core block. -/
def State.coreRead (s : State) (d p o : Nat) : Nat :=
  let c := s.pcore d p
  if o = 0x0000 then s.cid d p
  else if o = 0x0008 then bit c.drain * 2 + bit c.online
  else if o = 0x0010 then s.cstat d p
  else if o = 0x0108 then c.lastop * 16 + bit c.refused * 2 + bit c.busy
  else if o = 0x1000 then c.xrecl
  else if o = 0x1008 then c.xwblk
  else if o = 0x2008 then s.dbgst d p
  else if o = 0x2080 then c.smpctl.toNat
  else if o = 0x2088 then c.smpbase.toNat
  else if o = 0x2090 then c.smphead
  else if o = 0x2098 then c.smptail
  else if o = 0x20A0 then c.smpovf
  else if 0x2200 ≤ o ∧ o < 0x2300 then evRead c.ev (o - 0x2200)
  else 0

/-- A core after a write of SMPCTL: a LOG2INT outside 8 to 24 is ignored; setting EN seeds the generator from CLK and
loads the counters. -/
def Core.smpWritten (c : Core) (v : Word) (clk : Nat) : Core :=
  let k := if 8 ≤ fld v 16 5 ∧ fld v 16 5 ≤ 24 then fld v 16 5 else c.logInt
  let c' := { c with smpctl := BitVec.ofNat 64 (k * 65536 + bit (ebit v 0)) }
  if !ebit v 0 then { c' with smpleft := [], smparm := [] }
  else if ebit c.smpctl 0 then c'
  else (List.range 4).foldl Core.reload { c' with smpgen := BitVec.ofNat 16 clk, smpleft := [], smparm := [] }

/-- A core after a write at offset `o` of its block. -/
def Core.written (c : Core) (o : Nat) (v : Word) (clk : Nat) : Core :=
  if o = 0x0008 then { c with drain := ebit v 1, online := ebit v 0 }
  else if o = 0x0100 then (if c.busy then c else { c with lastop := fld v 0 4, refused := false })
  else if o = 0x1000 then { c with xrecl := fld v 0 32 }
  else if o = 0x1008 then { c with xwblk := fld v 0 32 }
  else if o = 0x2080 then c.smpWritten v clk
  else if o = 0x2088 then { c with smpbase := keepBits v 12 40 ||| keepBits v 0 5 }
  else if o = 0x2090 then { c with smphead := fld v 0 32 }
  else if o = 0x20A0 then { c with smpovf := v.toNat }
  else if 0x2200 ≤ o ∧ o < 0x2300 then { c with ev := evWrite c.ev (o - 0x2200) v }
  else c

/-! ## Die blocks -/

/-- The partition that owns die `d`. -/
def State.diePart (s : State) (d : Nat) : Nat :=
  ((List.range 8).find? fun p => (s.part p).valid && (s.part p).dies.testBit d).getD 0

/-- A register of a die block. -/
def State.dieRead (s : State) (d o : Nat) : Nat :=
  let x := s.die d
  if o = 0x0000 then s.diePart d * 4096 + d
  else if o = 0x0008 then bit x.spareDone * 8192
  else if 0x0100 ≤ o ∧ o < 0x0118 then (s.linkWord d ((o - 0x100) / 8)).toNat
  else if o = 0x1000 then x.group * 2 ^ 32 + x.cur * 65536 + x.cap
  else if o = 0x2008 then x.icSeq * 2 ^ 32 + bit x.icBusy
  else if 0x2100 ≤ o ∧ o < 0x2300 then evRead x.ev (o - 0x2100)
  else if o = 0x2800 then x.bbIdx
  else if 0x3000 ≤ o ∧ o < 0x4000 then (x.bb.getD ((o - 0x3000) / 16) 0).toNat / 2 ^ (8 * (o % 16)) % 2 ^ 64
  else 0

/-! ## Partitions -/

/-- Word `k` of a partition-table entry (R395). -/
def Part.tableWord (x : Part) (k : Nat) : Nat :=
  match k with
  | 0 => x.tagsize * 2 ^ 32 + x.scs * 65536 + x.dies * 256 + bit x.valid
  | 1 => x.rpmask.toNat
  | 6 => x.tagbase.toNat
  | 7 => x.ttbase.toNat
  | k => (x.ranges.getD (k - 2) 0).toNat

/-- A register of a partition block (R414, 18, 19 R441, 21 R479). -/
def Part.regRead (x : Part) (o : Nat) : Nat :=
  match o with
  | 0x00 => x.fqbase.toNat
  | 0x08 => x.fqsize.toNat
  | 0x10 => x.fqhead
  | 0x18 => x.fqtail
  | 0x20 => x.nqbase.toNat
  | 0x28 => x.nqsize.toNat
  | 0x30 => x.nqhead
  | 0x38 => x.nqtail
  | 0x40 => x.nqovf.toNat
  | 0x48 => x.vquota.toNat
  | 0x50 => x.vspbase.toNat
  | 0x58 => x.vspsize.toNat
  | 0x60 => x.xroot.toNat
  | 0x68 => x.xinvlo.toNat
  | 0x78 => x.xinvSeq * 2 ^ 32 + bit x.xinv.isSome
  | 0x88 => x.cntbase.toNat
  | 0x90 => x.cntwin.toNat
  | 0x98 => x.cntcfg.toNat
  | 0xA0 => x.wblim
  | 0xA8 => x.migsrc.toNat
  | 0xB0 => x.migdst.toNat
  | 0xC0 => x.migWord.toNat
  | 0xC8 => x.lgid.toNat
  | 0xD8 => bit x.priven
  | 0xE0 => x.retbase.toNat
  | 0xE8 => x.rethead
  | 0xF0 => x.rettail
  | 0xF8 => x.retovf
  | _ => 0

/-- A partition after a write to its block, for the registers that have no row of their own. -/
def Part.regWritten (x : Part) (o : Nat) (v : Word) : Part :=
  match o with
  | 0x00 => { x with fqbase := keepBits v 6 58 }
  | 0x08 => { x with fqsize := v }
  | 0x20 => { x with nqbase := keepBits v 5 59 }
  | 0x28 => { x with nqsize := v }
  | 0x30 => { x with nqhead := fld v 0 32 }
  | 0x40 => { x with nqovf := v }
  | 0x48 => { x with vquota := keepBits v 0 16 }
  | 0x50 => { x with vspbase := keepBits v 12 52 }
  | 0x58 => { x with vspsize := keepBits v 12 52 }
  | 0x60 => { x with xroot := keepBits v 63 1 ||| keepBits v 13 39 }
  | 0x68 => { x with xinvlo := keepBits v 13 40 }
  | 0x88 => { x with cntbase := keepBits v 12 40 }
  | 0x90 => { x with cntwin := keepBits v 32 12 ||| keepBits v 0 22 }
  | 0x98 => { x with cntcfg := keepBits v 0 16 }
  | 0xA0 => { x with wblim := fld v 0 32 }
  | 0xA8 => { x with migsrc := keepBits v 13 39 }
  | 0xB0 => { x with migdst := keepBits v 13 39 }
  | 0xC8 => { x with lgid := v }
  | 0xD8 => { x with priven := ebit v 0 }
  | 0xE0 => { x with retbase := keepBits v 12 40 ||| keepBits v 0 5 }
  | 0xE8 => { x with rethead := fld v 0 32 }
  | 0xF8 => { x with retovf := fld v 0 32 }
  | _ => x

/-- A register of an I/O block (20 R459). -/
def Part.ioRead (x : Part) (o : Nat) : Nat :=
  if o = 0x10 then bit x.slt.isSome else if o = 0x50 then 0 else (x.io.getD o 0).toNat

/-- A partition after a write to its I/O block. -/
def Part.ioWritten (x : Part) (o : Nat) (v : Word) : Part :=
  let put (v : Word) : Part := { x with io := x.io.put o v }
  match o with
  | 0x00 => put (keepBits v 5 59)
  | 0x08 => put v
  | 0x18 => put (keepBits v 12 52)
  | 0x20 => put (keepBits v 4 60)
  | 0x28 => put v
  | 0x30 => put (keepBits v 11 53)
  | 0x38 => put v
  | 0x40 => put (keepBits v 0 32)
  | 0x58 => put (keepBits v 7 57)
  | 0x60 => put v
  | 0x68 => put v
  | _ => x

/-! ## Launch queues (17 R399) -/

/-- A register of a launch queue. -/
def LQueue.regRead (x : LQueue) (o : Nat) : Nat :=
  match o with
  | 0x00 => x.depth * 2 ^ 24 + x.inuse * 65536 + x.prio * 256 + bit x.en
  | 0x10 => x.seq * 2 ^ 32 + x.code
  | 0x18 => x.f5
  | _ => 0

/-- A launch queue after a write. -/
def LQueue.regWritten (x : LQueue) (o : Nat) (v : Word) : LQueue :=
  match o with
  | 0x00 =>
    let keep := x.inuse ≠ 0 ∨ (fld v 24 8 = 0 ∧ ebit v 0)
    { x with depth := if keep then x.depth else fld v 24 8, prio := fld v 8 3, en := ebit v 0 }
  | 0x18 => { x with f5 := fld v 0 10 }
  | _ => x

/-! ## Fabric and root complex -/

/-- NWCTL of a window (19 R445). -/
def Window.ctlRead (w : Window) : Nat :=
  bit w.en * 2 ^ 63 + w.kind * 2 ^ 61 + w.part * 2 ^ 58 + w.peer * 2 ^ 48 + w.group * 2 ^ 40 + w.ty * 2 ^ 38 + w.size * 2 ^ 22 + w.base

/-- NPST of a port (19 R444). -/
def Port.st (x : Port) : Nat :=
  x.replays * 2 ^ 48 + x.crcerr * 2 ^ 32 + x.switch * 2 ^ 22 + x.lanes * 65536 + bit x.evt * 4 + bit x.down * 2 + bit x.up

/-- RPST of a logical root port (20 R455). -/
def RootPort.st (x : RootPort) : Nat :=
  x.width * 256 + x.speed * 32 + bit x.cxl * 16 + bit x.dpc * 8 + bit x.evt * 4 + bit x.flit * 2 + bit x.up

/-- A register of a logical root port; one that MODE does not provide reads zero. -/
def State.rpRead (s : State) (k o : Nat) : Nat :=
  if !s.rpExists k then 0
  else match o with
    | 0x00 => (s.rp k).cto * 2 ^ 32 + bit (s.rp k).en
    | 0x08 => (s.rp k).st
    | 0x10 => (s.rp k).pasid.toNat
    | _ => 0

/-- The scope table's word `i`: nibbles 12 to 14 read as 15 (19 R447). -/
def State.sctRead (s : State) (i : Nat) : Nat :=
  let w := (s.sct.getD i (BitVec.allOnes 64)).toNat
  ((List.range 16).map fun k => (if 12 ≤ w / 16 ^ k % 16 then 15 else w / 16 ^ k % 16) * 16 ^ k).foldl (· + ·) 0

/-- HBMST and HBMCFG of a stack (21 R474). -/
def Stack.regRead (x : Stack) (o : Nat) : Nat :=
  if o = 0 then x.alerts * 2 ^ 48 + x.temp * 2 ^ 32 + x.rmode else if o = 8 then x.mth else 0

/-! ## Reads -/

/-- A register of the service-die block. -/
def State.svcRead (s : State) (o : Nat) : Nat :=
  if o < 0x200 then (s.part (o / 64)).tableWord (o / 8 % 8)
  else if 0x1000 ≤ o ∧ o < 0x5000 then (s.queue ((o - 0x1000) / 0x800) ((o - 0x1000) / 0x20 % 64)).regRead (o % 0x20)
  else if 0x6000 ≤ o ∧ o < 0x6800 then (s.part ((o - 0x6000) / 0x100)).regRead (o % 0x100)
  else if 0x8000 ≤ o ∧ o < 0x8800 then
    let w := s.window ((o - 0x8000) / 0x20)
    match o % 0x20 with
    | 0x00 => w.ctlRead
    | 0x08 => w.xbase
    | 0x10 => w.lost * 2 ^ 32 + bit w.severed
    | _ => 0
  else if 0x9000 ≤ o ∧ o < 0x9400 then
    let x := s.port ((o - 0x9000) / 0x40)
    match o % 0x40 with
    | 0x00 => bit x.en
    | 0x08 => x.st
    | _ => 0
  else if o = 0x9400 then s.nlfto
  else if o = 0x9408 then bit s.sctLock
  else if 0xA000 ≤ o ∧ o < 0xA200 then s.sctRead ((o - 0xA000) / 8)
  else if 0xB000 ≤ o ∧ o < 0xB200 then (if o % 0x40 = 0 then s.rpMode.getD ((o - 0xB000) / 0x40) 0 else 0)
  else if 0xC000 ≤ o ∧ o < 0xC800 then s.rpRead ((o - 0xC000) / 0x40) (o % 0x40)
  else if 0xD000 ≤ o ∧ o < 0xD800 then (s.part ((o - 0xD000) / 0x100)).ioRead (o % 0x100)
  else if 0xE000 ≤ o ∧ o < 0xE400 then (s.stack ((o - 0xE000) / 0x40)).regRead (o % 0x40)
  else if o = 0xF000 then bit s.boot.memready * 4 + bit s.boot.warm * 2 + bit s.boot.recov
  else if o = 0xF100 then s.boot.fw * 32
  else 0

/-- What an aligned 8-byte load of the control register at a physical address returns; an unassigned offset reads as
zero, and so does a WO register. -/
def State.ctlRead (s : State) (pa : Nat) : Nat :=
  if svcBase ≤ pa then s.svcRead (pa - svcBase)
  else
    let d := (pa - crBase) / 0x1000000
    let o := (pa - crBase) % 0x1000000
    if o < 0x100000 then s.dieRead d o
    else if (o - 0x100000) / 0x10000 < 26 then s.coreRead d ((o - 0x100000) / 0x10000) (o % 0x10000)
    else 0

/-! ## Writes that have a row of their own -/

/-- Whether a write of `v` at offset `o` of the service-die block is a row of its own. -/
def svcOwnRow (o : Nat) (v : Word) : Bool :=
  if o < 0x200 then true
  else if 0x1000 ≤ o ∧ o < 0x5000 then decide (o % 0x20 = 8)
  else if 0x6000 ≤ o ∧ o < 0x6800 then
    match o % 0x100 with
    | 0x10 => true
    | 0x70 => decide (fld v 62 2 < 2)
    | 0x80 => decide (fld v 32 2 < 3)
    | 0xB8 => ebit v 63
    | 0xD0 => true
    | _ => false
  else if 0x8000 ≤ o ∧ o < 0x8800 then decide (o % 0x20 = 0)
  else if 0x9000 ≤ o ∧ o < 0x9400 then decide (o % 0x40 = 0) && ebit v 1
  else if 0xC000 ≤ o ∧ o < 0xC800 then
    match o % 0x40 with
    | 0x00 => ebit v 1
    | 0x18 => decide (fld v 40 4 = 0) || decide (fld v 40 4 = 1) || decide (fld v 40 4 = 15)
    | _ => false
  else if 0xD000 ≤ o ∧ o < 0xD800 then decide (o % 0x100 = 0x10) || decide (o % 0x100 = 0x50)
  else if o = 0xF008 then ebit v 0
  else if o = 0xF100 then ebit v 0 || ebit v 1
  else false

/-- Whether a write of `v` to the control register at a physical address is a row of its own. -/
def ownRow (pa : Nat) (v : Word) : Bool :=
  if svcBase ≤ pa then svcOwnRow (pa - svcBase) v
  else
    let o := (pa - crBase) % 0x1000000
    if o < 0x100000 then decide (o = 0x0008) || decide (o = 0x1000) || decide (o = 0x2000)
    else if 26 ≤ (o - 0x100000) / 0x10000 then false
    else match o % 0x10000 with
      | 0x0100 => decide (1 ≤ fld v 0 4) && decide (fld v 0 4 ≤ 6)
      | 0x2000 => decide (1 ≤ fld v 0 4) && decide (fld v 0 4 ≤ 3)
      | _ => false

/-! ## Writes without a row of their own -/

/-- A write at offset `o` of the service-die block by a service core of partition `p`. -/
def State.svcWrite (s : State) (p o : Nat) (v : Word) : State :=
  if 0x1000 ≤ o ∧ o < 0x5000 then
    let q := (o - 0x1000) / 0x20 % 64
    let x := (s.queue p q).regWritten (o % 0x20) v
    (s.setQueue p q x).activate p q
  else if 0x6000 ≤ o ∧ o < 0x6800 then
    let s := s.modPart p fun x => x.regWritten (o % 0x100) v
    if o % 0x100 = 0x08 then (s.flushFaults p).retryKills else s
  else if 0x8000 ≤ o ∧ o < 0x8800 then
    let k := (o - 0x8000) / 0x20
    let w := s.window k
    if p = 0 ∧ o % 0x20 = 8 ∧ !w.en then
      let w' := { w with xbase := fld v 12 40 * 4096 }
      { s with windows := s.windows.put k w' }
    else s
  else if 0x9000 ≤ o ∧ o < 0x9400 then
    let k := (o - 0x9000) / 0x40
    if p = 0 ∧ o % 0x40 = 0 then s.npctl k v
    else if p = 0 ∧ o % 0x40 = 8 then s.setPort k { s.port k with evt := (s.port k).evt && !ebit v 2 }
    else s
  else if o = 0x9400 then (if p = 0 ∧ 1 ≤ fld v 0 32 ∧ fld v 0 32 ≤ 1000 then { s with nlfto := fld v 0 32 } else s)
  else if o = 0x9408 then (if s.sctLock then s else { s with sctLock := ebit v 0 })
  else if 0xA000 ≤ o ∧ o < 0xA200 then (if s.sctLock then s else { s with sct := s.sct.put ((o - 0xA000) / 8) v })
  else if 0xB000 ≤ o ∧ o < 0xB200 then
    let k := (o - 0xB000) / 0x40
    if p = 0 ∧ o % 0x40 = 0 ∧ !((List.range 4).any fun j => (s.rp (4 * k + j)).en) then { s with rpMode := s.rpMode.put k (fld v 0 2) } else s
  else if 0xC000 ≤ o ∧ o < 0xC800 then
    let k := (o - 0xC000) / 0x40
    if !s.rpExists k then s
    else match o % 0x40 with
      | 0x00 => s.setRp k ((s.rp k).ctlWritten v)
      | 0x08 => s.setRp k { s.rp k with evt := (s.rp k).evt && !ebit v 2 }
      | 0x10 => s.setRp k { s.rp k with pasid := keepBits v 12 40 ||| keepBits v 0 5 }
      | _ => s
  else if 0xD000 ≤ o ∧ o < 0xD800 then s.modPart p fun x => x.ioWritten (o % 0x100) v
  else if 0xE000 ≤ o ∧ o < 0xE400 then
    let k := (o - 0xE000) / 0x40
    let m := fld v 0 16
    if p = 0 ∧ o % 0x40 = 8 ∧ 256 ≤ m ∧ m ≤ 16384 then
      let x := { s.stack k with mth := m }
      { s with hbms := s.hbms.put k x }
    else s
  else s

/-- A write to the control register at a physical address by a service core of partition `p`; RO registers and
unassigned offsets ignore it. -/
def State.ctlWrite (s : State) (p pa : Nat) (v : Word) : State :=
  if svcBase ≤ pa then s.svcWrite p (pa - svcBase) v
  else
    let d := (pa - crBase) / 0x1000000
    let o := (pa - crBase) % 0x1000000
    if o < 0x100000 then
      if 0x2100 ≤ o ∧ o < 0x2300 then s.setDie d { s.die d with ev := evWrite (s.die d).ev (o - 0x2100) v } else s
    else
      let k := (o - 0x100000) / 0x10000
      if k < 26 then s.setPcore d k ((s.pcore d k).written (o % 0x10000) v (s.clk d)) else s

/-- R393: the event CONTROL_REGISTER_WRITE: a write to a control register that has no row of its own. -/
def execControlRegisterWrite (s : State) : Out :=
  .next (match s.cur with
    | .event (.controlRegisterWrite by' addr v) =>
      if inCtl addr && decide (addr % 8 = 0) && !ownRow addr v then s.ctl by' addr fun p s => s.ctlWrite p addr v else s
    | _ => s)

/-! ## Spares (R398) -/

/-- R398: the event DSPARE_WRITE. The spare takes the logical core; the retired core keeps its numbers with EN = 0
(log entry 66). -/
def execDspareWrite (s : State) : Out :=
  .next (match s.cur with
    | .event (.dspareWrite by' d v) =>
      if d < 8 then
        s.ctl by' (dieBase d + 8) fun _ s =>
          let log := fld v 8 5
          let spare := fld v 0 5
          let s := if ebit v 13 then s.setDie d { s.die d with spareDone := false } else s
          match (List.range 26).find? fun p => (s.pcore d p).en && decide ((s.pcore d p).logical = log) with
          | none => s
          | some p =>
            if spare < 26 ∧ !(s.pcore d spare).en ∧ (s.residents d log []).isEmpty then
              let old := s.pcore d p
              let new := s.pcore d spare
              ((s.setPcore d p { old with en := false }).setPcore d spare { new with en := true, logical := log }).setDie d
                { s.die d with spareDone := true }
            else s
      else s
    | _ => s)

/-! ## The partition table (R395, R396) -/

/-- An entry after a write of one of its words; entry 0 always holds SC0. -/
def Part.tableWritten (x : Part) (entry k : Nat) (v : Word) : Part :=
  match k with
  | 0 => { x with valid := ebit v 0, dies := fld v 8 8, tagsize := fld v 32 8
                  scs := if entry = 0 ∧ !ebit v 16 then fld v 16 16 + 1 else fld v 16 16 }
  | 1 => { x with rpmask := keepBits v 0 32 }
  | 6 => { x with tagbase := keepBits v 30 34 }
  | 7 => { x with ttbase := keepBits v 12 52 }
  | k => { x with ranges := x.ranges.put (k - 2) (keepBits v 62 2 ||| keepBits v 32 22 ||| keepBits v 0 22) }

/-- Whether ranges of two entries overlap where not both are SHARED. -/
def rangeClash (a b : Word) : Bool :=
  ebit a 63 && ebit b 63 && !(ebit a 62 && ebit b 62) && decide (fld a 0 22 ≤ fld b 32 22) && decide (fld b 0 22 ≤ fld a 32 22)

/-- Whether two VALID entries may stand together (R396). -/
def Part.disjoint (x y : Part) : Bool :=
  !x.valid || !y.valid
    || (decide (x.dies &&& y.dies = 0) && decide (x.scs &&& y.scs = 0) && decide (x.rpmask &&& y.rpmask = 0)
      && (List.range 4).all fun i => (List.range 4).all fun j => !rangeClash (x.ranges.getD i 0) (y.ranges.getD j 0))

/-- Whether an entry may not be changed by service core `c`: a die of it holds a resident gang, or another service core
of it is running. -/
def State.entryBusy (s : State) (c : Nat) (x : Part) : Bool :=
  x.valid && (((List.range 8).any fun d => x.dies.testBit d && s.dieResident d)
    || (List.range 16).any fun n => x.scs.testBit n && decide (n ≠ c) && (s.sc n).running)

/-- The scratchpads of a die cleared: it belongs to another partition now (R396). -/
def State.clearDie (s : State) (d : Nat) : State :=
  { s with cores := s.cores.mapVal fun k c => if k / 32 = d then { c with relics := [] } else c }

/-- R396: the event PARTITION_TABLE_WRITE. -/
def execPartitionTableWrite (s : State) : Out :=
  .next (match s.cur with
    | .event (.partitionTableWrite by' entry word v) =>
      if entry < 8 ∧ word < 8 then
        s.ctl by' (svcBase + 64 * entry + 8 * word) fun p s =>
          let x := s.part entry
          let y := x.tableWritten entry word v
          let clash := (List.range 8).any fun e => decide (e ≠ entry) && !(s.part e).disjoint y
          if p ≠ 0 ∨ clash ∨ s.entryBusy by'.sc x ∨ s.entryBusy by'.sc y then s
          else
            let s' := s.setPart entry y
            (List.range 8).foldl (fun t d => if s'.diePart d ≠ s.diePart d then t.clearDie d else t) s'
      else s
    | _ => s)

end Sys2Proof.Machine
end

