-- ==== Sys2Proof/Machine/FibreEvents.lean ====
section
/-! DEFINITION. Events of fibres and of their launches (02 R38, R50, R51, 05 R122, 08 R204, 10 R246, R250, 12 R321,
17 R399, R414, 18 R422, R438). -/

namespace Sys2Proof.Machine

/-! ## Holds, results and answers -/

/-- R38: the event HOLD_TIMEOUT, 256 cycles after the fibre reached its target. -/
def execHoldTimeout (s : State) : Out :=
  .next (match s.cur with
    | .event (.holdTimeout f) =>
      match s.fibres.find? f with
      | none => s
      | some fb => match s.wgs.find? fb.wg, fb.heldAt with
        | some w, some t =>
          if fb.st = .held ∧ 256 ≤ since' (s.clkOf w) t ∧ (w.gangOf fb.num).isSome then
            (s.setFib f { fb with target := none, heldAt := none }).makeReady f
          else s
        | _, _ => s
    | _ => s)

/-- R204: the event PENDING_RESULT_WRITE. -/
def execPendingResultWrite (s : State) : Out :=
  .next (match s.cur with
    | .event (.pendingResultWrite f id) =>
      s.modFib f fun fb => if fb.pend.any fun p => decide (p.id = id) && p.st == .ready && decide (p.left = 0) then fb.settle id else fb
    | _ => s)

/-- R250: the event LAUNCH_ANSWER. -/
def execLaunchAnswer (s : State) : Out :=
  .next (match s.cur with
    | .event (.launchAnswer f) =>
      match s.fibres.find? f with
      | none => s
      | some fb => match fb.await with
        | .launch d code =>
          (s.setFib f ({ fb with await := .none, s := fb.s.put d (BitVec.ofNat 64 code) }.advance 8)).makeReady f
        | _ => s
    | _ => s)

/-- R321: the event WWAIT_TIMEOUT, once the deadline's cycle has passed, in which a completion goes first: the wait of a resident gang completes with TO, a swapped gang is recalled. -/
def execWwaitTimeout (s : State) : Out :=
  .next (match s.cur with
    | .event (.wwaitTimeout f) =>
      match s.fibres.find? f with
      | none => s
      | some fb => match fb.await, s.wgs.find? fb.wg with
        | .weir x, some w =>
          match x.deadline with
          | none => s
          | some t =>
            if s.clkOf w ≤ t ∨ fb.st ≠ .waiting then s
            else if (w.gangOf fb.num).isSome then s.finishWait f (w.weir x.weir).phase true
            else
              let i := w.gangIx fb.num
              if w.weirs.any fun y => y.wakes.any fun r => decide (r.gang = i) then
                (s.setWg fb.wg { w with weirs := w.weirs.map fun y => { y with wakes := y.wakes.filter fun r => decide (r.gang ≠ i) } }).recallGangs
                  fb.wg [i]
              else s
        | _, _ => s
    | _ => s)

/-! ## Upcalls and resumption (02 R50, R51, 10 R246, 18 R422) -/

/-- The pending upcalls of a saved fibre brought up to date in its record (17 R413). -/
def State.imageUpcalls (s : State) (f : Nat) (fb : Fibre) (w : Wg) (l : Launch) : State :=
  let i := w.gangIx fb.num
  if (w.gangOf fb.num).isSome then s
  else match (s.gangLive fb.wg w i).findIdx? fun x => decide (x.1 = f) with
    | none => s
    | some k =>
      let n := fb.upcalls.length
      let a := l.slotAt w.index + BitVec.ofNat 64 (l.kernel.sharedSize + i * l.gangMax + 64 + k * ((l.gangMax - 64) / 16))
      match fb.upcalls.getLast? with
      | none => s
      | some u => (s.saveBytes w.part 2 (a + 0x1E) (toLe n 1)).saveBytes w.part 2 (a + BitVec.ofNat 64 (0x3C8 + 16 * (n - 1)))
          (toLe u.code 8 ++ toLe u.arg.toNat 8)

/-- R51: the event UPCALL_POST: four wait at most, and a launch without a handler refuses; a refusal is notified. -/
def execUpcallPost (s : State) : Out :=
  .next (match s.cur with
    | .event (.upcallPost f code arg) =>
      match s.fibres.find? f with
      | none => s
      | some fb => match s.wgs.find? fb.wg with
        | none => s
        | some w => match s.launchOf w with
          | none => s
          | some l =>
            if fb.st = .ended ∨ 256 ≤ code then s
            else if l.field 0x60 8 = 0 ∨ 4 ≤ fb.upcalls.length then s.notify w.part 0x05 l.ident (BitVec.ofNat 64 code)
            else
              let fb := { fb with upcalls := fb.upcalls ++ [{ code := 0x100 + code, arg }] }
              (s.setFib f fb).imageUpcalls f fb w l
    | _ => s)

/-- A stopped fibre with all it stands in: its trap, its workgroup and its launch, where its record is written (R414). -/
def State.stoppedAt (s : State) (f : Nat) : Option (Fibre × TrapRec × Wg × Launch) :=
  match s.fibres.find? f with
  | none => none
  | some fb => match s.wgs.find? fb.wg, fb.stop with
    | some w, some (.trap t) =>
      if fb.st = .stopped ∧ !(s.part w.part).waitFibs.contains (.fibre f) ∧ (w.gangOf fb.num).isSome then
        (s.launchOf w).map fun l => (fb, t, w, l)
      else none
    | _, _ => none

/-- R50: the event UPCALL_REFLECT. It waits for the fibre's pending results (08 R205); a VERSIONED workgroup is flushed
instead (17 R412). While a handler runs, and in a launch without one, no upcall can be delivered. -/
def execUpcallReflect (s : State) : Out :=
  .next (match s.cur with
    | .event (.upcallReflect f) =>
      match s.stoppedAt f with
      | none => s
      | some (fb, t, w, l) =>
        if l.field 0x60 8 = 0 ∨ fb.handler then s
        else if l.flag 2 then s.flushTrapped fb.wg w l
        else match fb.unsettled with
          | some (.wait _) => s
          | some (.trap c i) => s.takeTrap f c i 0
          | none =>
            (s.setFib f { fb.deliver t.cause.code t.info t.upc (BitVec.ofNat 64 (l.field 0x60 8)) with stop := none }).makeReady f
    | _ => s)

/-- Length of the instruction at the trap of a fibre. -/
def State.trapLen (s : State) (w : Wg) (t : TrapRec) : Nat :=
  match s.codeAt w.part t.upc.toNat with
  | some x => if x.getLsbD 10 then 16 else 8
  | none => 8

/-- R422, 10 R246: the event TRAP_RESUME: at the same instruction after every trap but TRAPI, after a TRAP at the next
instruction, and after TRAP and HALT at a header, as a taken branch. -/
def execTrapResume (s : State) : Out :=
  .next (match s.cur with
    | .event (.trapResume f how) =>
      match s.stoppedAt f with
      | none => s
      | some (fb, t, w, l) =>
        let fb' := { fb with stop := none }
        match how with
        | .same => if t.cause = .trapi then s else (s.setFib f fb').makeReady f
        | .next =>
          if t.cause ≠ .trapi ∨ t.info = 0x100 then s
          else if l.flag 2 then s.flushTrapped fb.wg w l
          else (s.setFib f (fb'.advance (s.trapLen w t))).makeReady f
        | .header a =>
          if t.cause ≠ .trapi then s
          else if l.flag 2 then s.flushTrapped fb.wg w l
          else (s.setFib f ({ fb' with loops := popTo fb.loops a }.goto a)).makeReady f
    | _ => s)

/-! ## Handle arrivals (05 R122, R131) -/

/-- A count that comes to a handle of this chip in partition `p`: applied as the release `r`, or refused (R122); a DONE
count is applied on a weir with OVTRAP too (R125). -/
def State.handleCount (s : State) (p : Nat) (h : Word) (da : Nat) (e done : Bool) (r : Nat × Nat → Option Rel) : Option State :=
  match s.ofHandle p h with
  | none => none
  | some (id, i) => match s.wgs.find? id with
    | none => none
    | some g => if !done && (g.weir i).ovtrap && (g.weir i).excess da 0 then none else some (s.countWeir id i da 0 e (r (id, i)))

/-- R122: the event WARR_FAR_ARRIVAL: of a command of this chip, which completes once the target applies or refuses the
count; of another chip's count, which is answered; and of the answer to a DONE count sent to another chip (10 R251). -/
def execWarrFarArrival (s : State) : Out :=
  .next (match s.cur with
    | .event (.warrFarArrival (.own cmd refused)) =>
      match s.engCx cmd with
      | none => s
      | some e => match e.c.body with
        | .warrFar h da rel =>
          let bad (s : State) : State := s.completeCmd cmd (e.c.failing .engine (BitVec.ofNat 64 (Config.farAddr h.toNat)))
          if (h.extractLsb' 38 10).toNat ≠ s.chip then
            let s := s.send (.farArrival h da false false)
            if refused then bad s else s.completeCmd cmd e.c
          else match s.handleCount e.w.part h da false false fun _ => rel with
            | none => bad s
            | some s => s.completeCmd cmd e.c
        | _ => s
    | .event (.warrFarArrival (.peer chip p sc h da e done)) =>
      if chip = s.chip ∨ (h.extractLsb' 38 10).toNat ≠ s.chip then s
      else
        let rel (t : Nat × Nat) : Option Rel :=
          some { obj := .weir t.1 t.2, live := true, scope := sc, spot := s.spotOf (.chip chip), ids := s.covered [.chip chip] p (.weir t.1 t.2) }
        match s.handleCount p h da e done rel with
        | none => s.send (.farAnswer chip h true)
        | some s => s.send (.farAnswer chip h false)
    | .event (.warrFarArrival (.doneAnswer p h ident refused)) =>
      if 8 ≤ p ∨ !refused then s else s.notify p 0x01 h ident
    | _ => s)

/-! ## Registers of the executive that act on launches and rings -/

/-- R399: the event LQPOST_WRITE. It is a release: it waits for the service core's held
writes; and for the collection of accrue lines that hold the record. -/
def execLqpostWrite (s : State) : Out :=
  .next (match s.cur with
    | .event (.lqpostWrite by' p q va) =>
      if s.heldOf (fun g => decide (g = .service by'.sc)) ∨ 64 ≤ q ∨ 8 ≤ p then s
      else if va.toNat % 256 = 0 ∧ !(s.postAccrues p va).isEmpty then s.startCollect (s.postAccrues p va)
      else s.ctl by' (lqBase p q + 8) fun _ s =>
        let bad := s.setQueue p q { s.queue p q with code := 8 }
        if va.toNat % 256 ≠ 0 then bad
        else match s.readVa p va 256 with
          | .error _ => bad
          | .ok r => (s.post p q false r (s.covered [.service by'.sc] p (.call p))).1
    | _ => s)

/-- R414: the event FQHEAD_WRITE: waiting records enter the ring, and kills that waited take place. -/
def execFqheadWrite (s : State) : Out :=
  .next (match s.cur with
    | .event (.fqheadWrite by' p v) =>
      s.ctl by' (partBase p + 0x10) fun _ s =>
        ((s.modPart p fun x => { x with fqhead := v.toNat % 2 ^ 32 }).flushFaults p).retryKills
    | _ => s)

/-- R438: the event LGROW_WRITE. -/
def execLgrowWrite (s : State) : Out :=
  .next (match s.cur with
    | .event (.lgrowWrite by' p v) =>
      s.ctl by' (partBase p + 0xD0) fun _ s =>
        let n := v.toNat % 2 ^ 32
        { s with launches := s.launches.mapVal fun _ l =>
            if l.part = p ∧ l.ident = (s.part p).lgid ∧ n % 8 = 0 ∧ l.pcur < n ∧ l.flag 3 then { l with pcur := n } else l }
    | _ => s)

end Sys2Proof.Machine
end

