-- ==== Sys2Proof/Machine/Gather.lean ====
section
/-! DEFINITION. Meanings of major 0x21 (13 R341 to R343, 05 R145 to R147): GATHER and SCATTER, and their completion. -/

namespace Sys2Proof.Machine

/-! ## The shape of a command (R341) -/

/-- Scratchpad offset of row `k`. -/
def GsCmd.row (g : GsCmd) (k : Nat) : Nat := g.doff + k * g.dstr
/-- Global address of table row `i`. -/
def GsCmd.table (g : GsCmd) (i : Nat) : Word := g.tbase + BitVec.ofNat 64 (i * g.tstr)
/-- Bytes of the bitmap. -/
def GsCmd.mapBytes (g : GsCmd) : Nat := 32 * ceilDiv g.n 256
/-- The rows as regions: one where they touch each other, else one for each row. -/
def GsCmd.rowRegions (g : GsCmd) : List (Nat × Nat) :=
  if g.dstr = g.ebytes then [(g.doff, g.n * g.ebytes)] else (List.range g.n).map fun k => (g.row k, g.ebytes)
/-- The scoreboard ranges at issue (R147, R342). -/
def GsCmd.ranges (g : GsCmd) (scatter : Bool) : List Rng :=
  readRng g.ioff (4 * g.n) :: writeRng g.soff g.mapBytes :: g.rowRegions.map fun r => ⟨r.1, r.2, !scatter⟩
/-- The ranges once the list has been read (R342). -/
def GsCmd.later (g : GsCmd) (scatter : Bool) : List Rng := (g.ranges scatter).drop 1

/-! ## Issue -/

/-- The command that a block describes. -/
def Cx.gsOf (c : Cx) (a : BitVec 6) : GsCmd :=
  let b := c.blk a
  { tbase := b 0, rows := hiHalf (b 1), ebytes := loHalf (b 1), dstr := hiHalf (b 2), doff := loHalf (b 2)
    n := hiHalf (b 3), ioff := loHalf (b 3), tstr := (b 4).toNat, soff := loHalf (b 5), list := none, fails := [], done := false }

/-- The descriptor limits of GATHER and SCATTER (order 2 of R330). -/
def Cx.gsLimits (c : Cx) (r : BitVec 6) (g : GsCmd) : List Check :=
  let a := r.toNat
  [limit (decide (g.tbase.toNat % 4 ≠ 0)) a,
   limit (decide (0xFFFFFFFE < g.rows) || decide (g.ebytes < 4) || decide (65536 < g.ebytes)) (a + 1),
   limit (decide (g.dstr < g.ebytes)) (a + 2),
   limit (decide (g.n < 1) || decide (65536 < g.n)) (a + 3),
   limit (decide (g.tstr % 4 ≠ 0) || decide (g.tstr < g.ebytes)) (a + 4),
   limit (decide (hiHalf (c.blk r 5) ≠ 0)) (a + 5)]

/-- The later checks of R330 on GATHER and SCATTER. -/
def Cx.gsChecks (c : Cx) (g : GsCmd) : List Check :=
  let rows := (g.doff, (g.n - 1) * g.dstr + g.ebytes)
  [aligned g.ebytes 4, aligned g.dstr 4, aligned g.doff 4, aligned g.ioff 4, aligned g.soff 32,
   inSpad c.spadsz rows.1 rows.2, inSpad c.spadsz g.ioff (4 * g.n), inSpad c.spadsz g.soff g.mapBytes,
   apart g.ioff (4 * g.n) g.soff g.mapBytes]
    ++ g.rowRegions.map (fun x => apart x.1 x.2 g.ioff (4 * g.n))
    ++ g.rowRegions.map (fun x => apart x.1 x.2 g.soff g.mapBytes)
    ++ [canonCheck g.tbase]
    ++ (if g.rows = 0 then [] else [canonCheck (g.table (g.rows - 1) + BitVec.ofNat 64 (g.ebytes - 1))])

/-- The issue of GATHER or SCATTER. -/
def Cx.gs (c : Cx) (o : SaOp) (scatter : Bool) : Res :=
  let g := c.gsOf o.a
  c.checked (c.gsLimits o.a g) <| c.checked (c.gsChecks g) <|
    if c.acquiring then c.wait .interlock
    else .ok (c.command c.s .ocg (g.ranges scatter) (if scatter then .scatter g else .gather g) none 0)

/-- R341 to R343: GATHER. -/
def execGather (o : SaOp) (s : State) : Out := issue s [block o.a 6] fun c => c.gs o false

/-- R341 to R343: SCATTER. -/
def execScatter (o : SaOp) (s : State) : Out := issue s [block o.a 6] fun c => c.gs o true

/-! ## Running (R342, R343) -/

/-- The index list as it stands in the scratchpad. -/
def Wg.gsList (w : Wg) (g : GsCmd) : List Nat := (List.range g.n).map fun k => w.spad.read (g.ioff + 4 * k) 4

/-- The bitmap of R145: bit k is set where entry k is out of range. -/
def GsCmd.bitmap (g : GsCmd) (l : List Nat) : List Byte :=
  let out (k : Nat) : Bool := match l[k]? with
    | some i => decide (g.rows ≤ i) && decide (i ≠ 0xFFFFFFFF)
    | none => false
  (List.range g.mapBytes).map fun j => BitVec.ofNat 8 (((List.range 8).map fun b => if out (8 * j + b) then 2 ^ b else 0).foldl (· + ·) 0)

/-- What the rows of a command have come to so far: the state, the rows to write in the scratchpad, the lines counted,
and the first row that failed. -/
structure GsAcc where
  s    : State
  rows : List (Nat × List Byte)
  seen : List Nat
  err  : Option (Cause × Word)

/-- A row that failed. -/
def GsAcc.fail (x : GsAcc) (s : State) (c : Cause) (va : Word) : GsAcc := { x with s, err := x.err <|> some (c, va) }

/-- The number under which piece `j` of row `k` is known to the executive and to write-block. -/
def gsPiece (k j : Nat) : Nat := k * 4096 + j

/-- What the sectors of one row have come to: the bytes read so far in order, and the cause of the first that failed. -/
structure GsRow where
  s    : State
  l    : List Byte
  seen : List Nat
  err  : Option Cause

/-- A sector of a row that failed; the others go on (R339). -/
def GsRow.fail (r : GsRow) (s : State) (c : Cause) : GsRow := { r with s, err := r.err <|> some c }

/-- The sectors of row `k` at `va` (04 R84): on, or the state in which the command waits (`s0` is the state before any
row). -/
def gsSectors (s0 : State) (e : EngCx) (g : GsCmd) (k : Nat) (va : Word)
    (access : State → List Nat → Nat → Nat → Nat → EngOut) : Nat → List (Nat × Nat) → GsRow → Except State GsRow
  | _, [], r => .ok r
  | j, p :: l, r =>
    match g.fails.find? fun x => decide (x.1 = gsPiece k j) with
    | some x => gsSectors s0 e g k va access (j + 1) l (r.fail r.s x.2)
    | none => match access r.s r.seen (gsPiece k j) p.1 p.2 with
      | .done s b seen => gsSectors s0 e g k va access (j + 1) l { r with s, l := r.l ++ b, seen }
      | .fail s c _ => gsSectors s0 e g k va access (j + 1) l (r.fail s c)
      | .fault c a => .error (if s0.tokened e.w.part e.cmd (gsPiece k j) then s0 else s0.postToken e.w.part e.cmd (gsPiece k j) e.c c a)
      | .wait _ => .error (match access s0 r.seen (gsPiece k j) p.1 p.2 with
        | .wait s => s
        | _ => s0)

/-- Row `k` of a gather for entry `i`: written once every sector has been read (R343). -/
def GsAcc.gatherRow (x : GsAcc) (s0 : State) (e : EngCx) (g : GsCmd) (k i : Nat) : Except State GsAcc :=
  if i = 0xFFFFFFFF then .ok x
  else if g.rows ≤ i then .ok { x with rows := (g.row k, List.replicate g.ebytes 0) :: x.rows }
  else
    let va := g.table i
    match gsSectors s0 e g k va (fun s seen _ o n => s.engRead e seen (va + BitVec.ofNat 64 o) n) 0
        (sectorPieces va.toNat g.ebytes) ⟨x.s, [], x.seen, none⟩ with
    | .error s => .error s
    | .ok r => .ok (match r.err with
      | some c => { x with seen := r.seen }.fail r.s c va
      | none => { x with s := r.s, rows := (g.row k, r.l) :: x.rows, seen := r.seen })

/-- Row `k` of a scatter for entry `i`: a sector that fails leaves its bytes unwritten (R339). -/
def GsAcc.scatterRow (x : GsAcc) (s0 : State) (e : EngCx) (g : GsCmd) (k i : Nat) : Except State GsAcc :=
  if g.rows ≤ i then .ok x
  else if e.w.landing (g.row k) g.ebytes then .error s0
  else
    let va := g.table i
    match e.w.failedAt (g.row k) g.ebytes with
    | some c => .ok (x.fail x.s c va)
    | none =>
      match gsSectors s0 e g k va
          (fun s seen j o n => s.engWrite e j seen (va + BitVec.ofNat 64 o) (e.w.spad.bytes (g.row k + o) n)) 0
          (sectorPieces va.toNat g.ebytes) ⟨x.s, [], x.seen, none⟩ with
      | .error s => .error s
      | .ok r => .ok (match r.err with
        | some c => { x with seen := r.seen }.fail r.s c va
        | none => { x with s := r.s, seen := r.seen })

/-- The rows in ascending `k` (R146). -/
def gsRows (row : GsAcc → Nat → Nat → Except State GsAcc) : Nat → List Nat → GsAcc → Except State GsAcc
  | _, [], x => .ok x
  | k, i :: l, x => match row x k i with
    | .ok x => gsRows row (k + 1) l x
    | .error s => .error s

/-- The scratchpad after the rows and the bitmap are written. -/
def Wg.gsWrite (w : Wg) (rows : List (Nat × List Byte)) : Wg :=
  (rows.foldl (fun w r => { w with spad := w.spad.putBytes r.1 r.2 }) w).heal (rows.map fun r => (r.1, r.2.length))

/-- The body of a gather or scatter. -/
def gsBody (scatter : Bool) (g : GsCmd) : CmdBody := if scatter then .scatter g else .gather g

/-- A command whose work is done: it completes unless a write of it is still held (R187). -/
def State.gsEnd (s : State) (cmd : Nat) (scatter : Bool) (g : GsCmd) : State :=
  if s.engHeld cmd then s.modCmd cmd fun c => { c with body := gsBody scatter { g with done := true } }
  else match s.cmds.find? cmd with
    | some c => s.completeCmd cmd c
    | none => s

/-- The rows of a command whose list has been read, then its bitmap and completion. -/
def State.gsRun (s : State) (e : EngCx) (scatter : Bool) (g : GsCmd) (l : List Nat) : State :=
  match gsRows (fun x k i => if scatter then x.scatterRow s e g k i else x.gatherRow s e g k i) 0 l ⟨s, [], [], none⟩ with
  | .error s => s
  | .ok x =>
    let s := x.s.modWg e.c.wg fun w => w.gsWrite (x.rows.reverse ++ [(g.soff, g.bitmap l)])
    let s := match x.err with
      | some (c, a) => s.modCmd e.cmd fun y => y.failing c a
      | none => s
    s.gsEnd e.cmd scatter g

/-- The work of a command at its event: the list once it is PRESENT, then the rows. -/
def State.gsWork (s : State) (e : EngCx) (scatter : Bool) (g : GsCmd) : State :=
  if g.done then s.gsEnd e.cmd scatter g
  else match g.list with
    | some l => s.gsRun e scatter g l
    | none =>
      if s.behind e.cmd e.c.wg e.c.rngs || e.w.landing g.ioff (4 * g.n) then s
      else match (sectorsOf g.ioff (4 * g.n)).find? fun k => (e.w.failedAt (32 * k) 32).isSome with
        | some k => s.completeCmd e.cmd (e.c.failing ((e.w.failedAt (32 * k) 32).getD .engine) (BitVec.ofNat 64 (32 * k)))
        | none =>
          let l := e.w.gsList g
          let g := { g with list := some l }
          let c := { e.c with rngs := g.later scatter, body := gsBody scatter g }
          (s.setCmd e.cmd c).gsRun { e with c } scatter g l

/-- R342, R343: a gather completes. -/
def execGatherComplete (s : State) : Out :=
  match s.cur with
  | .event (.gatherComplete cmd) =>
    match s.engCx cmd with
    | some e => match e.c.body with
      | .gather g => .next (s.gsWork e false g)
      | _ => .next s
    | none => .next s
  | _ => .next s

/-- R342, R343: a scatter completes. -/
def execScatterComplete (s : State) : Out :=
  match s.cur with
  | .event (.scatterComplete cmd) =>
    match s.engCx cmd with
    | some e => match e.c.body with
      | .scatter g => .next (s.gsWork e true g)
      | _ => .next s
    | none => .next s
  | _ => .next s

end Sys2Proof.Machine
end

