-- ==== Sys2Proof/Machine/Levee.lean ====
section
/-! DEFINITION. Meanings of the levee instructions of service cores (16 R389 to R392). -/

namespace Sys2Proof.Machine

/-- The step of a service core on a levee instruction. A step that no service core takes changes nothing. -/
def levee (s : State) (g : Nat → Sc → State) : Out :=
  match s.cur with
  | .service n => .next (g n (s.sc n))
  | _ => .next s

/-- A derivation (R390): rs1 untagged is not checked; a failing check takes the levee fault with its code; else rd is
written. -/
def derive (s : State) (o : Lv3Op) (check : Levee → Levee → Option Nat) (val : Levee → Levee → Levee) : Out :=
  levee s fun n x =>
    let a := x.reg o.s
    let b := x.reg o.t
    match (if a.tag then check a b else none) with
    | some k => s.scTrap n 28 (BitVec.ofNat 64 a.cur) (some k)
    | none => s.scNext n o.d (val a b) 4

/-- rs1 locked: 2. -/
def lockedCheck (a _ : Levee) : Option Nat := if a.lock ≠ 0 then some 2 else none

/-- A levee with a field changed. -/
def Levee.withRights (c : Levee) (r : Nat) : Levee := Levee.make c.tag r c.lock c.gr c.back c.len c.cur
def Levee.withLock (c : Levee) (k : Nat) : Levee := Levee.make c.tag c.rights k c.gr c.back c.len c.cur

/-- LV.MOVE. -/
def execLvMove (o : Lv3Op) (s : State) : Out := derive s o lockedCheck fun a b => a.move b.cur

/-- LV.STEP. -/
def execLvStep (o : Lv3Op) (s : State) : Out := derive s o lockedCheck fun a b => a.move ((a.cur + b.cur) % 2 ^ 64)

/-- LV.DROP. -/
def execLvDrop (o : Lv3Op) (s : State) : Out :=
  derive s o lockedCheck fun a b => a.withRights (a.rights - (a.rights &&& (b.cur % 256)))

/-- The checks of LV.NARROW: rs1 locked, or a new span not within the old one. -/
def narrowCheck (a b : Levee) : Option Nat :=
  if a.lock ≠ 0 then some 2
  else
    let (r, hi) := a.narrowed b.cur
    if 2 ^ 64 < hi ∨ r.base < a.base ∨ a.top < r.top then some 7 else none

/-- LV.NARROW. -/
def execLvNarrow (o : Lv3Op) (s : State) : Out := derive s o narrowCheck fun a b => (a.narrowed b.cur).1

/-- LV.NARROWX: untagged if the rounding moved an end of the requested range. -/
def execLvNarrowx (o : Lv3Op) (s : State) : Out :=
  derive s o narrowCheck fun a b =>
    let (r, hi) := a.narrowed b.cur
    if r.base = (a.cur : Int) ∧ r.top = (hi : Int) then r else { r with tag := false }

/-- Whether a key does not serve for lock number `k`: untagged, locked, without KEY, or `k` outside its span. -/
def keyBad (b : Levee) (k : Nat) : Bool :=
  !b.tag || decide (b.lock ≠ 0) || !b.has rKEY || decide ((k : Int) < b.base) || decide (b.top ≤ (k : Int))

/-- LV.LOCK. -/
def execLvLock (o : Lv3Op) (s : State) : Out :=
  derive s o (fun a b =>
    if a.lock ≠ 0 then some 2 else if keyBad b b.cur || decide (b.cur < 1) || decide (4095 < b.cur) then some 8 else none)
    fun a b => a.withLock (b.cur % 4096)

/-- LV.OPEN. -/
def execLvOpen (o : Lv3Op) (s : State) : Out :=
  derive s o (fun a b => if a.lock = 0 ∨ keyBad b b.cur ∨ b.cur ≠ a.lock then some 8 else none) fun a _ => a.withLock 0

/-- The integer of LV.INFO (R390); the base of a malformed levee, which is untagged, is taken modulo 2^64. -/
def Levee.info (c : Levee) (sel : Nat) : Word :=
  match sel with
  | 0 => BitVec.ofNat 64 (bit c.tag)
  | 1 => BitVec.ofInt 64 c.base
  | 2 => BitVec.ofInt 64 (min (c.top - c.base) (2 ^ 64 - 1))
  | 3 => BitVec.ofNat 64 c.rights
  | 4 => BitVec.ofNat 64 c.lock
  | _ => BitVec.ofNat 64 c.gr

/-- LV.INFO. -/
def execLvInfo (o : LvInfoOp) (s : State) : Out :=
  levee s fun n x => s.scNext n o.d (.int ((x.reg o.s).info o.sel.toNat)) 4

/-- LV.UNTAG. -/
def execLvUntag (o : Lv2Op) (s : State) : Out :=
  levee s fun n x => s.scNext n o.d { x.reg o.s with tag := false } 4

/-- LV.SAME. -/
def execLvSame (o : Lv3Op) (s : State) : Out :=
  levee s fun n x => s.scNext n o.d (.int (if x.reg o.s = x.reg o.t then 1 else 0)) 4

/-! ## LV.LD and LV.ST (R391, R392) -/

/-- Whether a granule lies in the tagged range of a partition. -/
def State.inTagged (s : State) (p pa : Nat) : Bool :=
  let x := s.part p
  decide (x.tagbase.toNat ≤ pa) && decide (pa < x.tagbase.toNat + x.tagsize * 2 ^ 30)

/-- Whether the tag of the granule at a physical address is 1. -/
def State.tagAt (s : State) (p pa : Nat) : Bool := s.inTagged p pa && s.tags.contains (pa / 16)

/-- A tag set, in rising order. -/
def insertTag : List Nat → Nat → List Nat
  | [], g => [g]
  | h :: l, g => if g < h then g :: h :: l else if g = h then h :: l else h :: insertTag l g

/-- The address of an LV.LD or LV.ST. -/
def lvAddr (lv : Levee) (imm : BitVec 12) : Word := BitVec.ofNat 64 lv.cur + imm.signExtend 64

/-- The checks of R388 in order, with the alignment of code 5. -/
def State.lvCheck (s : State) (n : Nat) (lv : Levee) (need : Nat) (a : Word) : Option Nat :=
  match s.leveeCheck n lv need a 16 with
  | some k => some k
  | none => if a.toNat % 16 ≠ 0 then some 5 else none

/-- LV.LD: a granule and its tag. -/
def execLvLd (o : LvLdOp) (s : State) : Out :=
  levee s fun n x =>
    let lv := x.reg o.s
    let a := lvAddr lv o.imm
    match s.lvCheck n lv rRD a with
    | some k => s.scTrap n 28 a (some k)
    | none =>
      match s.scAddr n lv .load a 16 with
      | .mem pa _ =>
        let tag := lv.has rLVR && s.tagAt ((s.scPart n).getD 0) pa
        match s.scRead n lv .load true a 16 with
        | .stop s => s
        | .done s l => s.scNext n o.d ⟨BitVec.ofNat 128 (leNat l), tag⟩ 4
      | e => s.scRefused n .load a e

/-- LV.ST: a granule, and its tag where rs2 is tagged; a NARROW page that rounds its words keeps no tag, since a tagged
value is always the bytes of one LV.ST. -/
def execLvSt (o : LvStOp) (s : State) : Out :=
  levee s fun n x =>
    let lv := x.reg o.s
    let v := x.reg o.t
    let a := lvAddr lv o.imm
    match s.lvCheck n lv (if v.tag then rWR + rLVW else rWR) a with
    | some k => s.scTrap n 28 a (some k)
    | none =>
      match s.scAddr n lv .store a 16 with
      | .mem pa _ =>
        if v.tag && !s.inTagged ((s.scPart n).getD 0) pa then s.scTrap n 28 a (some 6)
        else if v.tag && (s.lines.any fun l => l.2.locked && decide (l.1 ≤ pa) && decide (pa < l.1 + l.2.grain)) then s
        else match s.scWrite n lv false false a (toLe v.val.toNat 16) with
          | .stop s => s
          | .done s _ =>
            (if v.tag && decide (s.mem.bytes pa 16 = toLe v.val.toNat 16) then { s with tags := insertTag s.tags (pa / 16) } else s).setSc n ((s.sc n).step 4)
      | e => s.scRefused n .store a e

end Sys2Proof.Machine
end

