-- ==== Sys2Proof/Machine/LockEvents.lean ====
section
/-! DEFINITION. Events of turnout locks (07 R184 to R193, 17 R416, 21 R472, 23 R496). -/

namespace Sys2Proof.Machine

/-- Whether a message is that of a fibre's slot, of the given kind. -/
def LockMsg.isOf (m : LockMsg) (grant : Bool) (f slot : Nat) : Bool :=
  decide (m.grant = grant) && decide (m.fib = f) && decide (m.slot = slot)

/-- R185: the event LOCK_REQUEST_ARRIVAL: an accrue line is collected and copies behind Nalron ports are invalidated
before the request is queued (R175). -/
def execLockRequestArrival (s : State) : Out :=
  .next (match s.cur with
    | .event (.lockRequestArrival a f slot) =>
      match List.find? (fun m : LockMsg => m.isOf false f slot && decide (m.line = a)) s.lockMsgs with
      | none => s
      | some m => match s.gate a m.grain true with
        | .wait s => s
        | .pass => s.lockArrives m
    | _ => s)

/-- R472: the event TURNOUT_ENTRY_TAKEN: the first request that waits for the channel's table takes a free entry. -/
def execTurnoutEntryTaken (s : State) : Out :=
  .next (match s.cur with
    | .event (.turnoutEntryTaken a f slot) =>
      match List.find? (fun m : LockMsg => decide (chanOf m.line = chanOf a)) s.tableWait with
      | none => s
      | some m =>
        if m.line = a ∧ m.isOf false f slot ∧ s.tableRoom a then
          match s.gate a m.grain true with
          | .wait s => s
          | .pass => { s with tableWait := s.tableWait.erase m }.takeEntry m
        else s
    | _ => s)

/-- R186: the event LOCK_GRANT_ARRIVAL, once every copy of the line is invalidated. -/
def execLockGrantArrival (s : State) : Out :=
  .next (match s.cur with
    | .event (.lockGrantArrival f slot) =>
      match List.find? (fun m : LockMsg => m.isOf true f slot) s.lockMsgs with
      | none => s
      | some m => if (s.line m.line 32).acks ≠ 0 then s else s.arriveGrant m
    | _ => s)

/-- CLK of the core of a fibre. -/
def State.clkFor (s : State) (f : Nat) : Nat :=
  match s.fibres.find? f with
  | none => 0
  | some fb => match s.wgs.find? fb.wg with
    | none => 0
    | some w => s.clkOf w

/-- The queued request of a fibre's slot at a line. -/
def State.queuedAt (s : State) (a f slot : Nat) : Option LockReq :=
  List.find? (fun r : LockReq => decide (r.fib = f) && decide (r.slot = slot)) (s.line a 32).queue

/-- R191: the event LOCK_TIMEOUT; the core of a fibre of another chip counts its own cycles. -/
def execLockTimeout (s : State) : Out :=
  .next (match s.cur with
    | .event (.lockTimeout a f slot) =>
      match s.queuedAt a f slot with
      | none => s
      | some r => match r.limit with
        | none => s
        | some t => if t ≤ since' (s.clkFor f) r.since ∨ (s.guests.find? f).isSome then s.failRequest a f slot .timeout else s
    | _ => s)

/-! ## The deadlock probe (R193) -/

/-- The queued requests of a fibre with their lines, slot by slot. -/
def State.queuedOf (s : State) (f : Nat) : List (Nat × LockReq) :=
  match s.fibres.find? f with
  | none => []
  | some fb => (List.range 4).filterMap fun i => (s.queuedAt (fb.slot i).line f i).map fun r => ((fb.slot i).line, r)

/-- The requests of a cycle back to the request `seq`, within `k` edges from request `q`, in probe order. -/
def State.cycleFrom (s : State) (seq : Nat) : Nat → Nat × LockReq → Option (List (Nat × LockReq))
  | 0, _ => none
  | k + 1, q =>
    match (s.line q.1 32).holder with
    | none => none
    | some h =>
      let l := s.queuedOf h
      if l.any fun x => decide (x.2.seq = seq) then some [q]
      else l.findSome? fun x => (s.cycleFrom seq k x).map fun r => q :: r

/-- The request of a cycle that arrived at its home last. -/
def youngest (l : List (Nat × LockReq)) : Option (Nat × LockReq) :=
  l.foldl (fun b x => match b with
    | none => some x
    | some y => if y.2.seq < x.2.seq then some x else b) none

/-- B of notification 0x02 for a failed fibre, without the mark of the last record (17 R416). -/
def State.deadlockArg (s : State) (f : Nat) : Nat × Nat × Nat :=
  match s.fibres.find? f with
  | none => (0, 0, 0)
  | some fb => match s.wgs.find? fb.wg with
    | none => (0, 0, 0)
    | some w =>
      (w.part * 2 ^ 48 + w.die * 2 ^ 40 + w.core * 2 ^ 32 + (w.gangOf fb.num).getD 0 * 2 ^ 24 + w.slot fb.num * 2 ^ 16,
        w.part, w.die)

/-- The reports of a deadlock: notifications 0x02 to the failed fibre's partition and records 0x01 and 0x02 in its
die's black box (log entry 62). -/
def State.reportDeadlock (s : State) (lines : List Nat) (f : Nat) : State :=
  let (b, p, d) := s.deadlockArg f
  let n := lines.length
  let s := (List.range n).foldl (fun s i =>
    let a := lines.getD i 0
    (s.notify p 0x02 (BitVec.ofNat 64 a) (BitVec.ofNat 64 (b + bit (decide (i + 1 = n)) * 2 ^ 56))).blackBox d 0x01 false a) s
  s.blackBox d 0x02 true b

/-- R193: the event DEADLOCK_PROBE. -/
def execDeadlockProbe (s : State) : Out :=
  .next (match s.cur with
    | .event (.deadlockProbe a f slot) =>
      match s.queuedAt a f slot with
      | none => s
      | some r =>
        if since' (s.clkFor f) r.since < 65536 * (r.probes + 1) then s
        else
          let l := s.line a 32
          let s := s.setLine a { l with queue := l.queue.map fun x => if x.seq = r.seq then { x with probes := x.probes + 1 } else x }
          match s.cycleFrom r.seq 16 (a, r) with
          | none => s
          | some c => match youngest c with
            | none => s
            | some y => (s.failRequest y.1 y.2.fib y.2.slot .deadlock).reportDeadlock (c.map (·.1)) y.2.fib
    | _ => s)

/-! ## Cancellation (R192) -/

/-- A slot's request removed before its grant: from its way to the home, the wait for a table entry, or the queue. -/
def State.cancelled (s : State) (f slot : Nat) (x : LockSlot) : State :=
  let s := { s with lockMsgs := s.lockMsgs.filter fun m => !m.isOf false f slot
                    tableWait := s.tableWait.filter fun m => !m.isOf false f slot }
  let s := if (s.queuedAt x.line f slot).isSome then s.setLine x.line ((s.line x.line 32).without f slot) else s
  s.modFib f fun fb => fb.modSlot slot fun x => { x with state := .done, status := .cancelled }

/-- The home's answer for slot `slot`: the state and the result. -/
def State.cancelAnswer (s : State) (f slot : Nat) (x : LockSlot) : State × Nat :=
  match x.state with
  | .queued =>
    match List.find? (fun m : LockMsg => m.isOf true f slot) s.lockMsgs with
    | some m => (s.arriveGrant m, 1)
    | none => (s.cancelled f slot x, 0)
  | .granted => (s, 1)
  | .held => (s, 1)
  | .done => (s, 2)
  | .empty => (s, 2)

/-- R192: the event LCKCAN_ANSWER. -/
def execLckcanAnswer (s : State) : Out :=
  .next (match s.cur with
    | .event (.lckcanAnswer f) =>
      match s.fibres.find? f with
      | none => s
      | some fb => match fb.await with
        | .lckcan d look slot =>
          if (s.lockMsgs.any fun m => m.isOf true f slot) && decide ((s.line (fb.slot slot).line 32).acks ≠ 0) then s
          else
          let (s, n) := s.cancelAnswer f slot (fb.slot slot)
          ((s.modFib f fun fb => { fb with await := .none }.advance 8).writeBack f look [(.s d, .s (BitVec.ofNat 64 n))]).makeReady f
        | _ => s
    | _ => s)

end Sys2Proof.Machine
end

