-- ==== Sys2Proof/Machine/Restore.lean ====
section
/-! DEFINITION. Restoring gangs and workgroups (17 R411): what the save slot holds is read back (R413), and the order in
which recalled gangs return to their cluster (R405). -/

namespace Sys2Proof.Machine

/-! ## Reading the save slot (R413) -/

/-- Entries 0 to n − 1 of a table set to the values read; an entry that holds its value stays as it is. -/
def reloadTbl [DecidableEq α] (t : Tbl α) (d : α) (n : Nat) (get : Nat → α) : Tbl α :=
  (List.range n).foldl (fun t i => if t.getD i d = get i then t else t.put i (get i)) t

/-- The V registers of a fibre record from the shape codes and the bytes that hold their values. -/
def readShapes (width : Nat) : List (Nat × Nat) → List Byte → Tbl VVal
  | [], _ => []
  | (r, c) :: t, b =>
    let lane (i : Nat) : Lane := BitVec.ofNat 32 (fieldLe b (4 * i) 4)
    if c = 1 then (r, .uni (lane 0)) :: readShapes width t (b.drop 4)
    else if c = 2 then (r, .aff (lane 0) (lane 1)) :: readShapes width t (b.drop 8)
    else if c = 3 then (r, .gen (tabulate width lane)) :: readShapes width t (b.drop (4 * width))
    else readShapes width t b

/-- Loop-stack entries of a fibre record. -/
def readLoops (b : List Byte) : List LoopEntry :=
  tabulate (min 4 (fieldLe b 0x18 4 / 256 % 8)) fun i =>
    { start := BitVec.ofNat 64 (fieldLe b (0x20 + 24 * i) 8), last := BitVec.ofNat 64 (fieldLe b (0x28 + 24 * i) 8)
      rem := fieldLe b (0x30 + 24 * i) 8 }

/-- Pending upcalls of a fibre record. -/
def readUpcalls (b : List Byte) : List Posted :=
  tabulate (min 4 (fieldLe b 0x1E 1 % 8)) fun i =>
    { code := fieldLe b (0x3C8 + 16 * i) 8, arg := BitVec.ofNat 64 (fieldLe b (0x3D0 + 16 * i) 8) }

/-- A fibre with the values of its record `b`. What the device alone keeps up while the fibre is saved stays as it is: its
state and what it waits for, its parent, its lock slots, its unreported errors and its lookahead counts. A changed
program counter names a header. DEDUCED, log 46. -/
def Fibre.reload (fb : Fibre) (w nt : Nat) (b : List Byte) : Fibre :=
  let word (o : Nat) : Word := BitVec.ofNat 64 (fieldLe b o 8)
  let q := fieldLe b 0x18 8
  let shapes := tabulate 256 fun r => (r, fieldLe b (0x4B8 + r / 4) 1 / 4 ^ (r % 4) % 4)
  { fb with
    pc := word 0, blkEnd := if word 0 = fb.pc then fb.blkEnd else word 0
    heldAt := fb.heldAt.map fun _ => 256 - min 256 (fieldLe b 8 8 / 2 ^ 16 % 512)
    target := if word 0x10 = 1 then none else some (word 0x10)
    n := q.testBit 3, z := q.testBit 2, c := q.testBit 1, o := q.testBit 0, ftz := q.testBit 4
    batch := if fb.batch % 65536 = q / 65536 % 65536 then fb.batch else q / 65536 % 65536
    loops := readLoops b
    m := reloadTbl fb.m 0 16 fun i => BitVec.ofNat 128 (fieldLe b (0x80 + 16 * i) 16)
    s := reloadTbl fb.s 0 64 fun i => word (0x180 + 8 * i)
    ucause := word 0x3B0, upc := word 0x3B8, uinfo := word 0x3C0
    upcalls := readUpcalls b
    tiles := (List.range 8).filterMap fun t => if fieldLe b (0x4B0 + t) 1 < nt then some (t, fieldLe b (0x4B0 + t) 1) else none
    srs := reloadTbl fb.srs 0 w fun i => BitVec.ofNat 32 (fieldLe b (0x600 + 4 * i) 4)
    v := readShapes w shapes (b.drop (0x600 + 4 * w)) }

/-- The fibres of gang `i` with the values of the gang's section, where it can be read. -/
def State.reloadGang (s : State) (id : Nat) (w : Wg) (l : Launch) (i : Nat) : State :=
  match s.readVa w.part (l.slotAt w.index + BitVec.ofNat 64 (l.kernel.sharedSize + i * l.gangMax)) l.gangMax with
  | .error _ => s
  | .ok b =>
    let size := (l.gangMax - 64) / 16
    ((s.gangLive id w i).mapIdx fun k p => (k, p.1)).foldl (fun s p =>
      s.modFib p.2 fun fb => fb.reload w.width l.kernel.nt ((b.drop (64 + p.1 * size)).take size)) s

/-- A weir with the values of its image in the save slot; its wake-up records stay. -/
def Weir.reload (x : Weir) (b : List Byte) : Weir :=
  let q := fieldLe b 0 2
  { x with
    ovtrap := q.testBit 1, overrun := q.testBit 2, err := q.testBit 3
    bytes := fieldLe b 2 4, expb := fieldLe b 6 4, arr := fieldLe b 10 2, expa := fieldLe b 12 2, phase := fieldLe b 14 2 }

/-- The sectors with the bytes of the save slot: 0 is PRESENT, another value the cause of a failure, in the class that the
sector has; a code of no cause leaves the sector as it is. -/
def reloadSectors (t : Tbl Sector) (n : Nat) (b : List Byte) : Tbl Sector :=
  (List.range n).foldl (fun t k =>
    let x := t.getD k .present
    if x.saved = b.getD k 0 then t
    else match (b.getD k 0).toNat with
      | 0 => t.del k
      | c => match Cause.ofCode c with
        | some c => t.put k (.failed c)
        | none => t) t

/-- A tile with the elements and the anchor of its record. -/
def Tile.reload (x : Tile) (b : List Byte) : Tile :=
  if x.st = .free then x
  else
    let a : Nat := fieldLe b 32768 8 / 2 ^ 48 % 1024
    { x with
      anchor := if a < 512 then Int.ofNat a else Int.ofNat a - 1024
      elems := reloadTbl x.elems 0 2048 fun i => BitVec.ofNat 128 (fieldLe b (16 * i) 16) }

/-- A bank with the elements and scales of its record. -/
def Bank.reload (x : Bank) (b : List Byte) : Bank :=
  let e := leNat (b.take 32768)
  let w := mxBits x.fmt
  { x with
    elems := reloadTbl x.elems 0 (mxK x.fmt * 128) fun i => BitVec.ofNat 16 (e / 2 ^ (w * i) % 2 ^ w)
    scales := reloadTbl x.scales 0x7F 1024 fun i => b.getD (32768 + i) 0 }

/-- A workgroup with the values of its shared section `b`. The binding table, the digest sets and the bank tags, whose
layout R413 does not give, stay as they were saved. DEDUCED, log 46. -/
def Wg.reload (w : Wg) (l : Launch) (b : List Byte) : Wg :=
  let k := l.kernel
  let spadAt := 0x500 + 64 * k.nw
  let tileAt := spadAt + k.spad + k.spad / 32
  let bankAt := tileAt + 32832 * k.nt
  { w with
    retired := fieldLe b 0x10 8
    stage := fieldLe b 0x1A 1
    weirs := w.weirs.mapIdx fun i x => x.reload ((b.drop (0x500 + 64 * i)).take 64)
    spad := w.spad.putBytes 0 ((b.drop spadAt).take k.spad)
    sectors := reloadSectors w.sectors (k.spad / 32) (b.drop (spadAt + k.spad))
    tiles := w.tiles.mapVal fun t x => x.reload ((b.drop (tileAt + 32832 * t)).take 32832)
    banks := w.banks.mapVal fun n x => x.reload ((b.drop (bankAt + 67648 * (n / 2) + 33792 * (n % 2))).take 33792) }

/-- The shared section of a workgroup read back, where it can be read. -/
def State.reloadShared (s : State) (id : Nat) (w : Wg) (l : Launch) : State :=
  match s.readVa w.part (l.slotAt w.index) l.kernel.sharedSize with
  | .error _ => s
  | .ok b => s.setWg id (w.reload l b)

/-! ## Order and room (R405, R411) -/

/-- Whether a gang of a workgroup waits in absence for a wake-up record of a weir (05 R130). -/
def Wg.absent (w : Wg) (i : Nat) : Bool := w.weirs.any fun x => x.wakes.any fun r => decide (r.gang = i)

/-- Whether a saved gang could be restored on a core now. -/
def State.restorable (s : State) (w : Wg) (n core : Nat) : Bool :=
  match s.launchOf w with
  | none => false
  | some l =>
    !s.heldFree w.die core (l.share w.launch w.index) l
      && if w.resident then decide (core = w.core) && s.fits w.die core l n false []
        else s.fits w.die core l n true [] && !s.twin w.die core w.launch l w.index

/-- Whether a workgroup pending at a cluster belongs to a launch of higher PRIO than `l`, and can be placed there now or
as soon as a save in progress there frees its room (R405, R411). -/
def State.higherPending (s : State) (l : Launch) (d c : Nat) : Bool :=
  let saving := s.wgs.any fun p => decide (p.2.die = d) && decide (clusOf p.2.core = c) && !p.2.saving.isEmpty
  s.launches.any fun y => decide (s.prio l < s.prio y.2)
    && ((match s.pendingAt y.2 d c with
        | some x => saving || (coresOf c).any fun k => s.placeable y.1 y.2 x d k []
        | none => false)
      || (List.range (y.2.count 4)).any fun f4 => decide (c < y.2.count 3) && decide (s.shareDie y.2 f4 = d) && s.shareReady y.1 y.2 f4)

/-- Gangs restored on a core. Every wake-up record of a restored gang goes (DESIGN CHOICE, log 97: R130 removes the one
reached); a fibre whose weir reached its target meanwhile completes with the PHASE of the completion that reached it. -/
def State.restoreGangs (s : State) (id : Nat) (w : Wg) (l : Launch) (core : Nat) (gs : List (Nat × Nat)) (ptile : List Nat) : State :=
  let now := s.clkOf w
  let back (i : Nat) : Bool := gs.any fun g => decide (g.1 = i)
  let k := s.lcore w.die core
  let s := if w.resident then s
    else (s.setLcore w.die core { k with partw := BitVec.ofNat 64 (l.field 0x10 4) }).reloadShared id w l
  let s := gs.foldl (fun s g => s.reloadGang id w l g.1) s
  let was := (s.wgs.find? id).getD w
  let w' : Wg := { was with
    core, gangs := gs.foldl (fun t g => t.set g.1 (some g.2)) was.gangs, ptile := if w.resident then was.ptile else ptile
    recalled := was.recalled.filter fun r => !back r.1
    weirs := was.weirs.map fun x => { x with wakes := x.wakes.filter fun r => !back r.gang } }
  let s := s.setWg id w'
  let fs := gs.flatMap fun g => s.gangLive id w g.1
  fs.foldl (fun s p =>
    let s := s.modFib p.1 fun fb => { fb with heldAt := fb.heldAt.map fun t => now - t, age := now }
    match p.2.await with
    | .weir x => if reached (w'.weir x.weir).phase x.target then s.finishWait p.1 (x.target % 65536) false else s
    | _ => s) s

/-- R411: the event RESTORE, of recalled gangs in the order of their recalls. Where no recalled gang could return, the
executive may also restore a gang that still waits in absence (15 R382). -/
def execRestore (s : State) : Out :=
  .next (match s.cur with
    | .event (.restore id core gs ptile) =>
      match s.wgs.find? id with
      | none => s
      | some w => match s.launchOf w with
        | none => s
        | some l =>
          let mine := gs.map (·.1)
          let c := clusOf w.core
          let stamps := (w.recalled.filter fun r => mine.contains r.1).map (·.2)
          let known := mine.all fun i => (w.recalled.any fun r => decide (r.1 = i)) || w.absent i
          let early := decide (stamps.length < gs.length)
          let earlier := (s.recalls w.die c).any fun r =>
            !(decide (r.1 = id) && mine.contains r.2.2.1) && (early || stamps.any (fun t => decide (r.2.2.2 < t)))
              && (coresOf c).any (s.restorable r.2.1 1)
          if gs.isEmpty || !decide mine.Nodup || !known || decide (clusOf core ≠ c)
              || !s.restorable w gs.length core || earlier || s.higherPending l w.die c
              || !picks (gs.map (·.2)) gs.length 64 (s.gangsOn w.die core)
              || (!w.resident && !picks ptile l.kernel.nt (2 * (l.field 0x10 4 / 65536 % 256)) (s.tilesOn w.die core)) then s
          else s.restoreGangs id w l core gs ptile
    | _ => s)

end Sys2Proof.Machine
end

