-- ==== Sys2Proof/Machine/ScEvents.lean ====
section
/-! DEFINITION. SERVICE_CORE_ACCESS (16 R386, R388, R393, 04 R111, 07 R187, 19 R446): the ordinary RV64 accesses of a
service core. -/

namespace Sys2Proof.Machine

/-- The kind of an access (R388). -/
def ScOp.kind : ScOp → ScKind
  | .load .. => .load
  | .store .. => .store
  | .amo .. => .amo
  | .lr .. => .load
  | .sc .. => .store
  | .fload .. => .load
  | .fstore .. => .store
  | .fetch => .fetch

/-- The rights an access needs of its levee (R388). -/
def scNeed (op : ScOp) : Nat :=
  match ScOp.kind op with
  | .load => rRD
  | .store => rWR
  | .amo => rRD + rWR
  | .fetch => rFX

/-- Bytes of an access. -/
def scSize : ScOp → Nat
  | .load n _ _ _ => n
  | .store n _ _ => n
  | .amo _ n _ _ _ _ _ => n
  | .lr n _ _ => n
  | .sc n _ _ _ => n
  | .fload n _ => n
  | .fstore n _ => n
  | .fetch => 4

/-- Whether an access is a form that RV64 has. -/
def scForm : ScOp → Bool
  | .load n _ _ _ => n == 1 || n == 2 || n == 4 || n == 8
  | .store n _ _ => n == 1 || n == 2 || n == 4 || n == 8
  | .amo p n _ _ _ _ _ =>
    (n == 4 || n == 8) && (p == .xchg || p == .add || p == .and || p == .or || p == .xor || p == .min || p == .max)
  | .lr n _ _ => n == 4 || n == 8
  | .sc n _ _ _ => n == 4 || n == 8
  | .fload n _ => n == 4 || n == 8
  | .fstore n _ => n == 4 || n == 8
  | .fetch => true

/-- Whether an access must be naturally aligned: an atomic that is not takes an exception. -/
def scAtomic : ScOp → Bool
  | .amo .. => true
  | .lr .. => true
  | .sc .. => true
  | _ => false

/-- Whether an access releases: it waits for the core's held writes. -/
def scReleases : ScOp → Bool
  | .store _ _ rl => rl
  | .amo _ _ _ _ _ _ rl => rl
  | .sc _ _ _ rl => rl
  | _ => false

/-- An integer of `n` bytes in a register. -/
def scInt (n : Nat) (signed : Bool) (x : Nat) : Levee := .int (extend (8 * n) signed (x % 2 ^ (8 * n)))

/-- A floating-point register written with `n` bytes, NaN-boxed: the floating-point state is dirty (log entry 8). -/
def Sc.setF (x : Sc) (d : BitVec 5) (n v : Nat) : Sc :=
  { x with f := x.f.put d.toNat (if n = 4 then 0xFFFFFFFF * 2 ^ 32 + v % 2 ^ 32 else v % 2 ^ 64), mst := x.mst ||| 0x6000 }

/-- The data of a store. -/
def Sc.data (x : Sc) (op : ScOp) : Nat :=
  (match op with
    | .store _ t _ => (x.reg t).cur
    | .sc _ _ t _ => (x.reg t).cur
    | .amo _ _ _ _ t _ _ => (x.reg t).cur
    | .fstore _ t => x.f.getD t.toNat 0
    | _ => 0) % 2 ^ (8 * scSize op)

/-- An access that is over: `v` is what a load reads. -/
def State.scOver (s : State) (c : Nat) (op : ScOp) (v len : Nat) : State :=
  match op with
  | .load n signed d _ => s.scNext c d (scInt n signed v) len
  | .lr n d _ => s.scNext c d (scInt n true v) len
  | .fload n d => s.setSc c (((s.sc c).setF d n v).step len)
  | _ => s.setSc c ((s.sc c).step len)

/-- Whether a held write of the core stands at a line that the access touches. -/
def State.scOwnHeld (s : State) (c pa n : Nat) : Bool :=
  s.lines.any fun l => l.2.held.any fun x => decide (x.req.agent = .service c) && decide (x.req.pa < pa + n)
    && decide (pa < x.req.pa + reqBytes x.req)

/-- The width of an AMO. -/
def amoWidth (n : Nat) (signed : Bool) : Width := if n = 4 then (if signed then .i32 else .n32) else (if signed then .i64 else .n64)

/-- An AMO on memory: held at a locked line, else performed (R111). -/
def State.scAmo (s : State) (c p : Nat) (q : EngPart) (op : AtomOpr) (n : Nat) (signed : Bool) (d : BitVec 5) (aq rl : Bool)
    (data len : Nat) : State :=
  let line := s.line q.x.line q.x.grain
  let w := amoWidth n signed
  let i := { s.scIssue c rl q.x.pa n with read := some (.sys, aq) }
  let s := s.setSc c { s.sc c with relMark := (s.sc c).relMark && i.rel.isNone }
  if line.locked then
    let req : HomeReq :=
      { agent := .service c, part := p, kind := .atom op w 0 data, va := q.x.va, pa := q.x.pa, grain := q.x.grain, narrow := false
        count := false }
    let x : Waiting := { id := s.nextId, req, back := some s.nextId, issue := i }
    let s := (s.setLine q.x.line { line with held := line.held ++ [x] }).named
    s.setSc c { (s.sc c).step len with await := some { id := x.id, d, size := n } }
  else if s.dead q.x.pa n then (s.retireFrame q.x.pa (memSource q.x.pa)).scTrap c 7 q.x.va
  else
    let old := s.mem.read q.x.pa n
    let s := s.atomReads (.service c) i q.x.pa n
    let s := match atomNew op w old data 0 with
      | some x => s.homeStore (.service c) q.x.va i q.x.pa (toLe x n) false true
      | none => s
    let s := if line.homeWritten = line then s else s.setLine q.x.line line.homeWritten
    s.scNext c d (scInt n true old) len

/-- An access of a service core to memory. -/
def State.scMem (s : State) (c p : Nat) (lv : Levee) (va : Word) (len : Nat) (op : ScOp) : State :=
  let b := toLe ((s.sc c).data op) (scSize op)
  match op with
  | .load n _ _ _ | .fload n _ => match s.scRead c lv .load false va n with
    | .stop s => s
    | .done s b => s.scOver c op (leNat b) len
  | .store _ _ rl => match s.scWrite c lv rl false va b with
    | .stop s => s
    | .done s _ => s.scOver c op 0 len
  | .fstore _ _ => match s.scWrite c lv false false va b with
    | .stop s => s
    | .done s _ => s.scOver c op 0 len
  | .amo o n signed d _ aq rl =>
    if s.engShut p (.service c) then s
    else match s.scPieces c lv .amo 3 va n with
      | .error e => s.scRefused c .amo va e
      | .ok l => match s.scGates p true l, l with
        | some s, _ => s
        | none, q :: _ => ((s.unstallWho p (.service c)).scUsed p true l).scAmo c p q o n signed d aq rl ((s.sc c).data op) len
        | none, [] => s
  | .lr n _ aq => match s.scRead c lv .load true va n, s.scPhys c lv .load va n with
    | .done s b, some pa =>
      let s := s.atomReads (.service c) { Issue.plain with read := some (.sys, aq) } pa n
      { s.scOver c op (leNat b) len with resvs := s.resvs.put c (pa, n) }
    | .done s _, none => s
    | .stop s, _ => s
  | .sc n d _ rl =>
    let fail (s : State) : State := { s.scNext c d (scInt 8 false 1) len with resvs := s.resvs.del c }
    match s.scPieces c lv .store 3 va n with
    | .error e => s.scRefused c .store va e
    | .ok l =>
      let locked := l.any fun q => (s.line q.x.line q.x.grain).locked
      if locked || !decide (s.resvs.find? c = (s.scPhys c lv .store va n).map fun pa => (pa, n)) then fail s
      else match s.scWrite c lv rl true va b with
        | .stop s => s
        | .done s _ => { s.scNext c d (scInt 8 false 0) len with resvs := s.resvs.del c }
  | .fetch => s

/-- An access of a service core to a device behind a BAR. -/
def State.scDevice (s : State) (c p pa : Nat) (va : Word) (len : Nat) (op : ScOp) : State :=
  let own := match barPort pa with
    | some k => (s.part p).rpmask.getLsbD k
    | none => false
  let n := scSize op
  if !own || scAtomic op || op == .fetch then s.scTrap c (ScOp.kind op).accessFault va
  else if ScOp.kind op = .load then
    if s.ioUsable pa then ((s.send (.ioRead 0 pa n)).drawn).scOver c op (Config.deviceRead s.free) len else s.scOver c op (2 ^ 64 - 1) len
  else (if s.ioUsable pa then s.send (.ioWrite pa n ((s.sc c).data op)) else s).scOver c op 0 len

/-- What a load of SCQTAIL shows: the records below it, which a fence r,rw then acquires (20 R465). -/
def State.sawTail (s : State) (c p pa : Nat) : State :=
  if pa = ioBase p + 0x48 then
    s.readsOf (.service c) { Issue.plain with read := some (.sys, false) } fun o => decide (o = .call p)
  else s

/-- A load of a control register; a store to one has its own event, unless it is refused (R393). -/
def State.scCtl (s : State) (c p pa : Nat) (va : Word) (len : Nat) (op : ScOp) : State :=
  let k := ScOp.kind op
  if scSize op ≠ 8 ∨ pa % 8 ≠ 0 ∨ !s.ctlReach p pa ∨ scAtomic op then s.scTrap c k.accessFault va
  else if k = .load then (s.sawTail c p pa).scOver c op (s.ctlRead pa) len
  else s

/-- Whether offset `o` of a switch window is a register of the group table whose stores have their own events. -/
def groupOwn (o : Nat) : Bool := decide (o < 0x20000) && (decide (o % 0x200 = 0) || (decide (0x100 ≤ o % 0x200) && decide (o % 0x200 < 0x180)))

/-- An access to the group table through switch window `k` (19 R446, R448); a store to GCTL or ABSENT has its own
event. -/
def State.scSwitch (s : State) (c k pa : Nat) (va : Word) (len : Nat) (op : ScOp) : State :=
  let o := pa - (s.window k).base * 2 ^ 30
  let g := ScOp.kind op
  if scSize op ≠ 8 ∨ pa % 8 ≠ 0 ∨ scAtomic op then s.scTrap c g.accessFault va
  else if g = .load then s.scOver c op (if o < 0x20000 then s.groupReg (o / 0x200) (o % 0x200) else 0) len
  else if groupOwn o then s
  else
    let s' := s.scOver c op 0 len
    if o < 0x20000 then s'.setGroupReg (o / 0x200) (o % 0x200) ((s.sc c).data op) else s'

/-- R386, R388: an access of a service core: the levee check, the translation, and the access. -/
def State.scAccess (s : State) (c : Nat) (lv : Levee) (va : Word) (len : Nat) (op : ScOp) : State :=
  let n := scSize op
  let k := ScOp.kind op
  match (if op = .fetch then lv.check rFX va.toNat n else s.leveeCheck c lv (scNeed op) va n) with
  | some e => s.scTrap c 28 va (some e)
  | none =>
    if scAtomic op && decide (va.toNat % n ≠ 0) then s.scTrap c (if k = .load then 4 else 6) va
    else if scReleases op && s.heldOf fun g => decide (g = .service c) then s
    else match s.scPart c, s.scAddr c lv k va n with
      | some p, .mem pa _ => if s.scOwnHeld c pa n then s else s.scMem c p lv va len op
      | some p, .device pa => s.scDevice c p pa va len op
      | some p, .ctl pa => s.scCtl c p pa va len op
      | some _, .switch w pa => s.scSwitch c w pa va len op
      | _, .ecam _ => s
      | _, e => s.scRefused c k va e

/-- R386, R388: the event SERVICE_CORE_ACCESS. -/
def execServiceCoreAccess (s : State) : Out :=
  .next (match s.cur with
    | .event (.serviceCoreAccess c base off len op) =>
      let x := s.sc c
      let lv := if op = .fetch then x.pc else x.reg base
      let va := if op = .fetch then BitVec.ofNat 64 lv.cur else BitVec.ofNat 64 lv.cur + BitVec.ofInt 64 off
      if !x.ready || !(len == 2 || len == 4) || !scForm op then s else s.scAccess c lv va len op
    | _ => s)

end Sys2Proof.Machine
end

