-- ==== Sys2Proof/Machine/Sched.lean ====
section
/-! DEFINITION. What a step does before an instruction: time passes, the issue rule of 17 R406 chooses where the
schedule names no one, the fibre enters its block and its instruction is fetched and decoded (08 R210, R216 order 1),
and the placing of one instruction. -/

namespace Sys2Proof.Machine

/-! ## Time -/

/-- Fibres of a core in a state. -/
def State.countIn (s : State) (d core : Nat) (st : FibreState) : Nat :=
  (s.fibres.filter fun p => p.2.st == st && match s.wgs.find? p.2.wg with
    | some w => decide (w.die = d) && decide (w.core = core) && (w.gangOf p.2.num).isSome
    | none => false).length

/-- Cycle sources 0x01 and 0x04 to 0x07 of R489 on a core, over `n` cycles. -/
def State.bumpCycles (s : State) (d core n : Nat) : State :=
  ((((s.bump d core 0x01 n).bump d core 0x04 (n * s.countIn d core .interlock)).bump d core 0x05 (n * s.countIn d core .parked)).bump
    d core 0x06 (n * s.countIn d core .waiting)).bump d core 0x07 (n * s.countIn d core .held)

/-- `n` cycles on die `d`. -/
def State.cycles (s : State) (d n : Nat) : State :=
  if n = 0 then s
  else
    let x := s.die d
    let s := s.setDie d { x with clk := (x.clk + n) % 2 ^ 64 }
    if s.cores.isEmpty && x.ev.isEmpty then s else (List.range 24).foldl (fun s c => s.bumpCycles d c n) s

/-- Cycles on the dies from `d` up. -/
def State.cyclesFrom (s : State) (d : Nat) : List Nat → State
  | [] => s
  | n :: l => State.cyclesFrom (s.cycles d n) (d + 1) l

/-- Time passes, and a new moment begins for what arrives at a home (07 R185); holds end in it (02 R38). -/
def State.elapse (s : State) (ns : Nat) (cycles : List Nat) : State :=
  let later := bit (decide (ns ≠ 0) || cycles.any (· != 0))
  (({ s with gtime := s.gtime + ns, moment := s.moment + later }).cyclesFrom 0 cycles).expireHolds

/-! ## The issue rule (17 R406) -/

/-- Whether a fibre can be tried: READY, or in a wait that it tries again by itself. -/
def Fibre.runnable (fb : Fibre) : Bool :=
  (fb.st == .ready || fb.st == .interlock || fb.st == .parked) && match fb.await with
    | .none => true
    | .oc _ _ => true
    | .seal _ => true
    | _ => false

/-- A fibre as a scheduler sees it. -/
structure Cand where
  fib   : Nat
  /-- Scheduler of the package, and GANG on the core. -/
  sched : Nat
  gang  : Nat
  pc    : Word
  lane  : Nat
  /-- Cycles since it became READY, issued, or was tried. -/
  age   : Nat
  ready : Bool
  yield : Nat

/-- The runnable fibres of resident gangs. -/
def State.candidates (s : State) : List Cand :=
  s.fibres.filterMap fun p =>
    if p.2.runnable then
      match s.wgs.find? p.2.wg with
      | none => none
      | some w => (w.gangOf p.2.num).map fun g =>
        { fib := p.1, sched := (w.die * 24 + w.core) * 4 + g / 16, gang := g, pc := p.2.pc, lane := w.slot p.2.num
          age := since' (s.clkOf w) p.2.age, ready := p.2.st == .ready, yield := p.2.yield }
    else none

/-- The oldest candidate; ties go to the lowest scheduler and GANG. -/
def oldest (l : List Cand) : Option Cand :=
  l.foldl (fun b x => match b with
    | none => some x
    | some y => if y.age < x.age ∨ (y.age = x.age ∧ (x.sched < y.sched ∨ (x.sched = y.sched ∧ x.gang < y.gang))) then some x else some y) none

/-- The fibre by which scheduler `n` chooses its gang and program counter: the oldest READY one, those under YIELD left
out while another gang of the scheduler has a READY fibre (10 R245). Where that leaves none, YIELD has no effect
(log entry 29). -/
def pickOf (l : List Cand) (n : Nat) : Option Cand :=
  let r := l.filter fun c => c.ready && decide (c.sched = n)
  match oldest (r.filter fun c => decide (c.yield = 0) || !(r.any fun d => decide (d.gang ≠ c.gang))) with
  | some c => some c
  | none => oldest r

/-- The batch of a choice: every READY fibre of its gang at its program counter, in ascending LANE (02 R37). -/
def batchOf (l : List Cand) (c : Cand) : List Nat :=
  ((l.filter fun d => d.ready && decide (d.sched = c.sched) && decide (d.gang = c.gang) && decide (d.pc = c.pc)).foldr
    (fun d r => insertBy Prod.fst (d.lane, d.fib) r) []).map (·.2)

/-- One choice of scheduler `n`: the YIELD counts of its fibres fall, the ages of the batch restart. -/
def State.chooseOn (s : State) (n : Nat) (apart : Option Nat) : State :=
  let l := s.candidates
  match pickOf l n with
  | none => { s with batch := Batch.none }
  | some c =>
    let b := batchOf l c
    { s with
      batch := { rest := b, size := b.length, fresh := true, call := none, apart }
      fibres := s.fibres.mapVal fun f fb =>
        let mine := l.any fun d => decide (d.fib = f) && decide (d.sched = n)
        { fb with
          yield := if mine then fb.yield - 1 else fb.yield
          age := if b.contains f then (match s.wgs.find? fb.wg with
            | some w => s.clkOf w
            | none => fb.age) else fb.age } }

/-- A waiting fibre tries its instruction again, its finished results written first. -/
def State.retry (s : State) (f : Nat) (apart : Option Nat) : State :=
  { s.modFib f fun fb =>
      { (fb.pend.filter fun p => p.st == .ready && decide (p.left = 0)).foldl (fun fb p => fb.settle p.id) fb with
        age := match s.wgs.find? fb.wg with
          | some w => s.clkOf w
          | none => fb.age } with
    batch := { rest := [f], size := 1, fresh := true, call := none, apart } }

/-- The turn of fibre `f`: a READY fibre has its scheduler choose, a waiting one tries again. `apart` is the schedule's
choice of the lanes of an atomic that perform at once (12 R302). -/
def State.turn (s : State) (f : Nat) (apart : Option Nat) : State :=
  match s.candidates.find? fun c => decide (c.fib = f) with
  | none => { s with batch := Batch.none }
  | some c => if c.ready then s.chooseOn c.sched apart else s.retry f apart

/-- The fibre whose turn comes where the schedule names no one: the one that has waited longest. -/
def State.choose (s : State) : Option Nat := (oldest s.candidates).map Cand.fib

/-! ## Sampling at issue (22 R486) -/

/-- What the schedulers of a core with sampling enabled do as a batch issues; `fb` is its lowest LANE. -/
def State.sampleIssue (s : State) (w : Wg) (l : Launch) (fb : Fibre) : State :=
  let k := s.lcore w.die w.core
  if k.smpctl.getLsbD 0 then
    match w.gangOf fb.num with
    | none => s
    | some g =>
      let sch := g / 16
      let tag : SmpTag :=
        { pc := fb.pc, wid := widOf l w fb.num, ident := l.ident, ord := s.ordinal w.part l.kernel.entry fb.lastSp, gang := g
          batch := s.batch.size, cause := 0
          clk := s.clkOf w }
      let k := if k.smparm.contains sch then
          { k with smparm := k.smparm.filter (· != sch), smptag := k.smptag.put sch tag } else k
      s.setLcore w.die w.core { k with smpleft := k.smpleft.put sch (k.smpleft.getD sch 0 - 1) }
  else s

/-! ## A fibre's step -/

/-- A step of a fibre up to the execution of its instruction. -/
inductive Fetch where
  /-- The instruction executes in this state. -/
  | run (i : Instr) (s : State)
  /-- The step ends here. -/
  | done (s : State)

/-- The fetched word decoded, with `x` the word after it (R216 order 1); a halt at a stop site (22 R482). -/
def State.decoded (s : State) (f : Nat) (fb : Fibre) (w : Wg) (l : Launch) (word x : Word) : Fetch :=
  match decode word x with
  | .error _ => .done (s.takeTrap f .illegal 0 word)
  | .ok d =>
    if d.stop && fb.haltReq && !fb.stepReq && fb.await == .none then .done (s.setFib f fb.halt)
    else
      let s := s.bumpWg w 0x02 1
      let s := if s.batch.fresh then
          let s := (s.bumpWg w 0x03 1).sampleIssue w l fb
          { s with batch := { s.batch with fresh := false } }
        else s
      .run d.i { s with cur := .fibre f word x }

/-- The instruction at the pc of a READY fibre inside its block, fetched. A word with LONG that no extension word, 1
among them, would make well formed is ILLEGAL before the extension word is fetched (R216); the one after a LONG BKPT is
skipped (R217). -/
def State.instruction (s : State) (f : Nat) (fb : Fibre) (w : Wg) (l : Launch) : Fetch :=
  match s.fetch w fb.pc with
  | (.fault c, s) => .done (s.takeTrap f c fb.pc 0)
  | (.word word, s) =>
    if word.getLsbD 10 then
      if fb.pc + 8 = fb.blkEnd then .done (s.takeTrap f .illegal 0 word)
      else match decode word 1 with
        | .error _ => .done (s.takeTrap f .illegal 0 word)
        | .ok d =>
          if d.i = .bkpt then s.decoded f fb w l word 0
          else match s.fetch w (fb.pc + 8) with
            | (.fault c, s) => .done (s.takeTrap f c (fb.pc + 8) 0)
            | (.word x, s) => s.decoded f fb w l word x
    else s.decoded f fb w l word 0

/-- A fibre's step: a header where one is expected, then the instruction. -/
def State.fibreStep (s : State) (f : Nat) : Fetch :=
  match s.fibres.find? f with
  | none => .done s
  | some fb =>
    match s.wgs.find? fb.wg with
    | none => .done s
    | some w =>
      match s.launchOf w with
      | none => .done s
      | some l =>
        if !fb.runnable || (w.gangOf fb.num).isNone then .done s
        else
          let fb := { fb with st := .ready }
          let s := s.setFib f fb
          if fb.pc = fb.blkEnd then
            let s := s.header f fb w l
            match s.fibres.find? f with
            | none => .done s
            | some fb => if fb.st = .ready && fb.pc ≠ fb.blkEnd then s.instruction f fb w l else .done s
          else s.instruction f fb w l

/-- The next fibre of the batch takes its step. -/
def State.batchStep (s : State) : Fetch :=
  match s.batch.rest with
  | [] => .done s
  | f :: rest => State.fibreStep { s with batch := { s.batch with rest } } f

/-! ## Placing one instruction (log entry 1) -/

/-- Where a placed instruction's block header stands. -/
def placedAt : Nat := 0x10000

/-- A package whose homes accept accesses, with all memory below 8 GiB in partition 0's first range and mapped to
itself by partition 0's tree, readable, writable and executable. -/
def State.mapped (s : State) : State :=
  let s := { s with boot := { s.boot with memready := true } }
  let s := (s.poke 0x4000 (toLe (0x6000 + 1) 8)).poke 0x6000 (toLe 0x39F 8)
  s.modPart 0 fun p => { p with valid := true, xroot := 0x8000000000004000, ranges := p.ranges.put 0 0x8000000700000000 }

/-- A launch of one workgroup of one fibre of 8 lanes, with every register declared. -/
def placedLaunch : Launch :=
  { ident := 0x100000000, part := 0, queue := 0
    record := toLe 0 16 ++ toLe 0x00102010 4 ++ toLe 3 6 ++ toLe 0 6 ++ toLe 1 8 ++ toLe 1 8 ++ toLe 1 8 ++ toLe 1 8
      ++ toLe 1 8 ++ toLe 0 8 ++ toLe 0x1000 4 ++ toLe 0 4 ++ toLe 0 160
    kernel := { entry := BitVec.ofNat 64 placedAt, nv := 256, ns := 64, nm := 16, nw := 64, spad := 0x10000, nt := 16, nmac := 4
                mcast := false }
    sched := []
    f5 := 0, pcur := 0x1000, active := true, order := 0, started := [0], ended := [], again := [], bad := false
    shareOf := [], teamOf := [], views := [], ends := [] }

/-- Its workgroup, on core 0 of die 0. -/
def placedWg (n : Nat) : Wg :=
  { launch := n, index := 0, part := 0, die := 0, core := 0, die0 := 0, core0 := 0, gen := 0, width := 8, nfib := 1
    gangs := [some 0], pbase := 0x100000, weirs := List.replicate 64 Weir.start, priv := [], spad := [], sectors := [], binds := []
    dgs := List.replicate 4 Digest.start, stage := 0, tiles := [], banks := [], ptile := tabulate 16 id, retired := 0, version := none, born := 0, recalled := []
    drainBar := none, saving := [] }

/-- The state with a Ferja instruction placed in a block of its own, and a fibre at its header. -/
def State.placedFerja (s : State) (nbits w : Nat) : State :=
  let n := s.nextId
  let long := w.testBit 10 || decide (64 < nbits)
  let hd : Header := { len := if long then 2 else 1, reconv := 0, pref := 0, livev := 255, lives := 63, livem := 15, stop := false }
  let s := (s.mapped.poke placedAt (toLe hd.word.toNat 8)).poke (placedAt + 8) (toLe w 16)
  { s with
    sched := { ns := 0, cycles := [], who := .fibre n, apart := none } :: s.sched, batch := Batch.none, nextId := n + 1
    launches := s.launches.put n placedLaunch, wgs := s.wgs.put n (placedWg n)
    fibres := s.fibres.put n (Fibre.start n 0 8 (BitVec.ofNat 64 placedAt) 0 0 0x1000) }

/-- The state with a service core's word placed at the program counter of SC0. -/
def State.placedService (s : State) (w : Nat) : State :=
  let s := s.mapped.poke placedAt (toLe w 4)
  let x := s.sc 0
  { s.setSc 0 { x with running := true, mode := .machine, pc := Levee.root.move placedAt } with
    sched := { ns := 0, cycles := [], who := .service 0, apart := none } :: s.sched, batch := Batch.none }

/-- The state with the instruction whose bits are `w` placed where the next step fetches. -/
def State.placed (s : State) (nbits w : Nat) : State :=
  if nbits ≤ 32 then s.placedService w else s.placedFerja nbits w

/-! ## Events -/

/-- The instruction that an event runs. -/
def eventInstr : Event → Instr
  | .holdTimeout _ => .holdTimeout
  | .pendingResultWrite _ _ => .pendingResultWrite
  | .upcallPost _ _ _ => .upcallPost
  | .upcallReflect _ => .upcallReflect
  | .trapResume _ _ => .trapResume
  | .workgroupEnd _ => .workgroupEnd
  | .lqpostWrite _ _ _ _ => .lqpostWrite
  | .launchAnswer _ => .launchAnswer
  | .furrowPlace _ _ => .furrowPlace
  | .workSteal _ _ _ => .workSteal
  | .dieShareStart _ _ _ => .dieShareStart
  | .furrowPreempt _ _ _ _ => .furrowPreempt
  | .pcmdSwapGang _ _ _ _ => .pcmdSwapGang
  | .pcmdDrain _ _ _ _ => .pcmdDrain
  | .pcmdSave _ _ _ _ => .pcmdSave
  | .pcmdFlushRestart _ _ _ _ => .pcmdFlushRestart
  | .pcmdKill _ _ _ _ => .pcmdKill
  | .pcmdChoice _ _ _ _ => .pcmdChoice
  | .gangSwapOut _ _ => .gangSwapOut
  | .restore _ _ _ _ => .restore
  | .fqheadWrite _ _ _ => .fqheadWrite
  | .warrFarArrival _ => .warrFarArrival
  | .wwaitTimeout _ => .wwaitTimeout
  | .flumeCopyAccept _ => .flumeCopyAccept
  | .flumeSectorLand _ _ => .flumeSectorLand
  | .flumeSectorFail _ _ => .flumeSectorFail
  | .flumeCopyComplete _ => .flumeCopyComplete
  | .xresumeRetry _ _ _ => .xresumeRetry
  | .xresumeFailXlate _ _ _ => .xresumeFailXlate
  | .xresumeFailPerm _ _ _ => .xresumeFailPerm
  | .gatherComplete _ => .gatherComplete
  | .scatterComplete _ => .scatterComplete
  | .bankLoadEnd _ => .bankLoadEnd
  | .matrixStepStart _ => .matrixStepStart
  | .matrixStepEnd _ => .matrixStepEnd
  | .matrixCommandComplete _ => .matrixCommandComplete
  | .drainStart _ => .drainStart
  | .drainComplete _ => .drainComplete
  | .mxzeroEffect _ => .mxzeroEffect
  | .mxstatResult _ => .mxstatResult
  | .homeRequestArrival _ _ _ _ => .homeRequestArrival
  | .collectionEnd _ _ => .collectionEnd
  | .acrNodeMerge _ _ _ => .acrNodeMerge
  | .farAtomicPerform _ _ => .farAtomicPerform
  | .partialEvict _ _ _ _ => .partialEvict
  | .lineWriteback _ _ => .lineWriteback
  | .lockRequestArrival _ _ _ => .lockRequestArrival
  | .turnoutEntryTaken _ _ _ => .turnoutEntryTaken
  | .lockGrantArrival _ _ => .lockGrantArrival
  | .lockTimeout _ _ _ => .lockTimeout
  | .deadlockProbe _ _ _ => .deadlockProbe
  | .lckcanAnswer _ => .lckcanAnswer
  | .wblimExpiry _ _ => .wblimExpiry
  | .xinvPartition _ _ => .xinvPartition
  | .xinvRange _ _ _ => .xinvRange
  | .invalidationComplete _ _ => .invalidationComplete
  | .atsInvalidateTimeout _ _ => .atsInvalidateTimeout
  | .atsTranslationRequest _ _ _ _ => .atsTranslationRequest
  | .priPageRequest _ _ _ _ _ _ _ _ => .priPageRequest
  | .migcmdGo _ _ _ => .migcmdGo
  | .migrationEnd _ => .migrationEnd
  | .lgrowWrite _ _ _ => .lgrowWrite
  | .invalidationAck _ _ => .invalidationAck
  | .nalronPortDown _ => .nalronPortDown
  | .nalronPortUp _ _ _ => .nalronPortUp
  | .linkFailureTimeout _ _ => .linkFailureTimeout
  | .flitCrcFail _ _ => .flitCrcFail
  | .pauseFlit _ => .pauseFlit
  | .resumeFlit _ => .resumeFlit
  | .npctlRetrain _ _ _ _ => .npctlRetrain
  | .culvertLaneFail _ _ _ _ => .culvertLaneFail
  | .snoopFilterEvict _ => .snoopFilterEvict
  | .nwctlWrite _ _ _ => .nwctlWrite
  | .gctlWrite _ _ _ _ => .gctlWrite
  | .groupAbsentClear _ _ _ _ _ => .groupAbsentClear
  | .mcsrContributionArrival _ => .mcsrContributionArrival
  | .mclrRequestArrival _ _ => .mclrRequestArrival
  | .roundCombined _ _ => .roundCombined
  | .collectiveComplete _ => .collectiveComplete
  | .memberWithdrawal _ _ => .memberWithdrawal
  | .ioldCompletion _ _ => .ioldCompletion
  | .ioWriteSent _ _ => .ioWriteSent
  | .doorbellSend _ _ => .doorbellSend
  | .completionTimeout _ => .completionTimeout
  | .endpointWrite _ _ _ _ _ => .endpointWrite
  | .endpointRead _ _ _ _ => .endpointRead
  | .interruptWrite _ _ _ _ => .interruptWrite
  | .aerEvent _ _ _ => .aerEvent
  | .dpcTrigger _ _ => .dpcTrigger
  | .rootPortLinkChange _ _ _ _ _ _ => .rootPortLinkChange
  | .hotrst _ _ _ => .hotrst
  | .prgResponseSuccess _ _ _ _ _ => .prgResponseSuccess
  | .prgResponseInvalidRequest _ _ _ _ _ => .prgResponseInvalidRequest
  | .prgResponseFailure _ _ _ _ _ => .prgResponseFailure
  | .configAccess _ _ _ _ _ _ _ _ _ => .configAccess
  | .sltsyncWrite _ _ => .sltsyncWrite
  | .sltsyncComplete _ => .sltsyncComplete
  | .syspostWrite _ _ _ => .syspostWrite
  | .scrubCheckStart _ _ => .scrubCheckStart
  | .shardCheckEnd _ _ => .shardCheckEnd
  | .alertBackoffEnd _ => .alertBackoffEnd
  | .periodicRefresh _ _ => .periodicRefresh
  | .stackTemperatureChange _ _ => .stackTemperatureChange
  | .dspareWrite _ _ _ => .dspareWrite
  | .partitionTableWrite _ _ _ _ => .partitionTableWrite
  | .controlRegisterWrite _ _ _ => .controlRegisterWrite
  | .dbgHalt _ _ _ _ => .dbgHalt
  | .dbgResume _ _ _ _ => .dbgResume
  | .dbgStep _ _ _ _ => .dbgStep
  | .dicinvWrite _ _ _ => .dicinvWrite
  | .dicinvComplete _ => .dicinvComplete
  | .sampleTrigger _ _ _ => .sampleTrigger
  | .sampleRecordWrite _ _ _ _ _ => .sampleRecordWrite
  | .powerOn _ _ => .powerOn
  | .mgmtResetCommand _ _ _ => .mgmtResetCommand
  | .rstcmdWarmReset _ _ _ => .rstcmdWarmReset
  | .fwVerify _ _ => .fwVerify
  | .fwVerifyDone => .fwVerifyDone
  | .fwCommit _ => .fwCommit
  | .fwCommitDone => .fwCommitDone
  | .recoveryImage _ => .recoveryImage
  | .attestationQuote _ => .attestationQuote
  | .tgctlWrite _ _ _ => .tgctlWrite
  | .clockStepApply _ _ => .clockStepApply
  | .junctionLimitReached _ _ => .junctionLimitReached
  | .thermalStepDown _ _ => .thermalStepDown
  | .thermalStepUp _ _ => .thermalStepUp
  | .thermalTrip _ _ _ _ => .thermalTrip
  | .serviceCoreAccess _ _ _ _ _ => .serviceCoreAccess
  | .powerLoss => .powerLoss

end Sys2Proof.Machine
end

