-- ==== Sys2Proof/Machine/Vector.lean ====
section
/-! DEFINITION. Meanings of majors 0x08 to 0x0A (11 R266 to R271): vector integer arithmetic, bit fields and shifts,
compares and selection, and what every class V form shares. -/

namespace Sys2Proof.Machine

/-! ## What class V forms share -/

/-- The elements of a source by lane. -/
def Cx.elems (c : Cx) (ty : Ty) (n : BitVec 8) : List VVal := c.fb.vregs n.toNat (regsOf ty.width)

/-- A control operand in source B (R263): read as .n32. -/
def Cx.control (c : Cx) (b : VSrc) : VVal := (VSrc.regs b c.fb 32).headD (.uni 0)

/-- A V register read as 32 bits. -/
def Cx.word32 (c : Cx) (n : BitVec 8) (l : Nat) : Nat := ((c.fb.vreg n.toNat).lane l).toNat

/-- A vector result: the lanes of the active set from `val`, the shape each register proposes from `shape`. -/
def Cx.vector (c : Cx) (o : VOp) (k : Nat) (shape : Nat → Shape) (val : Nat → Nat) : Res :=
  c.write o.look.toNat (writeRegs c.fb c.width (c.act o.m) o.d.toNat k shape val)

/-- A mask result: bit l is `test l` in the active lanes, every other bit 0 (R270). -/
def Cx.maskOf (c : Cx) (m : BitVec 4) (test : Nat → Bool) : Wide :=
  BitVec.ofNat 128 (((c.lanes m).filter test).foldl (fun x l => x + 2 ^ l) 0)

/-- Operands of a form that writes an element from source A. -/
def vecOpndsA (o : VOp) : List Opnd := [vDst o.d.toNat (regsOf o.ty.width), vSrc o.a.toNat (regsOf o.ty.width)]

/-- Operands of a form that writes an element from sources A and B. -/
def vecOpndsAB (o : VOp) : List Opnd := vecOpndsA o ++ VSrc.opnds o.b (regsOf o.ty.width)

/-- Operands of a form that writes an element from source A and a control operand in B. -/
def vecOpndsACtl (o : VOp) : List Opnd := vecOpndsA o ++ VSrc.opnds o.b 1

/-- A form of one source under rule P. -/
def vecOne (o : VOp) (s : State) (op : Nat → Nat) : Out :=
  issue s (vecOpndsA o ++ [mSrc o.m]) fun c =>
    let w := o.ty.width
    let a := c.elems o.ty o.a
    let val (l : Nat) : Nat := op (elemW w a l)
    c.vector o (regsOf w) (shapeP [a] []) val

/-- A form of two sources under rule P. -/
def vecTwo (o : VOp) (s : State) (op : Nat → Nat → Nat) : Out :=
  issue s (vecOpndsAB o ++ [mSrc o.m]) fun c =>
    let w := o.ty.width
    let a := c.elems o.ty o.a
    let b := VSrc.regs o.b c.fb w
    let val (l : Nat) : Nat := op (elemW w a l) (elemW w b l)
    c.vector o (regsOf w) (shapeP [a, b] []) val

/-- A form of one source and a control operand under rule P. -/
def vecCtl (o : VOp) (s : State) (op : Nat → Nat → Nat) : Out :=
  issue s (vecOpndsACtl o ++ [mSrc o.m]) fun c =>
    let w := o.ty.width
    let a := c.elems o.ty o.a
    let b := c.control o.b
    let val (l : Nat) : Nat := op (elemW w a l) (b.lane l).toNat
    c.vector o (regsOf w) (shapeP [a] [b]) val

/-! ## Rule L (R267) -/

/-- The base and stride of a value, U with stride 0. -/
abbrev Affine := Lane × Lane

/-- The affine part of a source of one register. -/
def affineOf (rs : List VVal) : Option Affine := (rs.headD (.uni 0)).affine

/-- a + b. -/
def affAdd (a b : Affine) : Option Affine := some (a.1 + b.1, a.2 + b.2)
/-- a − b. -/
def affSub (a b : Affine) : Option Affine := some (a.1 - b.1, a.2 - b.2)
/-- a × b, not affine where both strides are not zero. -/
def affMul (a b : Affine) : Option Affine :=
  if a.2 ≠ 0 ∧ b.2 ≠ 0 then none else some (a.1 * b.1, a.2 * b.1 + b.2 * a.1)

/-- Whether rule L makes affine results: .i32 and .n32 without SAT. -/
def linear (o : VOp) : Bool := decide (o.ty.width = 32) && !o.sat

/-- The shape of a rule-L form: `aff` is the affine result where every source is affine and the formula has one. -/
def shapeL (o : VOp) (srcs : List (List VVal)) (ctl : List VVal) (aff : Option Affine) (i : Nat) : Shape :=
  if linear o then
    match aff with
    | some x => mkShape x.1 x.2
    | none => .gen
  else shapeP srcs ctl i

/-- A form of two sources under rule L. -/
def vecTwoL (o : VOp) (s : State) (aff : Affine → Affine → Option Affine) (op : Nat → Nat → Nat) : Out :=
  issue s (vecOpndsAB o ++ [mSrc o.m]) fun c =>
    let w := o.ty.width
    let a := c.elems o.ty o.a
    let b := VSrc.regs o.b c.fb w
    let val (l : Nat) : Nat := op (elemW w a l) (elemW w b l)
    let x := match affineOf a, affineOf b with
      | some x, some y => aff x y
      | _, _ => none
    c.vector o (regsOf w) (shapeL o [a, b] [] x) val

/-! ## Integer arithmetic, major 0x08 (R268) -/

/-- The integer value of an element. -/
def tyInt (t : Ty) (x : Nat) : Int := intOf t.width t.signed x

/-- The element that holds an exact integer result, saturated or wrapped. -/
def fitInt (o : VOp) (x : Int) : Nat := wrapTo o.ty.width (if o.sat then satTo o.ty.width o.ty.signed x else x)

/-- R268: VADD. -/
def execVadd (o : VOp) (s : State) : Out := vecTwoL o s affAdd fun a b => fitInt o (tyInt o.ty a + tyInt o.ty b)

/-- R268: VSUB. -/
def execVsub (o : VOp) (s : State) : Out := vecTwoL o s affSub fun a b => fitInt o (tyInt o.ty a - tyInt o.ty b)

/-- R268: VMUL. -/
def execVmul (o : VOp) (s : State) : Out := vecTwoL o s affMul fun a b => fitInt o (tyInt o.ty a * tyInt o.ty b)

/-- R268: VMULH. -/
def execVmulh (o : VOp) (s : State) : Out :=
  vecTwo o s fun a b => wrapTo o.ty.width (tyInt o.ty a * tyInt o.ty b / ((2 ^ o.ty.width : Nat) : Int))

/-- R268: VMAD. -/
def execVmad (o : VOp) (s : State) : Out :=
  issue s (vecOpndsAB o ++ [vSrc o.c.toNat (regsOf o.ty.width), mSrc o.m]) fun c =>
    let w := o.ty.width
    let a := c.elems o.ty o.a
    let b := VSrc.regs o.b c.fb w
    let e := c.elems o.ty o.c
    let val (l : Nat) : Nat :=
      fitInt o (tyInt o.ty (elemW w a l) * tyInt o.ty (elemW w b l) + tyInt o.ty (elemW w e l))
    let x := match affineOf a, affineOf b, affineOf e with
      | some x, some y, some z => (affMul x y).bind fun p => affAdd p z
      | _, _, _ => none
    c.vector o (regsOf w) (shapeL o [a, b, e] [] x) val

/-- R268: VABS. -/
def execVabs (o : VOp) (s : State) : Out := vecOne o s fun a => fitInt o ((tyInt o.ty a).natAbs : Int)

/-- R268: VNEG. -/
def execVneg (o : VOp) (s : State) : Out :=
  issue s (vecOpndsA o ++ [mSrc o.m]) fun c =>
    let w := o.ty.width
    let a := c.elems o.ty o.a
    let val (l : Nat) : Nat := fitInt o (-(tyInt o.ty (elemW w a l)))
    c.vector o (regsOf w) (shapeL o [a] [] ((affineOf a).map fun x => (-x.1, -x.2))) val

/-- R268: VMIN. -/
def execVmin (o : VOp) (s : State) : Out := vecTwo o s fun a b => pick o.ty.width o.ty.signed false a b

/-- R268: VMAX. -/
def execVmax (o : VOp) (s : State) : Out := vecTwo o s fun a b => pick o.ty.width o.ty.signed true a b

/-- R268: VAVG. -/
def execVavg (o : VOp) (s : State) : Out :=
  vecTwo o s fun a b => wrapTo o.ty.width ((tyInt o.ty a + tyInt o.ty b + 1) / 2)

/-- R268: VABSD. -/
def execVabsd (o : VOp) (s : State) : Out :=
  vecTwo o s fun a b => fitInt o ((tyInt o.ty a - tyInt o.ty b).natAbs : Int)

/-- R268, R254: VDIV. -/
def execVdiv (o : VOp) (s : State) : Out := vecTwo o s fun a b => (divRem o.ty.width o.ty.signed a b).1

/-- R268, R254: VREM. -/
def execVrem (o : VOp) (s : State) : Out := vecTwo o s fun a b => (divRem o.ty.width o.ty.signed a b).2.1

/-! ## Bit field and shift, major 0x09 (R269) -/

/-- R269: VAND. -/
def execVand (o : VOp) (s : State) : Out := vecTwo o s fun a b => a &&& b

/-- R269: VOR. -/
def execVor (o : VOp) (s : State) : Out := vecTwo o s fun a b => a ||| b

/-- R269: VXOR. -/
def execVxor (o : VOp) (s : State) : Out := vecTwo o s fun a b => a ^^^ b

/-- R269: VANDN. -/
def execVandn (o : VOp) (s : State) : Out := vecTwo o s fun a b => andn o.ty.width a b

/-- R269: VNOT. -/
def execVnot (o : VOp) (s : State) : Out := vecOne o s fun a => 2 ^ o.ty.width - 1 - a

/-- R269, R267: VSHL. -/
def execVshl (o : VOp) (s : State) : Out :=
  issue s (vecOpndsACtl o ++ [mSrc o.m]) fun c =>
    let w := o.ty.width
    let a := c.elems o.ty o.a
    let b := c.control o.b
    let val (l : Nat) : Nat := shl w (elemW w a l) (b.lane l).toNat
    let x := match affineOf a, b with
      | some x, .uni n => some (x.1 <<< (n.toNat % 32), x.2 <<< (n.toNat % 32))
      | _, _ => none
    c.vector o (regsOf w) (shapeL o [a] [b] x) val

/-- R269: VSHR. -/
def execVshr (o : VOp) (s : State) : Out :=
  vecCtl o s fun a b => if o.ty.signed then sra o.ty.width a b else shr o.ty.width a b

/-- R269: VROT. -/
def execVrot (o : VOp) (s : State) : Out := vecCtl o s fun a b => ror o.ty.width a b

/-- The field of VBEXT at position `p` of length `n`. -/
def bitField (t : Ty) (a p n : Nat) : Nat :=
  if t.width ≤ p ∨ n = 0 then 0
  else
    let m := min n (t.width - p)
    wrapTo t.width (intOf m t.signed (a / 2 ^ p))

/-- R269: VBEXT. -/
def execVbext (o : VOp) (s : State) : Out :=
  issue s (vecOpndsACtl o ++ [vSrc o.c.toNat 1, mSrc o.m]) fun c =>
    let w := o.ty.width
    let a := c.elems o.ty o.a
    let b := c.control o.b
    let n := c.fb.vreg o.c.toNat
    let val (l : Nat) : Nat := bitField o.ty (elemW w a l) (b.lane l).toNat (n.lane l).toNat
    c.vector o (regsOf w) (shapeP [a] [b, n]) val

/-- `a` with the field that control word `k` names replaced by `b` (VBINS). -/
def bitInsert (w a b k : Nat) : Nat :=
  let p := k % 256
  let n := k / 256 % 256
  if w ≤ p ∨ n = 0 then a
  else
    let m := min n (w - p)
    a % 2 ^ p + b % 2 ^ m * 2 ^ p + a / 2 ^ (p + m) * 2 ^ (p + m)

/-- R269: VBINS. -/
def execVbins (o : VOp) (s : State) : Out :=
  issue s (vecOpndsAB o ++ [vSrc o.c.toNat 1, mSrc o.m]) fun c =>
    let w := o.ty.width
    let a := c.elems o.ty o.a
    let b := VSrc.regs o.b c.fb w
    let k := c.fb.vreg o.c.toNat
    let val (l : Nat) : Nat := bitInsert w (elemW w a l) (elemW w b l) (k.lane l).toNat
    c.vector o (regsOf w) (shapeP [a, b] [k]) val

/-- R269: VCLZ. -/
def execVclz (o : VOp) (s : State) : Out := vecOne o s fun a => clz o.ty.width a

/-- R269: VCTZ. -/
def execVctz (o : VOp) (s : State) : Out := vecOne o s fun a => ctz o.ty.width a

/-- R269: VPOP. -/
def execVpop (o : VOp) (s : State) : Out := vecOne o s fun a => popc o.ty.width a

/-- R269: VBREV. -/
def execVbrev (o : VOp) (s : State) : Out := vecOne o s fun a => brev o.ty.width a

/-! ## Compare and select, major 0x0A -/

/-- A form that writes a mask from a test on sources A and B. -/
def vecMask (o : VOp) (s : State) (test : Cx → Nat → Nat → Bool) : Out :=
  issue s (mDst (o.d.setWidth 4) :: vSrc o.a.toNat (regsOf o.ty.width) :: VSrc.opnds o.b (regsOf o.ty.width) ++ [mSrc o.m]) fun c =>
    let w := o.ty.width
    let a := c.elems o.ty o.a
    let b := VSrc.regs o.b c.fb w
    c.write o.look.toNat [(.m o.d.toNat, .m (c.maskOf o.m fun l => test c (elemW w a l) (elemW w b l)))]

/-- The conditions of VCMP. -/
def cmpHolds (t : Ty) (code a b : Nat) : Bool :=
  let x := tyInt t a
  let y := tyInt t b
  match code with
  | 0 => decide (x = y)
  | 1 => decide (x ≠ y)
  | 2 => decide (x < y)
  | 3 => decide (x ≤ y)
  | 4 => decide (y < x)
  | _ => decide (y ≤ x)

/-- R270: VCMP. -/
def execVcmp (o : VOp) (s : State) : Out := vecMask o s fun _ a b => cmpHolds o.ty o.c.toNat a b

/-- R270: VTEST. -/
def execVtest (o : VOp) (s : State) : Out := vecMask o s fun _ a b => decide (a &&& b ≠ 0)

/-- The shape of VSEL (R271): `p` the lanes that take A, among the active lanes `act`. -/
def selShape (a b : List VVal) (p act i : Nat) : Shape :=
  if p = act then shapeOf a i
  else if p = 0 then shapeOf b i
  else match a[i]?, b[i]? with
    | some (.uni x), some (.uni y) => if x = y then .uni else .gen
    | _, _ => .gen

/-- R271: VSEL. -/
def execVsel (o : VOp) (s : State) : Out :=
  issue s (vecOpndsAB o ++ [mSrc (o.c.setWidth 4), mSrc o.m]) fun c =>
    let w := o.ty.width
    let a := c.elems o.ty o.a
    let b := VSrc.regs o.b c.fb w
    let p := (c.fb.mreg (o.c.toNat % 16)).toNat &&& c.act o.m
    c.vector o (regsOf w) (selShape a b p (c.act o.m))
      fun l => if p.testBit l then elemW w a l else elemW w b l

end Sys2Proof.Machine
end

