-- ==== Sys2Proof/Machine/VectorFp.lean ====
section
/-! DEFINITION. Meanings of majors 0x0B to 0x10 (11 R272 to R280): floating-point arithmetic, compares and classes,
conversions, packed fields, transcendental functions and dot products. -/

namespace Sys2Proof.Machine

/-! ## Rounding forms (R272) -/

/-- The draw of .rsr in lane `l` (03 R64). -/
def Cx.draw (c : Cx) (l : Nat) : Nat := (nextSrs (c.fb.srs.getD l 0)).toNat

/-- The fibre with the SRS of the active lanes advanced once. -/
def Cx.advanceSrs (c : Cx) (m : BitVec 4) (fb : Fibre) : Fibre :=
  { fb with srs := (c.lanes m).foldl (fun t l => t.put l (nextSrs (c.fb.srs.getD l 0))) fb.srs }

/-- The result of a rounding form: under .rsr every active lane rounds on its own draw and the result is G (R267). -/
def Cx.rounded (c : Cx) (d : BitVec 8) (k : Nat) (m : BitVec 4) (rnd : Rnd) (look : BitVec 4)
    (shape : Nat → Shape) (val : Nat → Nat → Nat) : Res :=
  if rnd = .rsr then
    .ok ((c.setF (c.advanceSrs m)).writeBack c.f look.toNat
      (writeRegs c.fb c.width (c.act m) d.toNat k (fun _ => .gen) fun l => val l (c.draw l)))
  else c.write look.toNat (writeRegs c.fb c.width (c.act m) d.toNat k shape fun l => val l 0)

/-- An operand through In of R272. -/
def Cx.fpIn (c : Cx) (t : Ty) (x : Nat) : FV := ftzIn c.fb.ftz (fmtOf t) (decodeFV (fmtOf t) x)

/-- An exact result through the output rule of R272. -/
def Cx.fpOut (c : Cx) (t : Ty) (rnd : Rnd) (r : Nat) (x : FV) : Nat := ftzOut c.fb.ftz (fmtOf t) rnd false r x

/-- A rounding form of two sources. -/
def fpTwo (o : VOp) (s : State) (op : FV → FV → FV) : Out :=
  issue s (vecOpndsAB o ++ [mSrc o.m]) fun c =>
    let w := o.ty.width
    let a := c.elems o.ty o.a
    let b := VSrc.regs o.b c.fb w
    c.rounded o.d (regsOf w) o.m o.rnd o.look (shapeP [a, b] []) fun l r =>
      c.fpOut o.ty o.rnd r (op (c.fpIn o.ty (elemW w a l)) (c.fpIn o.ty (elemW w b l)))

/-- A fused form of three sources. -/
def fpThree (o : VOp) (s : State) (op : FV → FV → FV → FV) : Out :=
  issue s (vecOpndsAB o ++ [vSrc o.c.toNat (regsOf o.ty.width), mSrc o.m]) fun c =>
    let w := o.ty.width
    let a := c.elems o.ty o.a
    let b := VSrc.regs o.b c.fb w
    let e := c.elems o.ty o.c
    c.rounded o.d (regsOf w) o.m o.rnd o.look (shapeP [a, b, e] []) fun l r =>
      c.fpOut o.ty o.rnd r (op (c.fpIn o.ty (elemW w a l)) (c.fpIn o.ty (elemW w b l)) (c.fpIn o.ty (elemW w e l)))

/-- R273: VFADD. -/
def execVfadd (o : VOp) (s : State) : Out := fpTwo o s fun x y => fvAdd (o.rnd == .rdn) x y

/-- R273: VFSUB. -/
def execVfsub (o : VOp) (s : State) : Out := fpTwo o s fun x y => fvAdd (o.rnd == .rdn) x (fvNeg y)

/-- R273: VFMUL. -/
def execVfmul (o : VOp) (s : State) : Out := fpTwo o s fvMul

/-- R273: VFDIV. -/
def execVfdiv (o : VOp) (s : State) : Out := fpTwo o s fvDiv

/-- R273: VFMA. -/
def execVfma (o : VOp) (s : State) : Out := fpThree o s fun x y z => fvAdd (o.rnd == .rdn) (fvMul x y) z

/-- R273: VFMS. -/
def execVfms (o : VOp) (s : State) : Out := fpThree o s fun x y z => fvAdd (o.rnd == .rdn) (fvMul x y) (fvNeg z)

/-- R273: VFNMA. -/
def execVfnma (o : VOp) (s : State) : Out := fpThree o s fun x y z => fvAdd (o.rnd == .rdn) (fvNeg (fvMul x y)) z

/-- R273: VFNMS. -/
def execVfnms (o : VOp) (s : State) : Out :=
  fpThree o s fun x y z => fvAdd (o.rnd == .rdn) (fvNeg (fvMul x y)) (fvNeg z)

/-! ## Sign operations (R273) -/

/-- An encoding with sign bit `g` of its own; a NaN gives the canonical NaN (03 R58). -/
def withSign (t : Ty) (g : Bool → Bool) (x : Nat) : Nat :=
  let f := fmtOf t
  match decodeFV f x with
  | .nan => f.qnan
  | _ => x % 2 ^ (t.width - 1) + f.signBit (g (x.testBit (t.width - 1)))

/-- R273: VFABS. -/
def execVfabs (o : VOp) (s : State) : Out := vecOne o s fun a => withSign o.ty (fun _ => false) a

/-- R273: VFNEG. -/
def execVfneg (o : VOp) (s : State) : Out := vecOne o s fun a => withSign o.ty (fun b => !b) a

/-- R273: VFSGN. -/
def execVfsgn (o : VOp) (s : State) : Out :=
  vecTwo o s fun a b => withSign o.ty (fun _ => b.testBit (o.ty.width - 1)) a

/-! ## Compare and classify, major 0x0D -/

/-- The lesser or greater of two elements read through In (R274). -/
def Cx.fpPick (c : Cx) (t : Ty) (greater : Bool) (a b : Nat) : Nat :=
  roundTo (fmtOf t) .rne false 0 (fvPick greater (c.fpIn t a) (c.fpIn t b))

/-- VFMIN and VFMAX. -/
def fpPickForm (o : VOp) (s : State) (greater : Bool) : Out :=
  issue s (vecOpndsAB o ++ [mSrc o.m]) fun c =>
    let w := o.ty.width
    let a := c.elems o.ty o.a
    let b := VSrc.regs o.b c.fb w
    let val (l : Nat) : Nat := c.fpPick o.ty greater (elemW w a l) (elemW w b l)
    c.vector o (regsOf w) (shapeP [a, b] []) val

/-- R274: VFMIN. -/
def execVfmin (o : VOp) (s : State) : Out := fpPickForm o s false

/-- R274: VFMAX. -/
def execVfmax (o : VOp) (s : State) : Out := fpPickForm o s true

/-- Whether a value is NaN. -/
def FV.isNan : FV → Bool
  | .nan => true
  | _ => false

/-- The conditions of VFCMP (R275). -/
def fcmpHolds (code : Nat) (x y : FV) : Bool :=
  let un := x.isNan || y.isNan
  match code with
  | 0 => !un && fvEq x y
  | 1 => un || !fvEq x y
  | 2 => !un && fvLt x y
  | 3 => !un && (fvLt x y || fvEq x y)
  | 4 => !un && fvLt y x
  | 5 => !un && (fvLt y x || fvEq x y)
  | 6 => !un
  | _ => un

/-- R275: VFCMP. -/
def execVfcmp (o : VOp) (s : State) : Out :=
  vecMask o s fun c a b => fcmpHolds o.c.toNat (c.fpIn o.ty a) (c.fpIn o.ty b)

/-- The class word of an encoding (R276). -/
def classWord (f : Fmt) (x : Nat) : Nat :=
  match decodeFV f x with
  | .inf true => 1
  | .fin true m e => if f.below m e then 4 else 2
  | .zero true => 8
  | .zero false => 16
  | .fin false m e => if f.below m e then 32 else 64
  | .inf false => 128
  | .nan => 256

/-- R276: VFCLASS. -/
def execVfclass (o : VOp) (s : State) : Out :=
  issue s [vDst o.d.toNat 1, vSrc o.a.toNat (regsOf o.ty.width), mSrc o.m] fun c =>
    let w := o.ty.width
    let a := c.elems o.ty o.a
    let val (l : Nat) : Nat := classWord (fmtOf o.ty) (elemW w a l)
    c.vector o 1 (shapeP [] a) val

/-! ## Conversions, major 0x0E -/

/-- The element that VCVT writes (R277); `r` is the draw of .rsr. -/
def convert (o : CvtOp) (ftz : Bool) (r x : Nat) : Nat :=
  let n := o.ty.width
  if o.src = .x128 then (Anc.ofBits x).drain 32 o.ty o.rnd o.sat r
  else if o.ty = .x128 then (Anc.add 32 Anc.zero (.val (valueOf o.src x))).bits
  else if o.ty = .e8m0 then cvtToE8m0 (valueOf o.src x)
  else if o.src = .e8m0 then roundTo (fmtOf o.ty) o.rnd o.sat r (decodeE8m0 x)
  else if o.src.isFL then
    let v := ftzIn ftz (fmtOf o.src) (valueOf o.src x)
    if o.ty.isFL then ftzOut ftz (fmtOf o.ty) o.rnd o.sat r v else wrapTo n (cvtToInt n o.ty.signed o.rnd r v)
  else if o.ty.isFL then ftzOut ftz (fmtOf o.ty) o.rnd o.sat r (valueOf o.src x)
  else
    let v := tyInt o.src x
    wrapTo n (if o.sat then satTo n o.ty.signed v else v)

/-- R277: VCVT. Halves of a pair take rule P each where both sides are pairs; else the source must be U as a whole. -/
def execVcvt (o : CvtOp) (s : State) : Out :=
  issue s [vDst o.d.toNat (regsOf o.ty.width), vSrc o.a.toNat (regsOf o.src.width), mSrc o.m] fun c =>
    let w := o.src.width
    let a := c.elems o.src o.a
    let shape := if o.ty.width = w then shapeP [a] [] else shapeP [] a
    c.rounded o.d (regsOf o.ty.width) o.m o.rnd o.look shape fun l r => convert o c.fb.ftz r (elemW w a l)

/-- The word `a` with field `k` of width `w` replaced by `b` (R278). -/
def packField (w a b k : Nat) : Nat :=
  let p := w * k
  let x := a % 2 ^ p + b % 2 ^ w * 2 ^ p + a / 2 ^ (p + w) * 2 ^ (p + w)
  if w = 6 then x % 2 ^ 24 else x

/-- R278: VPACK. -/
def execVpack (o : VOp) (s : State) : Out :=
  issue s (vecOpndsAB o ++ [mSrc o.m]) fun c =>
    let b := VSrc.regs o.b c.fb o.ty.width
    let val (l : Nat) : Nat := packField o.ty.width (c.word32 o.a l) (elemW o.ty.width b l) o.c.toNat
    c.vector o 1 (shapeP [[c.fb.vreg o.a.toNat], b] []) val

/-- R278: VUNPK. -/
def execVunpk (o : VOp) (s : State) : Out :=
  issue s (vecOpndsA o ++ [mSrc o.m]) fun c =>
    let val (l : Nat) : Nat := packedElem o.ty.width o.c.toNat (c.word32 o.a l)
    c.vector o 1 (shapeP [[c.fb.vreg o.a.toNat]] []) val

/-! ## Transcendental functions, major 0x0F (R279, 03 R79) -/

/-- A form that rounds once and is no correctly rounded function in .f32. -/
def transForm (o : VOp) (s : State) (op : TransOp) : Out :=
  issue s (vecOpndsA o ++ [mSrc o.m]) fun c =>
    let w := o.ty.width
    let a := c.elems o.ty o.a
    let val (l : Nat) : Nat := transcend op o.ty c.fb.ftz (elemW w a l)
    c.vector o (regsOf w) (shapeP [a] []) val

/-- R279: VEXP2. -/
def execVexp2 (o : VOp) (s : State) : Out := transForm o s .exp2

/-- R279: VLOG2. -/
def execVlog2 (o : VOp) (s : State) : Out := transForm o s .log2

/-- R279: VRCP. -/
def execVrcp (o : VOp) (s : State) : Out := transForm o s .rcp

/-- R279: VRSQ. -/
def execVrsq (o : VOp) (s : State) : Out := transForm o s .rsq

/-- R279: VSQRT. -/
def execVsqrt (o : VOp) (s : State) : Out :=
  issue s (vecOpndsA o ++ [mSrc o.m]) fun c =>
    let w := o.ty.width
    let a := c.elems o.ty o.a
    c.rounded o.d (regsOf w) o.m o.rnd o.look (shapeP [a] []) fun l r =>
      c.fpOut o.ty o.rnd r (fvSqrt (c.fpIn o.ty (elemW w a l)))

/-! ## Dot products, major 0x10 (R280) -/

/-- The integer dot product. -/
def dotInt (o : VOp) (n a b e : Nat) : Nat :=
  let g := o.ty.signed
  let w := o.ty.width
  let x := (List.range n).foldl (fun (x : Int) k => x + intOf w g (packedElem w k a) * intOf w g (packedElem w k b)) (intOf 32 g e)
  wrapTo 32 (if o.sat then satTo 32 g x else x)

/-- The exact sum of the exact products. -/
def Cx.dotSum (c : Cx) (o : VOp) (n a b e : Nat) : FV :=
  let t := o.ty
  (List.range n).foldl (fun x k =>
    fvAdd (o.rnd == .rdn) x (fvMul (c.fpIn t (packedElem t.width k a)) (c.fpIn t (packedElem t.width k b)))) (c.fpIn .f32 e)

/-- A dot product of `n` elements; source B is read as a 32-bit word (log entry 11). -/
def dotForm (o : VOp) (s : State) (n : Nat) : Out :=
  issue s ([vDst o.d.toNat 1, vSrc o.a.toNat 1] ++ VSrc.opnds o.b 1 ++ [vSrc o.c.toNat 1, mSrc o.m]) fun c =>
    let b := c.control o.b
    let shape := shapeP [[c.fb.vreg o.a.toNat], [b], [c.fb.vreg o.c.toNat]] []
    c.rounded o.d 1 o.m o.rnd o.look shape fun l r =>
      let x := c.word32 o.a l
      let y := (b.lane l).toNat
      let z := c.word32 o.c l
      if o.ty.isInt then dotInt o n x y z else c.fpOut .f32 o.rnd r (c.dotSum o n x y z)

/-- R280: VDOT2. -/
def execVdot2 (o : VOp) (s : State) : Out := dotForm o s 2

/-- R280: VDOT4. -/
def execVdot4 (o : VOp) (s : State) : Out := dotForm o s 4

end Sys2Proof.Machine
end

