-- ==== Sys2Proof/Machine/VectorLane.lean ====
section
/-! DEFINITION. Meanings of majors 0x11 to 0x14 (11 R281 to R286): moves and lane state, lane permutation, scans and
reductions, match, compaction and ballot. -/

namespace Sys2Proof.Machine

/-! ## Moves and lane state, major 0x11 (R281) -/

/-- R281: VMOV. -/
def execVmov (o : VOp) (s : State) : Out :=
  issue s (vDst o.d.toNat (regsOf o.ty.width) :: VSrc.opnds o.b (regsOf o.ty.width) ++ [mSrc o.m]) fun c =>
    let w := o.ty.width
    let b := VSrc.regs o.b c.fb w
    c.vector o (regsOf w) (shapeS o.ty b) (elemW w b)

/-- The lane that a scalar or immediate control operand names. -/
def Cx.laneOf (c : Cx) (b : VSrc) : Nat := ((c.control b).lane 0).toNat % c.width

/-- R281: VBCAST. -/
def execVbcast (o : VOp) (s : State) : Out :=
  issue s (vecOpndsACtl o ++ [mSrc o.m]) fun c =>
    let w := o.ty.width
    let x := elemW w (c.elems o.ty o.a) (c.laneOf o.b)
    c.vector o (regsOf w) (fun _ => .uni) fun _ => x

/-- The shape of VIOTA with stride `k`. -/
def iotaShape (b : VVal) (k : Lane) : Shape :=
  match b.affine with
  | some x => mkShape x.1 (x.2 + k)
  | none => .gen

/-- R281: VIOTA. -/
def execViota (o : VOp) (s : State) : Out :=
  issue s (vDst o.d.toNat 1 :: VSrc.opnds o.b 1 ++ [mSrc o.m]) fun c =>
    let b := c.control o.b
    let k : Lane := o.c.signExtend 32
    c.vector o 1 (fun _ => iotaShape b k) fun l => (b.lane l + k * BitVec.ofNat 32 l).toNat

/-- R281: VGETSRS. -/
def execVgetsrs (o : VOp) (s : State) : Out :=
  issue s [vDst o.d.toNat 1, mSrc o.m] fun c => c.vector o 1 (fun _ => .gen) fun l => (c.fb.srs.getD l 0).toNat

/-- R281, 03 R63: VSETSRS. -/
def execVsetsrs (o : VOp) (s : State) : Out :=
  issue s [vSrc o.a.toNat 1, mSrc o.m] fun c =>
    .ok (c.setF fun fb => { fb with srs := (c.lanes o.m).foldl (fun t l =>
      let x := (c.fb.vreg o.a.toNat).lane l
      t.put l (if x = 0 then 1 else x)) fb.srs })

/-- R281: VLANE. -/
def execVlane (o : VOp) (s : State) : Out :=
  issue s (sDst (o.d.setWidth 6) :: vSrc o.a.toNat (regsOf o.ty.width) :: VSrc.opnds o.b 1) fun c =>
    let w := o.ty.width
    c.writeS o.look (o.d.setWidth 6) (extend w o.ty.signed (elemW w (c.elems o.ty o.a) (c.laneOf o.b)))

/-- R281: VINS. -/
def execVins (o : VOp) (s : State) : Out :=
  issue s (vDst o.d.toNat (regsOf o.ty.width) :: sSrc (o.a.setWidth 6) :: VSrc.opnds o.b 1) fun c =>
    let w := o.ty.width
    let x := (c.sreg (o.a.setWidth 6)).toNat % 2 ^ w
    c.write o.look.toNat (writeRegs c.fb c.width (2 ^ c.laneOf o.b) o.d.toNat (regsOf w) (fun _ => .gen) fun _ => x)

/-! ## Lane permutation, major 0x12 (R282) -/

/-- A permutation: `src` is the lane that lane l receives from, none for zero. -/
def permute (o : VOp) (s : State) (keeps : Bool) (src : Nat → Nat → Nat → Option Nat) : Out :=
  issue s (vecOpndsACtl o ++ [mSrc o.m]) fun c =>
    let w := o.ty.width
    let a := c.elems o.ty o.a
    let b := c.control o.b
    let val (l : Nat) : Nat := match src c.width l (b.lane l).toNat with
      | some j => elemW w a j
      | none => 0
    c.vector o (regsOf w) (if keeps then shapeP [a] [] else fun _ => .gen) val

/-- R282: VSHUF. -/
def execVshuf (o : VOp) (s : State) : Out := permute o s true fun w _ b => some (b % w)

/-- R282: VROTL. -/
def execVrotl (o : VOp) (s : State) : Out := permute o s true fun w l b => some ((l + b) % w)

/-- R282: VSHUP. -/
def execVshup (o : VOp) (s : State) : Out := permute o s false fun _ l b => if b ≤ l then some (l - b) else none

/-- R282: VSHDN. -/
def execVshdn (o : VOp) (s : State) : Out := permute o s false fun w l b => if l + b < w then some (l + b) else none

/-- R282: VBFLY. -/
def execVbfly (o : VOp) (s : State) : Out := permute o s true fun w l b => some (l ^^^ (b % w))

/-! ## Scan and reduce, major 0x13 (R283, R284) -/

/-- Whether the operator code is exclusive. -/
def scanExclusive (code : BitVec 8) : Bool := decide (8 ≤ code.toNat)

/-- An element as the first operand of a combination: through In, with a NaN canonical. -/
def Cx.scanIn (c : Cx) (t : Ty) (x : Nat) : Nat :=
  if t.isInt then x else roundTo (fmtOf t) .rne false 0 (c.fpIn t x)

/-- Op of R283 on two elements. -/
def Cx.scanOp (c : Cx) (t : Ty) (rnd : Rnd) (code : Nat) (x y : Nat) : Nat :=
  let w := t.width
  match code % 8 with
  | 0 => if t.isInt then (x + y) % 2 ^ w else c.fpOut t rnd 0 (fvAdd (rnd == .rdn) (c.fpIn t x) (c.fpIn t y))
  | 1 => if t.isInt then pick w t.signed false x y else c.fpPick t false x y
  | 2 => if t.isInt then pick w t.signed true x y else c.fpPick t true x y
  | 3 => x &&& y
  | 4 => x ||| y
  | _ => x ^^^ y

/-- FirstValue of R283. -/
def scanFirst (t : Ty) (code : Nat) : Nat :=
  let w := t.width
  match code % 8 with
  | 0 => 0
  | 1 => if t.isInt then wrapTo w (maxOf w t.signed) else (fmtOf t).infCode false false
  | 2 => if t.isInt then wrapTo w (minOf w t.signed) else (fmtOf t).infCode false true
  | 3 => 2 ^ w - 1
  | _ => 0

/-- The values that VSCAN writes, by lane, over the lanes `ls`. -/
def scanOver (op : Nat → Nat → Nat) (excl : Bool) (first : Nat) (x : Nat → Nat) : Option Nat → List Nat → Tbl Nat
  | _, [] => []
  | acc, l :: ls =>
    let next := match acc with
      | some a => op a (x l)
      | none => x l
    (l, if excl then acc.getD first else next) :: scanOver op excl first x (some next) ls

/-- R284: VSCAN. -/
def execVscan (o : VOp) (s : State) : Out :=
  issue s (vecOpndsA o ++ [mSrc o.m]) fun c =>
    let w := o.ty.width
    let a := c.elems o.ty o.a
    let t := scanOver (c.scanOp o.ty o.rnd o.c.toNat) (scanExclusive o.c) (scanFirst o.ty o.c.toNat)
      (fun l => c.scanIn o.ty (elemW w a l)) none (c.lanes o.m)
    c.vector o (regsOf w) (fun _ => .gen) fun l => t.getD l 0

/-- Comb of R284. -/
def comb (op : Nat → Nat → Nat) : Option Nat → Option Nat → Option Nat
  | none, y => y
  | x, none => x
  | some x, some y => some (op x y)

/-- One level of the tree of R284. -/
def redLevel (op : Nat → Nat → Nat) : List (Option Nat) → List (Option Nat)
  | x :: y :: l => comb op x y :: redLevel op l
  | l => l

/-- The tree of R284, `k` levels. -/
def redTree (op : Nat → Nat → Nat) : Nat → List (Option Nat) → Option Nat
  | 0, l => l.headD none
  | k + 1, l => redTree op k (redLevel op l)

/-- R284: VRED. -/
def execVred (o : VOp) (s : State) : Out :=
  issue s (vecOpndsA o ++ [mSrc o.m]) fun c =>
    let w := o.ty.width
    let a := c.elems o.ty o.a
    let leaf (l : Nat) : Option Nat := if (c.act o.m).testBit l then some (c.scanIn o.ty (elemW w a l)) else none
    let r := redTree (c.scanOp o.ty o.rnd o.c.toNat) 7 (tabulate c.width leaf)
    c.vector o (regsOf w) (fun _ => .uni) fun _ => r.getD 0

/-! ## Match, compaction and ballot, major 0x14 -/

/-- R285: VMATCH. -/
def execVmatch (o : VOp) (s : State) : Out :=
  issue s [mDst (o.d.setWidth 4), vSrc o.a.toNat (regsOf o.ty.width), vDst o.c.toNat 1, mSrc o.m] fun c =>
    let w := o.ty.width
    let a := c.elems o.ty o.a
    let ls := c.lanes o.m
    let same (l : Nat) : List Nat := ls.filter fun j => elemW w a j == elemW w a l
    let val (l : Nat) : Nat := (same l).length
    c.write o.look.toNat ((.m o.d.toNat, .m (c.maskOf o.m fun l => (same l).head? == some l))
      :: writeRegs c.fb c.width (c.act o.m) o.c.toNat 1 (shapeP [] a) val)

/-- R286: VCOMPACT. It writes every lane of M0. -/
def execVcompact (o : VOp) (s : State) : Out :=
  issue s (vecOpndsA o ++ [mSrc o.m]) fun c =>
    let w := o.ty.width
    let a := c.elems o.ty o.a
    let ls := c.lanes o.m
    let shape (i : Nat) : Shape := if c.act o.m = c.fb.live then shapeP [a] [] i else .gen
    c.write o.look.toNat (writeRegs c.fb c.width c.fb.live o.d.toNat (regsOf w) shape fun j =>
      match ls[j]? with
      | some l => elemW w a l
      | none => 0)

/-- R286: VEXPAND. -/
def execVexpand (o : VOp) (s : State) : Out :=
  issue s (vecOpndsA o ++ [mSrc o.m]) fun c =>
    let w := o.ty.width
    let a := c.elems o.ty o.a
    let val (l : Nat) : Nat := elemW w a (popBelow (c.act o.m) l)
    c.vector o (regsOf w) (shapeP [a] []) val

/-- R286: VBALLOT. -/
def execVballot (o : VOp) (s : State) : Out :=
  issue s [sDst (o.d.setWidth 6), vSrc o.a.toNat (regsOf o.ty.width), mSrc o.m] fun c =>
    let w := o.ty.width
    let a := c.elems o.ty o.a
    c.writeS o.look (o.d.setWidth 6) ((c.maskOf o.m fun l => decide (elemW w a l ≠ 0)).extractLsb' (64 * o.c.toNat) 64)

end Sys2Proof.Machine
end

