-- ==== Sys2Proof/Machine/Dispatch.lean ====
section
/-! DEFINITION. The meaning of every instruction and event, one arm for each constructor of Instr. -/

namespace Sys2Proof.Machine

def exec (i : Instr) (s : State) : Host.Outcome State Fault Refusal :=
  match i with
  | .b o => Sys2Proof.Machine.execB o s
  | .bmz o => Sys2Proof.Machine.execBmz o s
  | .bmnz o => Sys2Proof.Machine.execBmnz o s
  | .bmall o => Sys2Proof.Machine.execBmall o s
  | .bmnall o => Sys2Proof.Machine.execBmnall o s
  | .bri o => Sys2Proof.Machine.execBri o s
  | .call o => Sys2Proof.Machine.execCall o s
  | .calli o => Sys2Proof.Machine.execCalli o s
  | .ret o => Sys2Proof.Machine.execRet o s
  | .loop o => Sys2Proof.Machine.execLoop o s
  | .spawn o => Sys2Proof.Machine.execSpawn o s
  | .upret o => Sys2Proof.Machine.execUpret o s
  | .trap o => Sys2Proof.Machine.execTrap o s
  | .sysc o => Sys2Proof.Machine.execSysc o s
  | .launch o => Sys2Proof.Machine.execLaunch o s
  | .sadd o => Sys2Proof.Machine.execSadd o s
  | .ssub o => Sys2Proof.Machine.execSsub o s
  | .smul o => Sys2Proof.Machine.execSmul o s
  | .smulh o => Sys2Proof.Machine.execSmulh o s
  | .smulhu o => Sys2Proof.Machine.execSmulhu o s
  | .sdiv o => Sys2Proof.Machine.execSdiv o s
  | .sdivu o => Sys2Proof.Machine.execSdivu o s
  | .srem o => Sys2Proof.Machine.execSrem o s
  | .sremu o => Sys2Proof.Machine.execSremu o s
  | .sand o => Sys2Proof.Machine.execSand o s
  | .sor o => Sys2Proof.Machine.execSor o s
  | .sxor o => Sys2Proof.Machine.execSxor o s
  | .sandn o => Sys2Proof.Machine.execSandn o s
  | .sshl o => Sys2Proof.Machine.execSshl o s
  | .sshr o => Sys2Proof.Machine.execSshr o s
  | .ssra o => Sys2Proof.Machine.execSsra o s
  | .srot o => Sys2Proof.Machine.execSrot o s
  | .smin o => Sys2Proof.Machine.execSmin o s
  | .smax o => Sys2Proof.Machine.execSmax o s
  | .sminu o => Sys2Proof.Machine.execSminu o s
  | .smaxu o => Sys2Proof.Machine.execSmaxu o s
  | .sclz o => Sys2Proof.Machine.execSclz o s
  | .sctz o => Sys2Proof.Machine.execSctz o s
  | .spop o => Sys2Proof.Machine.execSpop o s
  | .sext o => Sys2Proof.Machine.execSext o s
  | .smov o => Sys2Proof.Machine.execSmov o s
  | .sli o => Sys2Proof.Machine.execSli o s
  | .sadr o => Sys2Proof.Machine.execSadr o s
  | .sgetsr o => Sys2Proof.Machine.execSgetsr o s
  | .ssetsr o => Sys2Proof.Machine.execSsetsr o s
  | .ssel o => Sys2Proof.Machine.execSsel o s
  | .scmp o => Sys2Proof.Machine.execScmp o s
  | .scmn o => Sys2Proof.Machine.execScmn o s
  | .stst o => Sys2Proof.Machine.execStst o s
  | .kand o => Sys2Proof.Machine.execKand o s
  | .kor o => Sys2Proof.Machine.execKor o s
  | .kxor o => Sys2Proof.Machine.execKxor o s
  | .kandn o => Sys2Proof.Machine.execKandn o s
  | .knot o => Sys2Proof.Machine.execKnot o s
  | .kmov o => Sys2Proof.Machine.execKmov o s
  | .kpop o => Sys2Proof.Machine.execKpop o s
  | .kfirst o => Sys2Proof.Machine.execKfirst o s
  | .kfroms o => Sys2Proof.Machine.execKfroms o s
  | .ktos o => Sys2Proof.Machine.execKtos o s
  | .vadd o => Sys2Proof.Machine.execVadd o s
  | .vsub o => Sys2Proof.Machine.execVsub o s
  | .vmul o => Sys2Proof.Machine.execVmul o s
  | .vmulh o => Sys2Proof.Machine.execVmulh o s
  | .vmad o => Sys2Proof.Machine.execVmad o s
  | .vabs o => Sys2Proof.Machine.execVabs o s
  | .vneg o => Sys2Proof.Machine.execVneg o s
  | .vmin o => Sys2Proof.Machine.execVmin o s
  | .vmax o => Sys2Proof.Machine.execVmax o s
  | .vavg o => Sys2Proof.Machine.execVavg o s
  | .vabsd o => Sys2Proof.Machine.execVabsd o s
  | .vdiv o => Sys2Proof.Machine.execVdiv o s
  | .vrem o => Sys2Proof.Machine.execVrem o s
  | .vand o => Sys2Proof.Machine.execVand o s
  | .vor o => Sys2Proof.Machine.execVor o s
  | .vxor o => Sys2Proof.Machine.execVxor o s
  | .vandn o => Sys2Proof.Machine.execVandn o s
  | .vnot o => Sys2Proof.Machine.execVnot o s
  | .vshl o => Sys2Proof.Machine.execVshl o s
  | .vshr o => Sys2Proof.Machine.execVshr o s
  | .vrot o => Sys2Proof.Machine.execVrot o s
  | .vbext o => Sys2Proof.Machine.execVbext o s
  | .vbins o => Sys2Proof.Machine.execVbins o s
  | .vclz o => Sys2Proof.Machine.execVclz o s
  | .vctz o => Sys2Proof.Machine.execVctz o s
  | .vpop o => Sys2Proof.Machine.execVpop o s
  | .vbrev o => Sys2Proof.Machine.execVbrev o s
  | .vcmp o => Sys2Proof.Machine.execVcmp o s
  | .vtest o => Sys2Proof.Machine.execVtest o s
  | .vsel o => Sys2Proof.Machine.execVsel o s
  | .vfadd o => Sys2Proof.Machine.execVfadd o s
  | .vfsub o => Sys2Proof.Machine.execVfsub o s
  | .vfmul o => Sys2Proof.Machine.execVfmul o s
  | .vfdiv o => Sys2Proof.Machine.execVfdiv o s
  | .vfabs o => Sys2Proof.Machine.execVfabs o s
  | .vfneg o => Sys2Proof.Machine.execVfneg o s
  | .vfsgn o => Sys2Proof.Machine.execVfsgn o s
  | .vfma o => Sys2Proof.Machine.execVfma o s
  | .vfms o => Sys2Proof.Machine.execVfms o s
  | .vfnma o => Sys2Proof.Machine.execVfnma o s
  | .vfnms o => Sys2Proof.Machine.execVfnms o s
  | .vfmin o => Sys2Proof.Machine.execVfmin o s
  | .vfmax o => Sys2Proof.Machine.execVfmax o s
  | .vfcmp o => Sys2Proof.Machine.execVfcmp o s
  | .vfclass o => Sys2Proof.Machine.execVfclass o s
  | .vcvt o => Sys2Proof.Machine.execVcvt o s
  | .vpack o => Sys2Proof.Machine.execVpack o s
  | .vunpk o => Sys2Proof.Machine.execVunpk o s
  | .vexp2 o => Sys2Proof.Machine.execVexp2 o s
  | .vlog2 o => Sys2Proof.Machine.execVlog2 o s
  | .vrcp o => Sys2Proof.Machine.execVrcp o s
  | .vrsq o => Sys2Proof.Machine.execVrsq o s
  | .vsqrt o => Sys2Proof.Machine.execVsqrt o s
  | .vdot2 o => Sys2Proof.Machine.execVdot2 o s
  | .vdot4 o => Sys2Proof.Machine.execVdot4 o s
  | .vmov o => Sys2Proof.Machine.execVmov o s
  | .vbcast o => Sys2Proof.Machine.execVbcast o s
  | .viota o => Sys2Proof.Machine.execViota o s
  | .vgetsrs o => Sys2Proof.Machine.execVgetsrs o s
  | .vsetsrs o => Sys2Proof.Machine.execVsetsrs o s
  | .vlane o => Sys2Proof.Machine.execVlane o s
  | .vins o => Sys2Proof.Machine.execVins o s
  | .vshuf o => Sys2Proof.Machine.execVshuf o s
  | .vrotl o => Sys2Proof.Machine.execVrotl o s
  | .vshup o => Sys2Proof.Machine.execVshup o s
  | .vshdn o => Sys2Proof.Machine.execVshdn o s
  | .vbfly o => Sys2Proof.Machine.execVbfly o s
  | .vscan o => Sys2Proof.Machine.execVscan o s
  | .vred o => Sys2Proof.Machine.execVred o s
  | .vmatch o => Sys2Proof.Machine.execVmatch o s
  | .vcompact o => Sys2Proof.Machine.execVcompact o s
  | .vexpand o => Sys2Proof.Machine.execVexpand o s
  | .vballot o => Sys2Proof.Machine.execVballot o s
  | .vlds o => Sys2Proof.Machine.execVlds o s
  | .vsts o => Sys2Proof.Machine.execVsts o s
  | .vldsu o => Sys2Proof.Machine.execVldsu o s
  | .vldg o => Sys2Proof.Machine.execVldg o s
  | .vstg o => Sys2Proof.Machine.execVstg o s
  | .vldgu o => Sys2Proof.Machine.execVldgu o s
  | .vpref o => Sys2Proof.Machine.execVpref o s
  | .vldp o => Sys2Proof.Machine.execVldp o s
  | .vstp o => Sys2Proof.Machine.execVstp o s
  | .sldg o => Sys2Proof.Machine.execSldg o s
  | .sstg o => Sys2Proof.Machine.execSstg o s
  | .slds o => Sys2Proof.Machine.execSlds o s
  | .ssts o => Sys2Proof.Machine.execSsts o s
  | .atlLd o => Sys2Proof.Machine.execAtlLd o s
  | .atlSt o => Sys2Proof.Machine.execAtlSt o s
  | .atlXchg o => Sys2Proof.Machine.execAtlXchg o s
  | .atlCas o => Sys2Proof.Machine.execAtlCas o s
  | .atlAdd o => Sys2Proof.Machine.execAtlAdd o s
  | .atlAnd o => Sys2Proof.Machine.execAtlAnd o s
  | .atlOr o => Sys2Proof.Machine.execAtlOr o s
  | .atlXor o => Sys2Proof.Machine.execAtlXor o s
  | .atlMin o => Sys2Proof.Machine.execAtlMin o s
  | .atlMax o => Sys2Proof.Machine.execAtlMax o s
  | .atlFadd o => Sys2Proof.Machine.execAtlFadd o s
  | .atlFmin o => Sys2Proof.Machine.execAtlFmin o s
  | .atlFmax o => Sys2Proof.Machine.execAtlFmax o s
  | .atgLd o => Sys2Proof.Machine.execAtgLd o s
  | .atgSt o => Sys2Proof.Machine.execAtgSt o s
  | .atgXchg o => Sys2Proof.Machine.execAtgXchg o s
  | .atgCas o => Sys2Proof.Machine.execAtgCas o s
  | .atgAdd o => Sys2Proof.Machine.execAtgAdd o s
  | .atgAnd o => Sys2Proof.Machine.execAtgAnd o s
  | .atgOr o => Sys2Proof.Machine.execAtgOr o s
  | .atgXor o => Sys2Proof.Machine.execAtgXor o s
  | .atgMin o => Sys2Proof.Machine.execAtgMin o s
  | .atgMax o => Sys2Proof.Machine.execAtgMax o s
  | .atgFadd o => Sys2Proof.Machine.execAtgFadd o s
  | .atgFmin o => Sys2Proof.Machine.execAtgFmin o s
  | .atgFmax o => Sys2Proof.Machine.execAtgFmax o s
  | .redgAdd o => Sys2Proof.Machine.execRedgAdd o s
  | .redgAnd o => Sys2Proof.Machine.execRedgAnd o s
  | .redgOr o => Sys2Proof.Machine.execRedgOr o s
  | .redgXor o => Sys2Proof.Machine.execRedgXor o s
  | .redgMin o => Sys2Proof.Machine.execRedgMin o s
  | .redgMax o => Sys2Proof.Machine.execRedgMax o s
  | .redgFadd o => Sys2Proof.Machine.execRedgFadd o s
  | .redgFmin o => Sys2Proof.Machine.execRedgFmin o s
  | .redgFmax o => Sys2Proof.Machine.execRedgFmax o s
  | .acrIadd32 o => Sys2Proof.Machine.execAcrIadd32 o s
  | .acrIadd64 o => Sys2Proof.Machine.execAcrIadd64 o s
  | .acrFadd32 o => Sys2Proof.Machine.execAcrFadd32 o s
  | .acrXadd o => Sys2Proof.Machine.execAcrXadd o s
  | .acrFmin32 o => Sys2Proof.Machine.execAcrFmin32 o s
  | .acrFmax32 o => Sys2Proof.Machine.execAcrFmax32 o s
  | .acrImins o => Sys2Proof.Machine.execAcrImins o s
  | .acrIminu o => Sys2Proof.Machine.execAcrIminu o s
  | .acrImaxs o => Sys2Proof.Machine.execAcrImaxs o s
  | .acrImaxu o => Sys2Proof.Machine.execAcrImaxu o s
  | .acrOr o => Sys2Proof.Machine.execAcrOr o s
  | .acrAnd o => Sys2Proof.Machine.execAcrAnd o s
  | .acrXor o => Sys2Proof.Machine.execAcrXor o s
  | .lck o => Sys2Proof.Machine.execLck o s
  | .lckcan o => Sys2Proof.Machine.execLckcan o s
  | .ulk o => Sys2Proof.Machine.execUlk o s
  | .bindWeir o => Sys2Proof.Machine.execBindWeir o s
  | .bindLock o => Sys2Proof.Machine.execBindLock o s
  | .bindSync o => Sys2Proof.Machine.execBindSync o s
  | .unbind o => Sys2Proof.Machine.execUnbind o s
  | .fenceAcq o => Sys2Proof.Machine.execFenceAcq o s
  | .fenceRel o => Sys2Proof.Machine.execFenceRel o s
  | .fenceAr o => Sys2Proof.Machine.execFenceAr o s
  | .winit o => Sys2Proof.Machine.execWinit o s
  | .warr o => Sys2Proof.Machine.execWarr o s
  | .warrLanes o => Sys2Proof.Machine.execWarrLanes o s
  | .warrFar o => Sys2Proof.Machine.execWarrFar o s
  | .warrFarLanes o => Sys2Proof.Machine.execWarrFarLanes o s
  | .wwait o => Sys2Proof.Machine.execWwait o s
  | .wqryLo o => Sys2Proof.Machine.execWqryLo o s
  | .wqryHi o => Sys2Proof.Machine.execWqryHi o s
  | .wqryHandle o => Sys2Proof.Machine.execWqryHandle o s
  | .waitoc o => Sys2Proof.Machine.execWaitoc o s
  | .flcopy1d o => Sys2Proof.Machine.execFlcopy1d o s
  | .flcopy2d o => Sys2Proof.Machine.execFlcopy2d o s
  | .flcopy3d o => Sys2Proof.Machine.execFlcopy3d o s
  | .flwait o => Sys2Proof.Machine.execFlwait o s
  | .gather o => Sys2Proof.Machine.execGather o s
  | .scatter o => Sys2Proof.Machine.execScatter o s
  | .mxloadb o => Sys2Proof.Machine.execMxloadb o s
  | .mxinit o => Sys2Proof.Machine.execMxinit o s
  | .mxmul o => Sys2Proof.Machine.execMxmul o s
  | .mxloop o => Sys2Proof.Machine.execMxloop o s
  | .mxdrain o => Sys2Proof.Machine.execMxdrain o s
  | .mxswap o => Sys2Proof.Machine.execMxswap o s
  | .mxzero o => Sys2Proof.Machine.execMxzero o s
  | .mxstat o => Sys2Proof.Machine.execMxstat o s
  | .mcsr o => Sys2Proof.Machine.execMcsr o s
  | .mclr o => Sys2Proof.Machine.execMclr o s
  | .iold o => Sys2Proof.Machine.execIold o s
  | .iost o => Sys2Proof.Machine.execIost o s
  | .dbell o => Sys2Proof.Machine.execDbell o s
  | .lvLd o => Sys2Proof.Machine.execLvLd o s
  | .lvSt o => Sys2Proof.Machine.execLvSt o s
  | .lvMove o => Sys2Proof.Machine.execLvMove o s
  | .lvStep o => Sys2Proof.Machine.execLvStep o s
  | .lvDrop o => Sys2Proof.Machine.execLvDrop o s
  | .lvNarrow o => Sys2Proof.Machine.execLvNarrow o s
  | .lvNarrowx o => Sys2Proof.Machine.execLvNarrowx o s
  | .lvLock o => Sys2Proof.Machine.execLvLock o s
  | .lvOpen o => Sys2Proof.Machine.execLvOpen o s
  | .lvInfo o => Sys2Proof.Machine.execLvInfo o s
  | .lvUntag o => Sys2Proof.Machine.execLvUntag o s
  | .lvSame o => Sys2Proof.Machine.execLvSame o s
  | .fend => Sys2Proof.Machine.execFend s
  | .yield => Sys2Proof.Machine.execYield s
  | .halt => Sys2Proof.Machine.execHalt s
  | .nop => Sys2Proof.Machine.execNop s
  | .bkpt => Sys2Proof.Machine.execBkpt s
  | .flseal => Sys2Proof.Machine.execFlseal s
  | .flstage => Sys2Proof.Machine.execFlstage s
  | .holdTimeout => Sys2Proof.Machine.execHoldTimeout s
  | .pendingResultWrite => Sys2Proof.Machine.execPendingResultWrite s
  | .upcallPost => Sys2Proof.Machine.execUpcallPost s
  | .upcallReflect => Sys2Proof.Machine.execUpcallReflect s
  | .trapResume => Sys2Proof.Machine.execTrapResume s
  | .workgroupEnd => Sys2Proof.Machine.execWorkgroupEnd s
  | .lqpostWrite => Sys2Proof.Machine.execLqpostWrite s
  | .launchAnswer => Sys2Proof.Machine.execLaunchAnswer s
  | .furrowPlace => Sys2Proof.Machine.execFurrowPlace s
  | .workSteal => Sys2Proof.Machine.execWorkSteal s
  | .dieShareStart => Sys2Proof.Machine.execDieShareStart s
  | .furrowPreempt => Sys2Proof.Machine.execFurrowPreempt s
  | .pcmdSwapGang => Sys2Proof.Machine.execPcmdSwapGang s
  | .pcmdDrain => Sys2Proof.Machine.execPcmdDrain s
  | .pcmdSave => Sys2Proof.Machine.execPcmdSave s
  | .pcmdFlushRestart => Sys2Proof.Machine.execPcmdFlushRestart s
  | .pcmdKill => Sys2Proof.Machine.execPcmdKill s
  | .pcmdChoice => Sys2Proof.Machine.execPcmdChoice s
  | .gangSwapOut => Sys2Proof.Machine.execGangSwapOut s
  | .restore => Sys2Proof.Machine.execRestore s
  | .fqheadWrite => Sys2Proof.Machine.execFqheadWrite s
  | .warrFarArrival => Sys2Proof.Machine.execWarrFarArrival s
  | .wwaitTimeout => Sys2Proof.Machine.execWwaitTimeout s
  | .flumeCopyAccept => Sys2Proof.Machine.execFlumeCopyAccept s
  | .flumeSectorLand => Sys2Proof.Machine.execFlumeSectorLand s
  | .flumeSectorFail => Sys2Proof.Machine.execFlumeSectorFail s
  | .flumeCopyComplete => Sys2Proof.Machine.execFlumeCopyComplete s
  | .xresumeRetry => Sys2Proof.Machine.execXresumeRetry s
  | .xresumeFailXlate => Sys2Proof.Machine.execXresumeFailXlate s
  | .xresumeFailPerm => Sys2Proof.Machine.execXresumeFailPerm s
  | .gatherComplete => Sys2Proof.Machine.execGatherComplete s
  | .scatterComplete => Sys2Proof.Machine.execScatterComplete s
  | .bankLoadEnd => Sys2Proof.Machine.execBankLoadEnd s
  | .matrixStepStart => Sys2Proof.Machine.execMatrixStepStart s
  | .matrixStepEnd => Sys2Proof.Machine.execMatrixStepEnd s
  | .matrixCommandComplete => Sys2Proof.Machine.execMatrixCommandComplete s
  | .drainStart => Sys2Proof.Machine.execDrainStart s
  | .drainComplete => Sys2Proof.Machine.execDrainComplete s
  | .mxzeroEffect => Sys2Proof.Machine.execMxzeroEffect s
  | .mxstatResult => Sys2Proof.Machine.execMxstatResult s
  | .homeRequestArrival => Sys2Proof.Machine.execHomeRequestArrival s
  | .collectionEnd => Sys2Proof.Machine.execCollectionEnd s
  | .acrNodeMerge => Sys2Proof.Machine.execAcrNodeMerge s
  | .farAtomicPerform => Sys2Proof.Machine.execFarAtomicPerform s
  | .partialEvict => Sys2Proof.Machine.execPartialEvict s
  | .lineWriteback => Sys2Proof.Machine.execLineWriteback s
  | .lockRequestArrival => Sys2Proof.Machine.execLockRequestArrival s
  | .turnoutEntryTaken => Sys2Proof.Machine.execTurnoutEntryTaken s
  | .lockGrantArrival => Sys2Proof.Machine.execLockGrantArrival s
  | .lockTimeout => Sys2Proof.Machine.execLockTimeout s
  | .deadlockProbe => Sys2Proof.Machine.execDeadlockProbe s
  | .lckcanAnswer => Sys2Proof.Machine.execLckcanAnswer s
  | .wblimExpiry => Sys2Proof.Machine.execWblimExpiry s
  | .xinvPartition => Sys2Proof.Machine.execXinvPartition s
  | .xinvRange => Sys2Proof.Machine.execXinvRange s
  | .invalidationComplete => Sys2Proof.Machine.execInvalidationComplete s
  | .atsInvalidateTimeout => Sys2Proof.Machine.execAtsInvalidateTimeout s
  | .atsTranslationRequest => Sys2Proof.Machine.execAtsTranslationRequest s
  | .priPageRequest => Sys2Proof.Machine.execPriPageRequest s
  | .migcmdGo => Sys2Proof.Machine.execMigcmdGo s
  | .migrationEnd => Sys2Proof.Machine.execMigrationEnd s
  | .lgrowWrite => Sys2Proof.Machine.execLgrowWrite s
  | .invalidationAck => Sys2Proof.Machine.execInvalidationAck s
  | .nalronPortDown => Sys2Proof.Machine.execNalronPortDown s
  | .nalronPortUp => Sys2Proof.Machine.execNalronPortUp s
  | .linkFailureTimeout => Sys2Proof.Machine.execLinkFailureTimeout s
  | .flitCrcFail => Sys2Proof.Machine.execFlitCrcFail s
  | .pauseFlit => Sys2Proof.Machine.execPauseFlit s
  | .resumeFlit => Sys2Proof.Machine.execResumeFlit s
  | .npctlRetrain => Sys2Proof.Machine.execNpctlRetrain s
  | .culvertLaneFail => Sys2Proof.Machine.execCulvertLaneFail s
  | .snoopFilterEvict => Sys2Proof.Machine.execSnoopFilterEvict s
  | .nwctlWrite => Sys2Proof.Machine.execNwctlWrite s
  | .gctlWrite => Sys2Proof.Machine.execGctlWrite s
  | .groupAbsentClear => Sys2Proof.Machine.execGroupAbsentClear s
  | .mcsrContributionArrival => Sys2Proof.Machine.execMcsrContributionArrival s
  | .mclrRequestArrival => Sys2Proof.Machine.execMclrRequestArrival s
  | .roundCombined => Sys2Proof.Machine.execRoundCombined s
  | .collectiveComplete => Sys2Proof.Machine.execCollectiveComplete s
  | .memberWithdrawal => Sys2Proof.Machine.execMemberWithdrawal s
  | .ioldCompletion => Sys2Proof.Machine.execIoldCompletion s
  | .ioWriteSent => Sys2Proof.Machine.execIoWriteSent s
  | .doorbellSend => Sys2Proof.Machine.execDoorbellSend s
  | .completionTimeout => Sys2Proof.Machine.execCompletionTimeout s
  | .endpointWrite => Sys2Proof.Machine.execEndpointWrite s
  | .endpointRead => Sys2Proof.Machine.execEndpointRead s
  | .interruptWrite => Sys2Proof.Machine.execInterruptWrite s
  | .aerEvent => Sys2Proof.Machine.execAerEvent s
  | .dpcTrigger => Sys2Proof.Machine.execDpcTrigger s
  | .rootPortLinkChange => Sys2Proof.Machine.execRootPortLinkChange s
  | .hotrst => Sys2Proof.Machine.execHotrst s
  | .prgResponseSuccess => Sys2Proof.Machine.execPrgResponseSuccess s
  | .prgResponseInvalidRequest => Sys2Proof.Machine.execPrgResponseInvalidRequest s
  | .prgResponseFailure => Sys2Proof.Machine.execPrgResponseFailure s
  | .configAccess => Sys2Proof.Machine.execConfigAccess s
  | .sltsyncWrite => Sys2Proof.Machine.execSltsyncWrite s
  | .sltsyncComplete => Sys2Proof.Machine.execSltsyncComplete s
  | .syspostWrite => Sys2Proof.Machine.execSyspostWrite s
  | .scrubCheckStart => Sys2Proof.Machine.execScrubCheckStart s
  | .shardCheckEnd => Sys2Proof.Machine.execShardCheckEnd s
  | .alertBackoffEnd => Sys2Proof.Machine.execAlertBackoffEnd s
  | .periodicRefresh => Sys2Proof.Machine.execPeriodicRefresh s
  | .stackTemperatureChange => Sys2Proof.Machine.execStackTemperatureChange s
  | .dspareWrite => Sys2Proof.Machine.execDspareWrite s
  | .partitionTableWrite => Sys2Proof.Machine.execPartitionTableWrite s
  | .controlRegisterWrite => Sys2Proof.Machine.execControlRegisterWrite s
  | .dbgHalt => Sys2Proof.Machine.execDbgHalt s
  | .dbgResume => Sys2Proof.Machine.execDbgResume s
  | .dbgStep => Sys2Proof.Machine.execDbgStep s
  | .dicinvWrite => Sys2Proof.Machine.execDicinvWrite s
  | .dicinvComplete => Sys2Proof.Machine.execDicinvComplete s
  | .sampleTrigger => Sys2Proof.Machine.execSampleTrigger s
  | .sampleRecordWrite => Sys2Proof.Machine.execSampleRecordWrite s
  | .powerOn => Sys2Proof.Machine.execPowerOn s
  | .mgmtResetCommand => Sys2Proof.Machine.execMgmtResetCommand s
  | .rstcmdWarmReset => Sys2Proof.Machine.execRstcmdWarmReset s
  | .fwVerify => Sys2Proof.Machine.execFwVerify s
  | .fwVerifyDone => Sys2Proof.Machine.execFwVerifyDone s
  | .fwCommit => Sys2Proof.Machine.execFwCommit s
  | .fwCommitDone => Sys2Proof.Machine.execFwCommitDone s
  | .recoveryImage => Sys2Proof.Machine.execRecoveryImage s
  | .attestationQuote => Sys2Proof.Machine.execAttestationQuote s
  | .tgctlWrite => Sys2Proof.Machine.execTgctlWrite s
  | .clockStepApply => Sys2Proof.Machine.execClockStepApply s
  | .junctionLimitReached => Sys2Proof.Machine.execJunctionLimitReached s
  | .thermalStepDown => Sys2Proof.Machine.execThermalStepDown s
  | .thermalStepUp => Sys2Proof.Machine.execThermalStepUp s
  | .thermalTrip => Sys2Proof.Machine.execThermalTrip s
  | .serviceCoreAccess => Sys2Proof.Machine.execServiceCoreAccess s
  | .powerLoss => Sys2Proof.Machine.execPowerLoss s

end Sys2Proof.Machine
end

