-- ==== Sys2Proof/Machine/RvInt.lean ====
section
/-! DEFINITION. RV64 integer computing and compressed words (16 R385, R386; the encodings and results are those of the
RISC-V unprivileged specification, log entry 8). -/

namespace Sys2Proof.Machine

/-! ## Fields and immediates -/

/-- `n` bits of an instruction word from bit `i` up. -/
def rvBits (w i n : Nat) : Nat := w / 2 ^ i % 2 ^ n

/-- Register number fields. -/
def rvRd (w : Nat) : BitVec 5 := BitVec.ofNat 5 (rvBits w 7 5)
def rvRs1 (w : Nat) : BitVec 5 := BitVec.ofNat 5 (rvBits w 15 5)
def rvRs2 (w : Nat) : BitVec 5 := BitVec.ofNat 5 (rvBits w 20 5)
def rvRs3 (w : Nat) : BitVec 5 := BitVec.ofNat 5 (rvBits w 27 5)

/-- The low `n` bits of `x` as a signed number. -/
def rvSigned (n x : Nat) : Int := if x.testBit (n - 1) then (x % 2 ^ n : Nat) - (2 ^ n : Nat) else (x % 2 ^ n : Nat)

/-- The immediates of the formats I, S, B, U and J. -/
def rvImmI (w : Nat) : Int := rvSigned 12 (rvBits w 20 12)
def rvImmS (w : Nat) : Int := rvSigned 12 (rvBits w 25 7 * 32 + rvBits w 7 5)
def rvImmB (w : Nat) : Int :=
  rvSigned 13 (rvBits w 31 1 * 4096 + rvBits w 7 1 * 2048 + rvBits w 25 6 * 32 + rvBits w 8 4 * 2)
def rvImmU (w : Nat) : Int := rvSigned 32 (rvBits w 12 20 * 4096)
def rvImmJ (w : Nat) : Int :=
  rvSigned 21 (rvBits w 31 1 * 2 ^ 20 + rvBits w 12 8 * 4096 + rvBits w 20 1 * 2048 + rvBits w 21 10 * 2)

/-! ## Integer results -/

/-- 32 bits sign-extended to a register. -/
def rvSext32 (x : BitVec 32) : Word := x.signExtend 64

/-- One bit as a register. -/
def rvFlag (b : Bool) : Word := if b then 1 else 0

/-- Signed and unsigned quotients and remainders of width `n`, with the results for a zero divisor. -/
def rvDiv {n : Nat} (a b : BitVec n) : BitVec n := if b = 0 then BitVec.allOnes n else a.sdiv b
def rvDivu {n : Nat} (a b : BitVec n) : BitVec n := if b = 0 then BitVec.allOnes n else a / b
def rvRem {n : Nat} (a b : BitVec n) : BitVec n := if b = 0 then a else a.srem b
def rvRemu {n : Nat} (a b : BitVec n) : BitVec n := if b = 0 then a else a % b

/-- OP: the result by funct7 and funct3. -/
def rvOp (f7 f3 : Nat) (a b : Word) : Option Word :=
  match f7, f3 with
  | 0x00, 0 => some (a + b)
  | 0x20, 0 => some (a - b)
  | 0x00, 1 => some (a <<< (b.toNat % 64))
  | 0x00, 2 => some (rvFlag (a.slt b))
  | 0x00, 3 => some (rvFlag (a.ult b))
  | 0x00, 4 => some (a ^^^ b)
  | 0x00, 5 => some (a >>> (b.toNat % 64))
  | 0x20, 5 => some (a.sshiftRight (b.toNat % 64))
  | 0x00, 6 => some (a ||| b)
  | 0x00, 7 => some (a &&& b)
  | 0x01, 0 => some (a * b)
  | 0x01, 1 => some (BitVec.ofInt 64 (a.toInt * b.toInt / 2 ^ 64))
  | 0x01, 2 => some (BitVec.ofInt 64 (a.toInt * b.toNat / 2 ^ 64))
  | 0x01, 3 => some (BitVec.ofNat 64 (a.toNat * b.toNat / 2 ^ 64))
  | 0x01, 4 => some (rvDiv a b)
  | 0x01, 5 => some (rvDivu a b)
  | 0x01, 6 => some (rvRem a b)
  | 0x01, 7 => some (rvRemu a b)
  | _, _ => none

/-- OP-32. -/
def rvOp32 (f7 f3 : Nat) (x y : Word) : Option Word :=
  let a : BitVec 32 := x.setWidth 32
  let b : BitVec 32 := y.setWidth 32
  match f7, f3 with
  | 0x00, 0 => some (rvSext32 (a + b))
  | 0x20, 0 => some (rvSext32 (a - b))
  | 0x00, 1 => some (rvSext32 (a <<< (b.toNat % 32)))
  | 0x00, 5 => some (rvSext32 (a >>> (b.toNat % 32)))
  | 0x20, 5 => some (rvSext32 (a.sshiftRight (b.toNat % 32)))
  | 0x01, 0 => some (rvSext32 (a * b))
  | 0x01, 4 => some (rvSext32 (rvDiv a b))
  | 0x01, 5 => some (rvSext32 (rvDivu a b))
  | 0x01, 6 => some (rvSext32 (rvRem a b))
  | 0x01, 7 => some (rvSext32 (rvRemu a b))
  | _, _ => none

/-- OP-IMM: a shift takes its amount and funct6 from the immediate. -/
def rvOpImm (w : Nat) (a : Word) : Option Word :=
  let f3 := rvBits w 12 3
  if f3 = 1 ∨ f3 = 5 then
    if rvBits w 26 6 = 0 then rvOp 0 f3 a (BitVec.ofNat 64 (rvBits w 20 6))
    else if rvBits w 26 6 = 0x10 ∧ f3 = 5 then rvOp 0x20 5 a (BitVec.ofNat 64 (rvBits w 20 6))
    else none
  else rvOp 0 f3 a (BitVec.ofInt 64 (rvImmI w))

/-- OP-IMM-32. -/
def rvOpImm32 (w : Nat) (a : Word) : Option Word :=
  let f3 := rvBits w 12 3
  if f3 = 0 then rvOp32 0 0 a (BitVec.ofInt 64 (rvImmI w))
  else if f3 = 1 ∧ rvBits w 25 7 = 0 then rvOp32 0 1 a (BitVec.ofNat 64 (rvBits w 20 5))
  else if f3 = 5 ∧ (rvBits w 25 7 = 0 ∨ rvBits w 25 7 = 0x20) then rvOp32 (rvBits w 25 7) 5 a (BitVec.ofNat 64 (rvBits w 20 5))
  else none

/-- Whether a branch is taken; none for a funct3 that no branch has. -/
def rvTaken (f3 : Nat) (a b : Word) : Option Bool :=
  match f3 with
  | 0 => some (a == b)
  | 1 => some (a != b)
  | 4 => some (a.slt b)
  | 5 => some (!a.slt b)
  | 6 => some (a.ult b)
  | 7 => some (!a.ult b)
  | _ => none

/-! ## Words written from their fields -/

/-- A word of format I, R, S, B, J; immediates modulo their width. -/
def rvI (op f3 rd rs1 imm : Nat) : Nat := imm % 4096 * 2 ^ 20 + rs1 * 2 ^ 15 + f3 * 4096 + rd * 128 + op
def rvR (op f3 f7 rd rs1 rs2 : Nat) : Nat := f7 * 2 ^ 25 + rs2 * 2 ^ 20 + rs1 * 2 ^ 15 + f3 * 4096 + rd * 128 + op
def rvS (op f3 rs1 rs2 imm : Nat) : Nat :=
  imm / 32 % 128 * 2 ^ 25 + rs2 * 2 ^ 20 + rs1 * 2 ^ 15 + f3 * 4096 + imm % 32 * 128 + op
def rvB (f3 rs1 rs2 imm : Nat) : Nat :=
  imm / 4096 % 2 * 2 ^ 31 + imm / 32 % 64 * 2 ^ 25 + rs2 * 2 ^ 20 + rs1 * 2 ^ 15 + f3 * 4096 + imm / 2 % 16 * 256
    + imm / 2048 % 2 * 128 + 0x63
def rvJ (rd imm : Nat) : Nat :=
  imm / 2 ^ 20 % 2 * 2 ^ 31 + imm / 2 % 1024 * 2 ^ 21 + imm / 2048 % 2 * 2 ^ 20 + imm / 4096 % 256 * 4096 + rd * 128 + 0x6F

/-! ## Compressed words -/

/-- The immediate of the six-bit forms, sign-extended modulo 4096. -/
def rvcImm6 (h : Nat) : Nat := rvBits h 2 5 + rvBits h 12 1 * (4096 - 32)

/-- Quadrant 0. -/
def rvcQ0 (h : Nat) : Option Nat :=
  let d := 8 + rvBits h 2 3
  let s := 8 + rvBits h 7 3
  let imm8 := rvBits h 10 3 * 8 + rvBits h 5 2 * 64
  let imm4 := rvBits h 10 3 * 8 + rvBits h 6 1 * 4 + rvBits h 5 1 * 64
  match rvBits h 13 3 with
  | 0 =>
    let n := rvBits h 11 2 * 16 + rvBits h 7 4 * 64 + rvBits h 6 1 * 4 + rvBits h 5 1 * 8
    if n = 0 then none else some (rvI 0x13 0 d 2 n)
  | 1 => some (rvI 0x07 3 d s imm8)
  | 2 => some (rvI 0x03 2 d s imm4)
  | 3 => some (rvI 0x03 3 d s imm8)
  | 5 => some (rvS 0x27 3 s d imm8)
  | 6 => some (rvS 0x23 2 s d imm4)
  | 7 => some (rvS 0x23 3 s d imm8)
  | _ => none

/-- The arithmetic forms of quadrant 1. -/
def rvcArith (h : Nat) : Option Nat :=
  let d := 8 + rvBits h 7 3
  let t := 8 + rvBits h 2 3
  let sh := rvBits h 12 1 * 32 + rvBits h 2 5
  match rvBits h 10 2 with
  | 0 => some (rvI 0x13 5 d d sh)
  | 1 => some (rvI 0x13 5 d d (0x400 + sh))
  | 2 => some (rvI 0x13 7 d d (rvcImm6 h))
  | _ => match rvBits h 12 1 * 4 + rvBits h 5 2 with
    | 0 => some (rvR 0x33 0 0x20 d d t)
    | 1 => some (rvR 0x33 4 0 d d t)
    | 2 => some (rvR 0x33 6 0 d d t)
    | 3 => some (rvR 0x33 7 0 d d t)
    | 4 => some (rvR 0x3B 0 0x20 d d t)
    | 5 => some (rvR 0x3B 0 0 d d t)
    | _ => none

/-- Quadrant 1. -/
def rvcQ1 (h : Nat) : Option Nat :=
  let d := rvBits h 7 5
  let s := 8 + rvBits h 7 3
  let b := rvBits h 3 2 * 2 + rvBits h 10 2 * 8 + rvBits h 2 1 * 32 + rvBits h 5 2 * 64 + rvBits h 12 1 * (8192 - 256)
  match rvBits h 13 3 with
  | 0 => some (rvI 0x13 0 d d (rvcImm6 h))
  | 1 => if d = 0 then none else some (rvI 0x1B 0 d d (rvcImm6 h))
  | 2 => some (rvI 0x13 0 d 0 (rvcImm6 h))
  | 3 =>
    if d = 2 then
      let n := rvBits h 6 1 * 16 + rvBits h 2 1 * 32 + rvBits h 5 1 * 64 + rvBits h 3 2 * 128 + rvBits h 12 1 * (4096 - 512)
      if n = 0 then none else some (rvI 0x13 0 2 2 n)
    else
      let n := rvBits h 2 5 + rvBits h 12 1 * (2 ^ 20 - 32)
      if n = 0 then none else some (n * 4096 + d * 128 + 0x37)
  | 4 => rvcArith h
  | 5 =>
    some (rvJ 0 (rvBits h 3 3 * 2 + rvBits h 11 1 * 16 + rvBits h 2 1 * 32 + rvBits h 7 1 * 64 + rvBits h 6 1 * 128
      + rvBits h 9 2 * 256 + rvBits h 8 1 * 1024 + rvBits h 12 1 * (2 ^ 21 - 2048)))
  | 6 => some (rvB 0 s 0 b)
  | _ => some (rvB 1 s 0 b)

/-- Quadrant 2. -/
def rvcQ2 (h : Nat) : Option Nat :=
  let d := rvBits h 7 5
  let t := rvBits h 2 5
  let imm8 := rvBits h 5 2 * 8 + rvBits h 12 1 * 32 + rvBits h 2 3 * 64
  match rvBits h 13 3 with
  | 0 => some (rvI 0x13 1 d d (rvBits h 12 1 * 32 + t))
  | 1 => some (rvI 0x07 3 d 2 imm8)
  | 2 => if d = 0 then none else some (rvI 0x03 2 d 2 (rvBits h 4 3 * 4 + rvBits h 12 1 * 32 + rvBits h 2 2 * 64))
  | 3 => if d = 0 then none else some (rvI 0x03 3 d 2 imm8)
  | 4 =>
    if rvBits h 12 1 = 0 then
      if t = 0 then (if d = 0 then none else some (rvI 0x67 0 0 d 0)) else some (rvR 0x33 0 0 d 0 t)
    else if t = 0 then (if d = 0 then some 0x00100073 else some (rvI 0x67 0 1 d 0))
    else some (rvR 0x33 0 0 d d t)
  | 5 => some (rvS 0x27 3 2 t (rvBits h 10 3 * 8 + rvBits h 7 3 * 64))
  | 6 => some (rvS 0x23 2 2 t (rvBits h 9 4 * 4 + rvBits h 7 2 * 64))
  | _ => some (rvS 0x23 3 2 t (rvBits h 10 3 * 8 + rvBits h 7 3 * 64))

/-- The word that a compressed word stands for; none for a reserved one. -/
def rvExpand (h : Nat) : Option Nat :=
  match h % 4 with
  | 0 => rvcQ0 h
  | 1 => rvcQ1 h
  | 2 => rvcQ2 h
  | _ => none

end Sys2Proof.Machine
end

