-- ==== Sys2Proof/Machine/RvCsr.lean ====
section
/-! DEFINITION. Control and status registers, interrupts and trap returns of a service core (16 R385, R388; those of the
RISC-V privileged architecture, log entry 8). mtvec, stvec, mepc and sepc hold levees (log entry 6): an ordinary write
moves the cursor of the levee held, or of the program counter's where that is untagged. -/

namespace Sys2Proof.Machine

/-! ## mstatus -/

/-- MPP's code. -/
def Mode.code : Mode → Nat
  | .user => 0
  | .supervisor => 1
  | .machine => 3

/-- The mode of a code; none for 2. -/
def Mode.ofCode : Nat → Option Mode
  | 0 => some .user
  | 1 => some .supervisor
  | 3 => some .machine
  | _ => none

/-- The fields of mstatus that `mst` holds, and those of them that sstatus shows. -/
def mstMask : Word := 0x7E6000
def sstMask : Word := 0xC6000

/-- A flag in place. -/
def rvPut (b : Bool) (i : Nat) : Word := if b then BitVec.ofNat 64 (2 ^ i) else 0

/-- sstatus: UXL is 2, and SD shows a dirty floating-point state. -/
def Sc.sstatus (x : Sc) : Word :=
  (x.mst &&& sstMask) ||| rvPut x.sie 1 ||| rvPut x.spie 5 ||| rvPut x.spp 8 ||| 0x200000000 ||| rvPut (x.mst.extractLsb' 13 2 == 3) 63

/-- mstatus. -/
def Sc.mstatus (x : Sc) : Word :=
  x.sstatus ||| (x.mst &&& mstMask) ||| rvPut x.mie 3 ||| rvPut x.mpie 7 ||| BitVec.ofNat 64 (x.mpp.code * 2048) ||| 0x800000000

/-- A write of sstatus. -/
def Sc.setSstatus (x : Sc) (v : Word) : Sc :=
  { x with mst := (x.mst &&& ~~~sstMask) ||| (v &&& sstMask), sie := v.getLsbD 1, spie := v.getLsbD 5, spp := v.getLsbD 8 }

/-- A write of mstatus. -/
def Sc.setMstatus (x : Sc) (v : Word) : Sc :=
  { x.setSstatus v with mst := v &&& mstMask, mie := v.getLsbD 3, mpie := v.getLsbD 7
                        mpp := (Mode.ofCode (v.extractLsb' 11 2).toNat).getD x.mpp }

/-! ## Registers by number -/

/-- The interrupts that software can have pending, and those of supervisor mode. -/
def mipMask : Word := 0x222
def sipMask : Word := 0x222

/-- A levee register after an ordinary write of `v`. -/
def Sc.moved (x : Sc) (held : Levee) (v : Word) : Levee := (if held.tag then held else x.pc).move v.toNat

/-- Whether a number is that of a register of the memory protection that no service core has. -/
def isPmp (n : Nat) : Bool := decide (0x3A0 ≤ n) && decide (n ≤ 0x3EF)

/-- Counters and event selectors without an event: they read as zero. -/
def isHpm (n : Nat) : Bool :=
  (decide (0xB03 ≤ n) && decide (n ≤ 0xB1F)) || (decide (0x323 ≤ n) && decide (n ≤ 0x33F)) || n == 0x320 || n == 0x306 || n == 0x106
    || n == 0x30A || n == 0x10A || n == 0xF15

/-- What a register reads, of service core `c`; none where there is no such register. `free` is the argument of the free
value of a counter. -/
def Sc.csrRead (x : Sc) (c free n : Nat) : Option Word :=
  match n with
  | 0x001 => some (BitVec.ofNat 64 x.fflags)
  | 0x002 => some (BitVec.ofNat 64 x.frm)
  | 0x003 => some (BitVec.ofNat 64 (x.frm * 32 + x.fflags))
  | 0x100 => some x.sstatus
  | 0x104 => some (x.ie &&& x.mideleg)
  | 0x105 => some (BitVec.ofNat 64 (x.stvec.cur + bit x.svec))
  | 0x140 => some x.sscratch
  | 0x141 => some (BitVec.ofNat 64 x.sepc.cur)
  | 0x142 => some x.scause
  | 0x143 => some x.stval
  | 0x144 => some (x.ip &&& x.mideleg)
  | 0x180 => some x.satp
  | 0x300 => some x.mstatus
  | 0x301 => some 0x800000000014112D
  | 0x302 => some x.medeleg
  | 0x303 => some x.mideleg
  | 0x304 => some x.ie
  | 0x305 => some (BitVec.ofNat 64 (x.mtvec.cur + bit x.mvec))
  | 0x340 => some x.mscratch
  | 0x341 => some (BitVec.ofNat 64 x.mepc.cur)
  | 0x342 => some x.mcause
  | 0x343 => some x.mtval
  | 0x344 => some x.ip
  | 0x7C0 => some x.lvcause
  | 0xB00 => some (Config.scCounter free)
  | 0xB02 => some (Config.scCounter free)
  | 0xF11 => some (Config.scIdent n)
  | 0xF12 => some (Config.scIdent n)
  | 0xF13 => some (Config.scIdent n)
  | 0xF14 => some (BitVec.ofNat 64 c)
  | n => if isPmp n || isHpm n then some 0 else none

/-- A register written; one that is not writable keeps its value. -/
def Sc.csrWrite (x : Sc) (n : Nat) (v : Word) : Sc :=
  match n with
  | 0x001 => { x with fflags := v.toNat % 32, mst := x.mst ||| 0x6000 }
  | 0x002 => { x with frm := v.toNat % 8, mst := x.mst ||| 0x6000 }
  | 0x003 => { x with fflags := v.toNat % 32, frm := v.toNat / 32 % 8, mst := x.mst ||| 0x6000 }
  | 0x100 => x.setSstatus v
  | 0x104 => { x with ie := (x.ie &&& ~~~x.mideleg) ||| (v &&& x.mideleg &&& 0xAAA) }
  | 0x105 => { x with stvec := x.moved x.stvec (v &&& ~~~(3 : Word)), svec := v.getLsbD 0 }
  | 0x140 => { x with sscratch := v }
  | 0x141 => { x with sepc := x.moved x.sepc (v &&& ~~~(1 : Word)) }
  | 0x142 => { x with scause := v }
  | 0x143 => { x with stval := v }
  | 0x144 => { x with ip := (x.ip &&& ~~~(2 &&& x.mideleg)) ||| (v &&& 2 &&& x.mideleg) }
  | 0x180 => if (v.extractLsb' 60 4).toNat = 0 ∨ (v.extractLsb' 60 4).toNat = 14 then { x with satp := v } else x
  | 0x300 => x.setMstatus v
  | 0x302 => { x with medeleg := v &&& ~~~(0x800 : Word) }
  | 0x303 => { x with mideleg := v &&& sipMask }
  | 0x304 => { x with ie := v &&& 0xAAA }
  | 0x305 => { x with mtvec := x.moved x.mtvec (v &&& ~~~(3 : Word)), mvec := v.getLsbD 0 }
  | 0x340 => { x with mscratch := v }
  | 0x341 => { x with mepc := x.moved x.mepc (v &&& ~~~(1 : Word)) }
  | 0x342 => { x with mcause := v }
  | 0x343 => { x with mtval := v }
  | 0x344 => { x with ip := v &&& mipMask }
  | _ => x

/-- Whether the core may access a register: by its mode, the floating-point state, and TVM for satp; LVCAUSE is read-only
(R388). -/
def Sc.mayAccess (x : Sc) (n : Nat) (write : Bool) : Bool :=
  decide (n / 256 % 4 ≤ x.mode.code) && !(write && (decide (n / 1024 = 3) || decide (n = 0x7C0)))
    && !(decide (n ≤ 3) && decide (x.mst.extractLsb' 13 2 = 0)) && !(decide (n = 0x180) && x.mode == .supervisor && x.mst.getLsbD 20)

/-! ## Interrupts -/

/-- The first of the pending interrupts in RISC-V's order. -/
def firstIrq (p : Word) : Option Nat := [11, 3, 7, 9, 1, 5].find? fun i => p.getLsbD i

/-- The interrupt that is taken now, and whether in supervisor mode. -/
def Sc.irq (x : Sc) : Option (Nat × Bool) :=
  let p := x.ip &&& x.ie
  match (if x.mode != .machine || x.mie then firstIrq (p &&& ~~~x.mideleg) else none) with
  | some i => some (i, false)
  | none => (if x.mode == .user || (x.mode == .supervisor && x.sie) then firstIrq (p &&& x.mideleg) else none).map fun i => (i, true)

/-- An interrupt taken. -/
def Sc.interrupted (x : Sc) (i : Nat) (toS : Bool) : Sc :=
  let vec (t : Levee) (v : Bool) : Levee := if v then t.move ((t.cur + 4 * i) % 2 ^ 64) else t
  let cause := BitVec.ofNat 64 (2 ^ 63 + i)
  if toS then x.enterS cause 0 (vec x.stvec x.svec) else x.enterM cause 0 (vec x.mtvec x.mvec)

/-! ## Returns -/

/-- MRET. -/
def Sc.mret (x : Sc) : Sc :=
  { x with pc := x.mepc, mode := x.mpp, mie := x.mpie, mpie := true, mpp := .user
           mst := if x.mpp = .machine then x.mst else x.mst &&& ~~~(0x20000 : Word) }

/-- SRET. -/
def Sc.sret (x : Sc) : Sc :=
  { x with pc := x.sepc, mode := if x.spp then .supervisor else .user, sie := x.spie, spie := true, spp := false
           mst := x.mst &&& ~~~(0x20000 : Word) }

end Sys2Proof.Machine
end

