-- ==== Sys2Proof/Machine/RvFp.lean ====
section
/-! DEFINITION. The F and D extensions of a service core (16 R385; formats, NaN boxing, rounding and flags are those of the
RISC-V unprivileged specification, log entry 8), over the exact arithmetic of Num. -/

namespace Sys2Proof.Machine

/-! ## Values -/

/-- The accrued exceptions. -/
def fNX : Nat := 1
def fUF : Nat := 2
def fOF : Nat := 4
def fDZ : Nat := 8
def fNV : Nat := 16

/-- A format by the fmt field: 0 S, 1 D. -/
def rvFmt (d : Bool) : Fmt := if d then fmtOf .f64 else fmtOf .f32

/-- The bits of a format in a register: a single that is not NaN-boxed reads as the canonical NaN. -/
def rvUnbox (d : Bool) (x : Nat) : Nat :=
  if d then x % 2 ^ 64 else if x / 2 ^ 32 = 0xFFFFFFFF then x % 2 ^ 32 else (fmtOf .f32).qnan

/-- Whether an encoding is a signalling NaN. -/
def rvSnan (f : Fmt) (x : Nat) : Bool := decodeFV f x == .nan && !x.testBit (f.mb - 1)

/-- The sign bit of an encoding. -/
def rvNeg (f : Fmt) (x : Nat) : Bool := x.testBit (f.eb + f.mb)

/-- Rounding mode 0 to 4 as a mode of Num; ties away from zero, on a magnitude, by a draw of just under one half. -/
def rvMode (rm : Nat) : Rnd :=
  match rm with
  | 0 => .rne
  | 1 => .rtz
  | 2 => .rdn
  | 3 => .rup
  | _ => .rsr

/-- A magnitude rounded to a grid of 2^g in mode `rm`. -/
def rvGrid (rm : Nat) (neg : Bool) (m : Nat) (e g : Int) : Nat := roundGrid (rvMode rm) (neg && rm != 4) m e g (2 ^ 31 - 1)

/-- An exact value rounded to a format: its encoding, and the flags of R385's RISC-V rules, tininess after rounding. -/
def rvRound (f : Fmt) (rm : Nat) (x : FV) : Nat × Nat :=
  match x with
  | .fin neg m e =>
    let g := (log2 m : Int) + e - f.mb
    let q := rvGrid rm neg m e g
    let top := (log2 q : Int) + g
    let code := if rm = 4 then f.signBit neg + roundTo f .rsr false (2 ^ 31 - 1) (.fin false m e)
      else roundTo f (rvMode rm) false 0 x
    let inexact := !fvEq (decodeFV f code) x
    let high := decide ((f.bias : Int) < top)
    let tiny := decide (top < 1 - (f.bias : Int))
    (code, (if inexact then fNX else 0) ||| (if high then fOF ||| fNX else 0) ||| (if tiny && inexact then fUF else 0))
  | x => (roundTo f .rne false 0 x, 0)

/-- A result: the bits and the flags raised. -/
structure RvF where
  bits  : Nat
  flags : Nat
  deriving DecidableEq, Repr

/-- A rounded result with further flags. -/
def rvResult (f : Fmt) (rm : Nat) (x : FV) (more : Nat) : RvF :=
  let r := rvRound f rm x
  ⟨r.1, r.2 ||| more⟩

/-- NV where `b`. -/
def rvNV (b : Bool) : Nat := if b then fNV else 0

/-! ## Arithmetic -/

/-- An operation on exact values whose NaN from operands that are none is invalid. -/
def rvArith (f : Fmt) (rm : Nat) (g : FV → FV → FV) (a b : Nat) (more : Nat) : RvF :=
  let x := decodeFV f a
  let y := decodeFV f b
  let z := g x y
  rvResult f rm z (more ||| rvNV (rvSnan f a || rvSnan f b || (z == .nan && x != .nan && y != .nan)))

/-- Addition, or subtraction. -/
def rvAdd (f : Fmt) (rm : Nat) (sub : Bool) (a b : Nat) : RvF :=
  rvArith f rm (fun x y => fvAdd (rm == 2) x (if sub then fvNeg y else y)) a b 0

/-- Multiplication. -/
def rvMul (f : Fmt) (rm : Nat) (a b : Nat) : RvF := rvArith f rm fvMul a b 0

/-- Whether an exact value is a finite number. -/
def fvFinite : FV → Bool
  | .zero _ => true
  | .fin _ _ _ => true
  | _ => false

/-- Whether an exact value is a zero. -/
def fvZero : FV → Bool
  | .zero _ => true
  | _ => false

/-- Division: a finite number other than zero by zero raises DZ. -/
def rvDivide (f : Fmt) (rm : Nat) (a b : Nat) : RvF :=
  let x := decodeFV f a
  rvArith f rm fvDiv a b (if fvFinite x && !fvZero x && fvZero (decodeFV f b) then fDZ else 0)

/-- Square root. -/
def rvSqrt (f : Fmt) (rm : Nat) (a : Nat) : RvF :=
  let x := decodeFV f a
  let z := fvSqrt x
  rvResult f rm z (rvNV (rvSnan f a || (z == .nan && x != .nan)))

/-- ±(a × b) ± c with one rounding; infinity times zero is invalid even where c is a quiet NaN. -/
def rvFma (f : Fmt) (rm : Nat) (negP negC : Bool) (a b c : Nat) : RvF :=
  let x := decodeFV f a
  let y := decodeFV f b
  let w := decodeFV f c
  let p := fvMul x y
  let z := fvAdd (rm == 2) (if negP then fvNeg p else p) (if negC then fvNeg w else w)
  let bad := (p == .nan && x != .nan && y != .nan) || (z == .nan && p != .nan && w != .nan)
  rvResult f rm z (rvNV (rvSnan f a || rvSnan f b || rvSnan f c || bad))

/-- FMIN, or FMAX: the other operand of one NaN, the canonical NaN of two. -/
def rvMinMax (f : Fmt) (greater : Bool) (a b : Nat) : RvF :=
  let x := decodeFV f a
  let y := decodeFV f b
  let bits := if x = .nan ∧ y = .nan then f.qnan else if x = .nan then b else if y = .nan then a
    else if fvLess x y then (if greater then b else a) else (if greater then a else b)
  ⟨bits, rvNV (rvSnan f a || rvSnan f b)⟩

/-- FSGNJ (0), FSGNJN (1) and FSGNJX (2). -/
def rvSgnj (f : Fmt) (op a b : Nat) : Nat :=
  let s := match op with
    | 0 => rvNeg f b
    | 1 => !rvNeg f b
    | _ => rvNeg f a != rvNeg f b
  a % 2 ^ (f.eb + f.mb) + f.signBit s

/-- FLE (0), FLT (1) and FEQ (2): the first two signal any NaN. -/
def rvCompare (f : Fmt) (op a b : Nat) : Bool × Nat :=
  let x := decodeFV f a
  let y := decodeFV f b
  let nan := x == .nan || y == .nan
  let r := match op with
    | 0 => fvLt x y || fvEq x y
    | 1 => fvLt x y
    | _ => fvEq x y
  (!nan && r, rvNV (if op = 2 then rvSnan f a || rvSnan f b else nan))

/-- FCLASS. -/
def rvClass (f : Fmt) (a : Nat) : Nat :=
  match decodeFV f a with
  | .inf true => 1
  | .inf false => 128
  | .zero true => 8
  | .zero false => 16
  | .nan => if rvSnan f a then 256 else 512
  | .fin neg m e => if f.below m e then (if neg then 4 else 32) else (if neg then 2 else 64)

/-! ## Conversions -/

/-- To an integer of `w` bits: a value outside its range, or a NaN, is invalid. -/
def rvToInt (f : Fmt) (rm w : Nat) (signed : Bool) (a : Nat) : Int × Nat :=
  match decodeFV f a with
  | .nan => (maxOf w signed, fNV)
  | .inf neg => (if neg then minOf w signed else maxOf w signed, fNV)
  | .zero _ => (0, 0)
  | .fin neg m e =>
    let q : Int := rvGrid rm neg m e 0
    let x := if neg then -q else q
    if x < minOf w signed then (minOf w signed, fNV)
    else if maxOf w signed < x then (maxOf w signed, fNV)
    else (x, if fvEq (fvOfInt x 0 false) (.fin neg m e) then 0 else fNX)

/-- Between the formats. -/
def rvConvert (src dst : Fmt) (rm a : Nat) : RvF := rvResult dst rm (decodeFV src a) (rvNV (rvSnan src a))

end Sys2Proof.Machine
end

