-- ==== Sys2Proof/Machine/RvRun.lean ====
section
/-! DEFINITION. The step of a service core (16 R385 to R389, R393, 04 R111): fetch, the levee extension, and the words of
RV64IMAFDC, whose encodings and effects are those of the RISC-V specifications (log entry 8). -/

namespace Sys2Proof.Machine

/-- What a service core's step runs. -/
inductive ScFetch where
  | run (i : Instr) (s : State)
  | done (s : State)

/-! ## Stores to control registers (16 R393) -/

/-- The event of a store of `v` at offset `o` of the service-die block. -/
def State.svcEvent (s : State) (b : CtlBy) (o : Nat) (v : Word) : Event :=
  let plain : Event := .controlRegisterWrite b (svcBase + o) v
  if !svcOwnRow o v then plain
  else if o < 0x200 then .partitionTableWrite b (o / 64) (o / 8 % 8) v
  else if o < 0x5000 then .lqpostWrite b ((o - 0x1000) / 0x800) ((o - 0x1000) / 0x20 % 64) v
  else if o < 0x6800 then
    let p := (o - 0x6000) / 0x100
    match o % 0x100 with
    | 0x10 => .fqheadWrite b p v
    | 0x70 => if fld v 62 2 = 0 then .xinvPartition b p else .xinvRange b p (fld v 0 32)
    | 0x80 => match fld v 32 2 with
      | 0 => .xresumeRetry b p (fld v 0 32)
      | 1 => .xresumeFailXlate b p (fld v 0 32)
      | _ => .xresumeFailPerm b p (fld v 0 32)
    | 0xB8 => .migcmdGo b p (fld v 0 4)
    | _ => .lgrowWrite b p v
  else if o < 0x8800 then .nwctlWrite b ((o - 0x8000) / 0x20) v
  else if o < 0x9400 then .npctlRetrain b ((o - 0x9000) / 0x40) (Config.lanesLeft s.free) v
  else if o < 0xC800 then
    let k := (o - 0xC000) / 0x40
    if o % 0x40 = 0 then .hotrst b k v
    else match fld v 40 4 with
      | 0 => .prgResponseSuccess b k (fld v 44 20) (fld v 16 16) (fld v 0 9)
      | 1 => .prgResponseInvalidRequest b k (fld v 44 20) (fld v 16 16) (fld v 0 9)
      | _ => .prgResponseFailure b k (fld v 44 20) (fld v 16 16) (fld v 0 9)
  else if o < 0xD800 then
    let p := (o - 0xD000) / 0x100
    if o % 0x100 = 0x10 then .sltsyncWrite b p else .syspostWrite b p v
  else if o = 0xF008 then .rstcmdWarmReset b (Config.stackFails s.free) (Config.bootDigests s.free)
  else if ebit v 0 then .fwVerify b (Config.stagedImage s.free)
  else .fwCommit b

/-- The event of a store of `v` to the control register at `pa`. -/
def State.ctlEvent (s : State) (b : CtlBy) (pa : Nat) (v : Word) : Event :=
  let plain : Event := .controlRegisterWrite b pa v
  if svcBase ≤ pa then s.svcEvent b (pa - svcBase) v
  else if !ownRow pa v then plain
  else
    let d := (pa - crBase) / 0x1000000
    let o := (pa - crBase) % 0x1000000
    if o = 0x0008 then .dspareWrite b d v
    else if o = 0x1000 then .tgctlWrite b d v
    else if o = 0x2000 then .dicinvWrite b d v
    else
      let p := (o - 0x100000) / 0x10000
      let g := fld v 8 6
      match o % 0x10000, fld v 0 4 with
      | 0x0100, 1 => .pcmdSwapGang b d p g
      | 0x0100, 2 => .pcmdDrain b d p g
      | 0x0100, 3 => .pcmdSave b d p g
      | 0x0100, 4 => .pcmdFlushRestart b d p g
      | 0x0100, 5 => .pcmdKill b d p g
      | 0x0100, 6 => .pcmdChoice b d p g
      | 0x2000, 1 => .dbgHalt b d p g
      | 0x2000, 2 => .dbgResume b d p g
      | 0x2000, 3 => .dbgStep b d p g
      | _, _ => plain

/-! ## Memory accesses -/

/-- The event of an access that is one: a store to a control register or to GCTL or ABSENT of a switch, an access to
configuration space. -/
def State.scEvent (s : State) (c : Nat) (base : BitVec 5) (off : Int) (len : Nat) (op : ScOp) : Option Event :=
  let x := s.sc c
  let lv := x.reg base
  let va := BitVec.ofNat 64 lv.cur + BitVec.ofInt 64 off
  let n := scSize op
  let k := ScOp.kind op
  let b : CtlBy := { sc := c, base, va, len }
  if (s.leveeCheck c lv (scNeed op) va n).isSome then none
  else match s.scAddr c lv k va n, op with
    | .ctl pa, .store 8 _ _ => if pa % 8 = 0 then some (s.ctlEvent b pa (BitVec.ofNat 64 (x.data op))) else none
    | .ctl pa, .fstore 8 _ => if pa % 8 = 0 then some (s.ctlEvent b pa (BitVec.ofNat 64 (x.data op))) else none
    | .switch w pa, op =>
      let o := pa - (s.window w).base * 2 ^ 30
      let v : Word := BitVec.ofNat 64 (x.data op)
      if k = .store ∧ !scAtomic op ∧ n = 8 ∧ pa % 8 = 0 ∧ groupOwn o then
        some (if o % 0x200 = 0 then .gctlWrite b w (o / 0x200) v else .groupAbsentClear b w (o / 0x200) ((o % 0x200 - 0x100) / 8) v)
      else none
    | .ecam _, .load n sg d _ => some (.configAccess c base off n len (some d) sg 0 (Config.configAnswer s.free))
    | .ecam _, .store n t _ => some (.configAccess c base off n len none false t none)
    | _, _ => none

/-- A floating-point or atomic access in configuration space: the first as a load or store of its size, the second an
access fault. -/
def State.ecamOther (s : State) (c p pa len : Nat) (op : ScOp) (va : Word) : State :=
  let n := scSize op
  let port := (pa - ecamBase) / 0x10000000
  let live := s.rpExists port && (s.rp port).usable
  if scAtomic op ∨ n ≠ 4 ∨ pa % 4 ≠ 0 ∨ !(s.part p).rpmask.getLsbD port then s.scTrap c (ScOp.kind op).accessFault va
  else if ScOp.kind op = .load then
    (s.send (.configRead pa n)).scOver c op (if live then (Config.configAnswer s.free).getD (2 ^ 64 - 1) else 2 ^ 64 - 1) len
  else (if live then s.send (.configWrite pa n ((s.sc c).data op)) else s).scOver c op 0 len

/-- A load, store or atomic of service core `c` through the levee in `base`. -/
def State.scGo (s : State) (c : Nat) (base : BitVec 5) (off : Int) (len : Nat) (op : ScOp) : ScFetch :=
  match s.scEvent c base off len op with
  | some e => .run (eventInstr e) { s.drawn with cur := .event e }
  | none =>
    let lv := (s.sc c).reg base
    let va := BitVec.ofNat 64 lv.cur + BitVec.ofInt 64 off
    match s.scPart c, s.scAddr c lv (ScOp.kind op) va (scSize op) with
    | some p, .ecam pa =>
      if (s.leveeCheck c lv (scNeed op) va (scSize op)).isSome then .done (s.scAccess c lv va len op)
      else .done (s.ecamOther c p pa len op va).drawn
    | _, _ => .done (s.scAccess c lv va len op)

/-! ## Fences (04 R111) -/

/-- FENCE with its predecessor and successor sets: earlier writes are performed first; `r,rw` acquires what the core's
earlier loads found, and every service core's writes; `rw,w` makes its next aligned store a release; a fence of earlier
writes and later reads shows the core's own writes to the other service cores. -/
def State.scFence (s : State) (c pred succ len : Nat) : State :=
  let pw := pred.testBit 0
  let pr := pred.testBit 1
  let sw := succ.testBit 0
  let sr := succ.testBit 1
  if pw && s.heldOf fun g => decide (g = .service c) then s
  else
    let x := s.sc c
    let s := if pr && sr then s.learn (.service c)
        ((if sw then x.acqIds else []) ++ (List.range 16).flatMap fun n => s.writesOf (.service n)) else s
    let s := if pw && sr then (List.range 16).foldl (fun s n => s.learn (.service n) (s.writesOf (.service c))) s else s
    s.setSc c { x.step len with acqIds := if pr && sr && sw then [] else x.acqIds
                                relMark := x.relMark || (pr && pw && sw) }

/-! ## System instructions -/

/-- An illegal-instruction exception of the word `w`. -/
def State.scIllegal (s : State) (c w : Nat) : State := s.scTrap c 2 (BitVec.ofNat 64 w)

/-- A CSR instruction: an ordinary instruction, which reads CUR of its source and writes an integer. -/
def State.scCsr (s : State) (c w raw len : Nat) : State :=
  let x := s.sc c
  let n := rvBits w 20 12
  let f3 := rvBits w 12 3
  let src : Word := if f3 < 4 then BitVec.ofNat 64 (x.reg (rvRs1 w)).cur else BitVec.ofNat 64 (rvBits w 15 5)
  let write := decide (f3 % 4 = 1) || decide (rvBits w 15 5 ≠ 0)
  match x.csrRead c s.free n with
  | none => s.scIllegal c raw
  | some old =>
    if !x.mayAccess n write then s.scIllegal c raw
    else
      let v := match f3 % 4 with
        | 1 => src
        | 2 => old ||| src
        | _ => old &&& ~~~src
      let x := if write then x.csrWrite n v else x
      s.drawn.setSc c ((x.setReg (rvRd w) (.int old)).step len)

/-- ECALL, EBREAK, returns, WFI, which may end at once, and SFENCE.VMA: invalidations are made through XINVCMD (18 R426),
so it orders nothing here. -/
def State.scSystem (s : State) (c w raw len : Nat) : State :=
  let x := s.sc c
  let bad := s.scIllegal c raw
  let on := s.setSc c (x.step len)
  if rvBits w 25 7 = 0x09 ∧ rvBits w 7 5 = 0 then
    if x.mode = .user ∨ (x.mode = .supervisor ∧ x.mst.getLsbD 20) then bad else on
  else match w with
    | 0x00000073 => s.scTrap c (8 + x.mode.code) 0
    | 0x00100073 => s.scTrap c 3 (BitVec.ofNat 64 x.pc.cur)
    | 0x10200073 => if x.mode = .user ∨ (x.mode = .supervisor ∧ x.mst.getLsbD 22) then bad else s.setSc c x.sret
    | 0x30200073 => if x.mode = .machine then s.setSc c x.mret else bad
    | 0x10500073 => if x.mode ≠ .machine ∧ x.mst.getLsbD 21 then bad else on
    | _ => bad

/-! ## Atomics -/

/-- The access of an AMO, LR or SC word; none for a word that is none. -/
def rvAtomic (w : Nat) : Option ScOp :=
  let n := if rvBits w 12 3 = 2 then 4 else 8
  let aq := w.testBit 26
  let rl := w.testBit 25
  let d := rvRd w
  let t := rvRs2 w
  let amo (p : AtomOpr) (signed : Bool) : Option ScOp := some (.amo p n signed d t aq rl)
  if rvBits w 12 3 ≠ 2 ∧ rvBits w 12 3 ≠ 3 then none
  else match rvBits w 27 5 with
    | 0x00 => amo .add true
    | 0x01 => amo .xchg true
    | 0x02 => if t = 0 then some (.lr n d aq) else none
    | 0x03 => some (.sc n d t rl)
    | 0x04 => amo .xor true
    | 0x08 => amo .or true
    | 0x0C => amo .and true
    | 0x10 => amo .min true
    | 0x14 => amo .max true
    | 0x18 => amo .min false
    | 0x1C => amo .max false
    | _ => none

/-! ## Floating point -/

/-- The rounding mode of an instruction; none for a reserved one. -/
def Sc.rounding (x : Sc) (w : Nat) : Option Nat :=
  let rm := if rvBits w 12 3 = 7 then x.frm else rvBits w 12 3
  if rm ≤ 4 then some rm else none

/-- A floating-point result written, with its flags. -/
def Sc.fpResult (x : Sc) (w : Nat) (dbl : Bool) (r : RvF) : Sc :=
  { x.setF (rvRd w) (if dbl then 8 else 4) r.bits with fflags := x.fflags ||| r.flags }

/-- An integer result of a floating-point instruction, with its flags. -/
def Sc.fpInt (x : Sc) (w : Nat) (v : Word) (flags : Nat) : Sc :=
  { x.setReg (rvRd w) (.int v) with fflags := x.fflags ||| flags, mst := if flags = 0 then x.mst else x.mst ||| 0x6000 }

/-- FCVT to and from integers: the rs2 field names the type, 0 W, 1 WU, 2 L, 3 LU. -/
def Sc.fpCvt (x : Sc) (w : Nat) (dbl toInt : Bool) (a rm : Nat) : Sc :=
  let f := rvFmt dbl
  let t := rvBits w 20 5
  let n := if t < 2 then 32 else 64
  let signed := decide (t % 2 = 0)
  if toInt then
    let r := rvToInt f rm n signed a
    x.fpInt w (if n = 32 then rvSext32 (BitVec.ofInt 32 r.1) else BitVec.ofInt 64 r.1) r.2
  else
    x.fpResult w dbl (rvResult f rm (fvOfInt (intOf n signed (x.reg (rvRs1 w)).cur) 0 false) 0)

/-- OP-FP; none for an illegal word. -/
def Sc.opFp (x : Sc) (w : Nat) : Option Sc :=
  let dbl := decide (rvBits w 25 2 = 1)
  let f := rvFmt dbl
  let ra := x.f.getD (rvRs1 w).toNat 0
  let a := rvUnbox dbl ra
  let b := rvUnbox dbl (x.f.getD (rvRs2 w).toNat 0)
  let f3 := rvBits w 12 3
  let t := rvBits w 20 5
  let rounded (g : Nat → RvF) : Option Sc := (x.rounding w).map fun rm => x.fpResult w dbl (g rm)
  if 2 ≤ rvBits w 25 2 then none
  else match rvBits w 27 5 with
    | 0x00 => rounded fun rm => rvAdd f rm false a b
    | 0x01 => rounded fun rm => rvAdd f rm true a b
    | 0x02 => rounded fun rm => rvMul f rm a b
    | 0x03 => rounded fun rm => rvDivide f rm a b
    | 0x0B => if t = 0 then rounded fun rm => rvSqrt f rm a else none
    | 0x04 => if f3 < 3 then some (x.fpResult w dbl ⟨rvSgnj f f3 a b, 0⟩) else none
    | 0x05 => if f3 < 2 then some (x.fpResult w dbl (rvMinMax f (decide (f3 = 1)) a b)) else none
    | 0x08 =>
      if t = (if dbl then 0 else 1) then
        rounded fun rm => rvConvert (rvFmt !dbl) f rm (rvUnbox (!dbl) ra)
      else none
    | 0x14 =>
      if f3 < 3 then
        let r := rvCompare f f3 a b
        some (x.fpInt w (rvFlag r.1) r.2)
      else none
    | 0x18 => if t < 4 then (x.rounding w).map fun rm => x.fpCvt w dbl true a rm else none
    | 0x1A => if t < 4 then (x.rounding w).map fun rm => x.fpCvt w dbl false a rm else none
    | 0x1C =>
      if t ≠ 0 then none
      else if f3 = 0 then some (x.fpInt w (if dbl then BitVec.ofNat 64 ra else rvSext32 (BitVec.ofNat 32 ra)) 0)
      else if f3 = 1 then some (x.fpInt w (BitVec.ofNat 64 (rvClass f a)) 0)
      else none
    | 0x1E => if t = 0 ∧ f3 = 0 then some (x.setF (rvRd w) (if dbl then 8 else 4) (x.reg (rvRs1 w)).cur) else none
    | _ => none

/-- FMADD, FMSUB, FNMSUB and FNMADD, by bits [3:2] of the opcode. -/
def Sc.fma (x : Sc) (w : Nat) : Option Sc :=
  let dbl := decide (rvBits w 25 2 = 1)
  let f := rvFmt dbl
  let r (i : BitVec 5) : Nat := rvUnbox dbl (x.f.getD i.toNat 0)
  let op := rvBits w 2 2
  if 2 ≤ rvBits w 25 2 then none
  else (x.rounding w).map fun rm =>
    x.fpResult w dbl (rvFma f rm (decide (2 ≤ op)) (decide (op = 1 ∨ op = 3)) (r (rvRs1 w)) (r (rvRs2 w)) (r (rvRs3 w)))

/-! ## One word -/

/-- A jump: the program counter's cursor moves, and `link` receives the address of the next instruction. -/
def Sc.jump (x : Sc) (link : BitVec 5) (len : Nat) (a : Word) : Sc :=
  { x.setReg link (.int (BitVec.ofNat 64 (x.pc.cur + len))) with pc := x.pc.move a.toNat }

/-- The effect of the RV64IMAFDC word `w`, of `len` bytes; `raw` is the word as fetched. -/
def State.rvRun (s : State) (c w raw len : Nat) : ScFetch :=
  let x := s.sc c
  let a : Word := BitVec.ofNat 64 (x.reg (rvRs1 w)).cur
  let b : Word := BitVec.ofNat 64 (x.reg (rvRs2 w)).cur
  let pc : Word := BitVec.ofNat 64 x.pc.cur
  let f3 := rvBits w 12 3
  let bad : ScFetch := .done (s.scIllegal c raw)
  let off := x.mst.extractLsb' 13 2 = 0
  let write (r : Option Word) : ScFetch := match r with
    | some v => .done (s.scNext c (rvRd w) (.int v) len)
    | none => bad
  let fp (r : Option Sc) : ScFetch := if off then bad else match r with
    | some y => .done (s.setSc c (y.step len))
    | none => bad
  match w % 128 with
  | 0x37 => write (some (BitVec.ofInt 64 (rvImmU w)))
  | 0x17 => write (some (pc + BitVec.ofInt 64 (rvImmU w)))
  | 0x6F => .done (s.setSc c (x.jump (rvRd w) len (pc + BitVec.ofInt 64 (rvImmJ w))))
  | 0x67 => if f3 = 0 then .done (s.setSc c (x.jump (rvRd w) len ((a + BitVec.ofInt 64 (rvImmI w)) &&& ~~~(1 : Word)))) else bad
  | 0x63 => match rvTaken f3 a b with
    | some true => .done (s.setSc c { x with pc := x.pc.move (pc + BitVec.ofInt 64 (rvImmB w)).toNat })
    | some false => .done (s.setSc c (x.step len))
    | none => bad
  | 0x03 => if f3 = 7 then bad else s.scGo c (rvRs1 w) (rvImmI w) len (.load (2 ^ (f3 % 4)) (decide (f3 < 4)) (rvRd w) false)
  | 0x23 => if 4 ≤ f3 then bad else s.scGo c (rvRs1 w) (rvImmS w) len (.store (2 ^ f3) (rvRs2 w) false)
  | 0x13 => write (rvOpImm w a)
  | 0x1B => write (rvOpImm32 w a)
  | 0x33 => write (rvOp (rvBits w 25 7) f3 a b)
  | 0x3B => write (rvOp32 (rvBits w 25 7) f3 a b)
  | 0x0F => if f3 = 0 then .done (s.scFence c (rvBits w 24 4) (rvBits w 20 4) len)
    else if f3 = 1 then .done (s.setSc c (x.step len)) else bad
  | 0x73 => .done (if f3 = 0 then s.scSystem c w raw len else if f3 = 4 then s.scIllegal c raw else s.scCsr c w raw len)
  | 0x2F => match rvAtomic w with
    | some op => s.scGo c (rvRs1 w) 0 len op
    | none => bad
  | 0x07 => if off ∨ (f3 ≠ 2 ∧ f3 ≠ 3) then bad else s.scGo c (rvRs1 w) (rvImmI w) len (.fload (2 ^ f3) (rvRd w))
  | 0x27 => if off ∨ (f3 ≠ 2 ∧ f3 ≠ 3) then bad else s.scGo c (rvRs1 w) (rvImmS w) len (.fstore (2 ^ f3) (rvRs2 w))
  | 0x43 => fp (x.fma w)
  | 0x47 => fp (x.fma w)
  | 0x4B => fp (x.fma w)
  | 0x4F => fp (x.fma w)
  | 0x53 => fp (x.opFp w)
  | _ => bad

/-! ## A step -/

/-- `n` bytes at a service core's program counter, or the state after the exception of the fetch. -/
def State.scCode (s : State) (c n : Nat) : Except State (State × Nat) :=
  let lv := (s.sc c).pc
  let a := lv.cur
  if a % 2 ≠ 0 then .error (s.scTrap c 0 (BitVec.ofNat 64 a))
  else match lv.check rFX a n with
    | some k => .error (s.scTrap c 28 (BitVec.ofNat 64 a) (some k))
    | none =>
      match s.scRead c lv .fetch true (BitVec.ofNat 64 a) n with
      | .done s l => .ok (s, leNat l)
      | .stop s => .error s

/-- The word at a service core's program counter; a word of 16 bits is fetched alone. -/
def State.scFetch (s : State) (c : Nat) : Except State (State × BitVec 32) :=
  match s.scCode c 2 with
  | .error s => .error s
  | .ok (s', x) =>
    if x % 4 ≠ 3 then .ok (s', BitVec.ofNat 32 x)
    else match s.scCode c 4 with
      | .error s => .error s
      | .ok (s, x) => .ok (s, BitVec.ofNat 32 x)

/-- A service core's step up to the execution of a levee instruction or event: an interrupt, or its instruction. A core
that does not run yet is started by its first step (log entry 6). -/
def State.serviceStep (s : State) (n : Nat) : ScFetch :=
  let x := s.sc n
  if 16 ≤ n ∨ x.await.isSome then .done s
  else if !x.running then .done (s.setSc n { x with running := true })
  else match x.irq with
    | some (i, toS) => .done (s.setSc n (x.interrupted i toS))
    | none => match s.scFetch n with
      | .error s => .done s
      | .ok (s, w) =>
        if w.toNat % 4 ≠ 3 then
          match rvExpand w.toNat with
          | some v => s.rvRun n v w.toNat 2
          | none => .done (s.scIllegal n w.toNat)
        else match decodeLv w with
          | .ok i => .run i { s with cur := .service n }
          | .illegal => .done (s.scTrap n 2 (w.setWidth 64))
          | .base => s.rvRun n w.toNat w.toNat 4

end Sys2Proof.Machine
end

