-- ==== Sys2Proof/Machine/Step.lean ====
section
/-! DEFINITION. One step of the package: the schedule names who moves, the fetched and decoded instruction runs. -/

namespace Sys2Proof.Machine

/-- What runs after a fibre's fetch. -/
def afterFetch : Fetch → Host.Outcome State Fault Refusal
  | .run i s => exec i s
  | .done s => .next s

/-- What runs after a service core's fetch. -/
def afterScFetch : ScFetch → Host.Outcome State Fault Refusal
  | .run i s => exec i s
  | .done s => .next s

/-- One step. A batch that has begun is issued to its end (02 R37). With nothing scheduled the fibre that has waited
longest has its turn, one cycle passing, and a package with none idles. -/
def step (s : State) : Host.Outcome State Fault Refusal :=
  match s.batch.rest with
  | _ :: _ => afterFetch s.batchStep
  | [] =>
    match s.sched with
    | [] =>
      match s.choose with
      | none => .next s
      | some f => afterFetch ((s.elapse 0 (List.replicate 8 1)).turn f none).batchStep
    | t :: rest =>
      let s := ({ s with sched := rest }).elapse t.ns t.cycles
      match t.who with
      | .fibre f => afterFetch (s.turn f t.apart).batchStep
      | .service n => afterScFetch (s.serviceStep n)
      | .event e => exec (eventInstr e) { s with cur := .event e }

/-- The state with the word of one instruction placed where the next step fetches (log entry 1). -/
def State.withFetchWord (s : State) (nbits w : Nat) : State := s.placed nbits w

end Sys2Proof.Machine
end

