-- ==== Sys2Proof/Safety.lean ====
section
/-! DEFINITION. What counts as a safe run: every memory of the package keeps its one canonical form. -/

namespace Sys2Proof.Machine

/-- Physical memory is canonical: addresses strictly rising and no zero byte listed. -/
def State.Inv (s : State) : Prop := Mem.wf s.mem = true

end Sys2Proof.Machine
end

