-- ==== Sys2Proof/Certificates/Slice0/Obligations.lean ====
section
/-! DEFINITION. The statements for the provers, and the vocabulary they are said in. -/

namespace Sys2Proof.Claims

open Sys2Proof.Machine

/-! ## Issue -/

/-- A fibre issues an instruction of operands `ops` with nothing in its way: the step is the fibre's (`cx`), orders 2
and 3 of R216 pass, and no operand waits for a pending result. -/
structure Ready (s : State) (c : Cx) (ops : List Opnd) : Prop where
  cx   : s.cx = some c
  pass : operandCheck c.counts c.fb ops = none

/-- The state after an instruction that changes its fibre by `g` and gives `dst` with lookahead `look`. -/
def wrote (c : Cx) (look : Nat) (dst : List (RegRef × WVal)) (g : Fibre → Fibre := id) : State :=
  c.finish (.ok ((c.issued.setF g).writeBack c.f look dst))

/-- The step answers a next state, and it satisfies `P`. -/
def Gives (r : Out) (P : State → Prop) : Prop := ∃ t, r = .next t ∧ P t
/-- Fibre `f` of `t` satisfies `P`. -/
def FibAt (t : State) (f : Nat) (P : Fibre → Prop) : Prop := ∃ x, t.fibres.find? f = some x ∧ P x
/-- Workgroup `w` of `t` satisfies `P`. -/
def WgAt (t : State) (w : Nat) (P : Wg → Prop) : Prop := ∃ x, t.wgs.find? w = some x ∧ P x

/-! ## Scalar arithmetic (10 R252 to R255) -/

/-- A `w`-bit scalar operand. -/
def sArg (c : Cx) (w : Nat) (a : BitVec 6) : BitVec w := (c.fb.sreg a.toNat).setWidth w

/-- Source B of class S in `w` bits. -/
def sArgB (c : Cx) (w : Nat) : SSrc → BitVec w
  | .reg b => sArg c w b
  | .imm v => (v.signExtend 64).setWidth w
  | .long v => (v.signExtend 64).setWidth w

/-- A `w`-bit result extended into a scalar register. -/
def sExt {w : Nat} (signed : Bool) (r : BitVec w) : Word := if signed then r.signExtend 64 else r.setWidth 64

/-- The result with C and V, of a two-source form in `w` bits. -/
abbrev Arith := (w : Nat) → Bool → BitVec w → BitVec w → BitVec w × Bool × Bool

/-- V of a division. -/
def divV {w : Nat} (signed : Bool) (a b : BitVec w) : Bool :=
  b == 0 || (signed && a == BitVec.intMin w && b == BitVec.allOnes w)

/-- R253, R254, R255: the two-source forms of major 0x04. -/
def arith : Instr → Option (SOp × Arith)
  | .sadd o => some (o, fun _ _ a b => (a + b, a.uaddOverflow b, a.saddOverflow b))
  | .ssub o => some (o, fun _ _ a b => (a - b, !a.usubOverflow b, a.ssubOverflow b))
  | .smul o => some (o, fun _ g a b =>
      let ov := if g then a.smulOverflow b else a.umulOverflow b
      (a * b, ov, ov))
  | .smulh o => some (o, fun w _ a b => (BitVec.ofInt w (a.toInt * b.toInt / 2 ^ w), false, false))
  | .smulhu o => some (o, fun w _ a b => (BitVec.ofNat w (a.toNat * b.toNat / 2 ^ w), false, false))
  | .sdiv o => some (o, fun w _ a b => (if b = 0 then BitVec.allOnes w else a.sdiv b, false, divV true a b))
  | .sdivu o => some (o, fun w _ a b => (if b = 0 then BitVec.allOnes w else a.udiv b, false, divV false a b))
  | .srem o => some (o, fun _ _ a b => (if b = 0 then a else a.srem b, false, divV true a b))
  | .sremu o => some (o, fun _ _ a b => (if b = 0 then a else a.umod b, false, divV false a b))
  | .sand o => some (o, fun _ _ a b => (a &&& b, false, false))
  | .sor o => some (o, fun _ _ a b => (a ||| b, false, false))
  | .sxor o => some (o, fun _ _ a b => (a ^^^ b, false, false))
  | .sandn o => some (o, fun _ _ a b => (a &&& ~~~b, false, false))
  | .sshl o => some (o, fun w _ a b => (a <<< (b.toNat % w), false, false))
  | .sshr o => some (o, fun w _ a b => (a >>> (b.toNat % w), false, false))
  | .ssra o => some (o, fun w _ a b => (a.sshiftRight (b.toNat % w), false, false))
  | .srot o => some (o, fun w _ a b => (a.rotateRight (b.toNat % w), false, false))
  | .smin o => some (o, fun _ _ a b => (if a.slt b then a else b, false, false))
  | .smax o => some (o, fun _ _ a b => (if a.slt b then b else a, false, false))
  | .sminu o => some (o, fun _ _ a b => (if a.ult b then a else b, false, false))
  | .smaxu o => some (o, fun _ _ a b => (if a.ult b then b else a, false, false))
  | _ => none

/-- R253, R257: the one-source forms. -/
def arithOne : Instr → Option (SUn × ((w : Nat) → BitVec w → BitVec w))
  | .sclz o => some (o, fun w a => BitVec.ofNat w ((List.range w).takeWhile fun i => !a.getMsbD i).length)
  | .sctz o => some (o, fun w a => BitVec.ofNat w ((List.range w).takeWhile fun i => !a.getLsbD i).length)
  | .spop o => some (o, fun w a => BitVec.ofNat w ((List.range w).countP fun i => a.getLsbD i))
  | .sext o => some (o, fun _ a => a)
  | .smov o => some (o, fun _ a => a)
  | _ => none

/-- The flags of a result (R255). -/
def flagsFor {w : Nat} (r : BitVec w) (cv : Bool × Bool) : Flags := { z := r == 0, n := r.msb, c := cv.1, v := cv.2 }

/-- The state after a form of major 0x04 or 0x05 with result `r`. -/
def sDone {w : Nat} (c : Cx) (ty : Ty) (sf : Bool) (look : BitVec 4) (d : BitVec 6) (r : BitVec w) (cv : Bool × Bool) : State :=
  wrote c look.toNat [(.s d.toNat, .s (sExt ty.signed r))] (if sf then (·.setFlags (flagsFor r cv)) else id)

/-! ## Moves, special registers and masks (10 R257 to R262) -/

/-- The immediate of SLI: imm16 or IMM58, sign-extended. -/
def sliImm : Disp → Word
  | .imm v => v.signExtend 64
  | .long v => v.signExtend 64

/-- Source B of SSEL and other forms that take a register or IMM58. -/
def regOrImm (c : Cx) : RegOrLong → Word
  | .reg b => c.fb.sreg b.toNat
  | .long v => v.signExtend 64

/-- The number of commands of the fibre in a counter, 255 at most (R260). -/
def ocField (c : Cx) (k : Ctr) : Nat := min (c.s.oc c.f c.fb k) 255

/-- Field Fi of the fibre's WID: WIDTHi bits above those of the fields before it (R28). -/
def widPart (c : Cx) (i : Nat) : Word :=
  BitVec.ofNat 64 ((widOf c.l c.w c.fb.num).toNat / 2 ^ c.l.shift i % 2 ^ c.l.width i)

/-- What SGETSR reads (R258 to R260). -/
def sregValue (c : Cx) : SReg → Word
  | .wid => widOf c.l c.w c.fb.num
  | .wf0 => 0
  | .wf1 => widPart c 1
  | .wf2 => widPart c 2
  | .wf3 => widPart c 3
  | .wf4 => widPart c 4
  | .wf5 => widPart c 5
  | .lane => BitVec.ofNat 64 (c.fb.num * c.w.width % 128)
  | .fwidth => BitVec.ofNat 64 c.w.width
  | .gang => BitVec.ofNat 64 ((c.w.gangs.getD (c.fb.num * c.w.width / 128) none).getD 0)
  | .core => BitVec.ofNat 64 c.w.core
  | .clus => BitVec.ofNat 64 (clusOf c.w.core)
  | .die => BitVec.ofNat 64 c.w.die
  | .chip => BitVec.ofNat 64 c.s.chip
  | .clk => BitVec.ofNat 64 (c.s.clk c.w.die)
  | .partw => BitVec.ofNat 64 (fieldLe c.l.record 0x10 4)
  | .ucause => c.fb.ucause
  | .upc => c.fb.upc
  | .uinfo => c.fb.uinfo
  | .fmode => if c.fb.ftz then 1 else 0
  | .lkst0 => (c.fb.slot 0).word
  | .lkst1 => (c.fb.slot 1).word
  | .lkst2 => (c.fb.slot 2).word
  | .lkst3 => (c.fb.slot 3).word
  | .flags => 0#60 ++ BitVec.ofBool c.fb.n ++ BitVec.ofBool c.fb.z ++ BitVec.ofBool c.fb.c ++ BitVec.ofBool c.fb.o
  | .lsdepth => BitVec.ofNat 64 c.fb.loops.length
  | .ocnt => BitVec.ofNat 64 (ocField c .ocm + 2 ^ 8 * ocField c .ocf + 2 ^ 16 * ocField c .ocg + 2 ^ 24 * ocField c .occ
      + 2 ^ 32 * ocField c .oca + 2 ^ 40 * ocField c .oci)
  | .fbatch => BitVec.ofNat 64 (c.fb.batch % 65536)

/-- A form that gives one scalar register a value: its operands, lookahead, destination and value. -/
structure SRow where
  ops  : List Opnd
  look : BitVec 4
  d    : BitVec 6
  val  : Word

/-- R257 to R262: the forms that write one scalar register and nothing else. -/
def scalarForm (c : Cx) : Instr → Option SRow
  | .sadr o => some ⟨[sDst o.d], o.look, o.d, c.fb.pc + o.off.signExtend 64 * 8⟩
  | .sgetsr o => some ⟨[sDst o.d], o.look, o.d, sregValue c o.sel⟩
  | .ssel o => some ⟨sDst o.d :: sSrc o.a :: regOrLongOpnds o.b, o.look, o.d,
      sExt o.ty.signed ((if condHolds o.cond c.fb.flags then c.fb.sreg o.a.toNat else regOrImm c o.b).setWidth o.ty.width)⟩
  | .kpop o => some ⟨[sDst o.d, mSrc o.a], 0, o.d,
      BitVec.ofNat 64 ((List.range c.w.width).countP fun l => (c.fb.mreg o.a.toNat).getLsbD l)⟩
  | .kfirst o => some ⟨[sDst o.d, mSrc o.a], 0, o.d,
      match (List.range c.w.width).find? fun l => (c.fb.mreg o.a.toNat).getLsbD l with
      | some l => BitVec.ofNat 64 l
      | none => BitVec.allOnes 64⟩
  | .ktos o => some ⟨[sDst o.d, mSrc o.a], 0, o.d, (c.fb.mreg o.a.toNat >>> (64 * o.n.toNat)).setWidth 64⟩
  | _ => none

/-- R262: the forms that write one mask: operands, destination and value. -/
def maskForm (c : Cx) : Instr → Option (List Opnd × BitVec 4 × Wide)
  | .kand o => some ([mDst o.d, mSrc o.a, mSrc o.b], o.d, c.fb.mreg o.a.toNat &&& c.fb.mreg o.b.toNat)
  | .kor o => some ([mDst o.d, mSrc o.a, mSrc o.b], o.d, c.fb.mreg o.a.toNat ||| c.fb.mreg o.b.toNat)
  | .kxor o => some ([mDst o.d, mSrc o.a, mSrc o.b], o.d, c.fb.mreg o.a.toNat ^^^ c.fb.mreg o.b.toNat)
  | .kandn o => some ([mDst o.d, mSrc o.a, mSrc o.b], o.d, c.fb.mreg o.a.toNat &&& ~~~c.fb.mreg o.b.toNat)
  | .knot o => some ([mDst o.d, mSrc o.a], o.d, ~~~c.fb.mreg o.a.toNat)
  | .kmov o => some ([mDst o.d, mSrc o.a], o.d, c.fb.mreg o.a.toNat)
  | .kfroms o => some ([mDst o.d, sSrc o.a, sSrc o.b], o.d, c.fb.sreg o.b.toNat ++ c.fb.sreg o.a.toNat)
  | _ => none

/-! ## Effects on the fibre alone -/

/-- The state after the precise trap `k` of an instruction, with nothing of it done (08 R216, 17 R415): a batch that a waiting
FLWAIT sealed is open again. -/
def trapped (c : Cx) (k : Cause) (info word : Word) (more : Nat := 0) : State :=
  (c.s.setFib c.f c.fb.unsealed).takeTrap c.f k info word more

/-- The state after an instruction whose whole effect is the change `g` of its fibre. -/
def changed (c : Cx) (g : Fibre → Fibre) : State := c.finish (.ok (c.issued.setF g))

/-- R256: the flags that a compare writes. -/
def compareFlags {w : Nat} (a b : BitVec w) : Instr → Option Flags
  | .scmp _ => some (flagsFor (a - b) (!a.usubOverflow b, a.ssubOverflow b))
  | .scmn _ => some (flagsFor (a + b) (a.uaddOverflow b, a.saddOverflow b))
  | .stst _ => some (flagsFor (a &&& b) (false, false))
  | _ => none

/-- The operands of a compare. -/
def compareOp : Instr → Option ScmpOp
  | .scmp o => some o
  | .scmn o => some o
  | .stst o => some o
  | _ => none

/-- What a condition says of the operands of SCMP that set the flags (R203). -/
def condSays {w : Nat} (a b : BitVec w) : Cond → Option Bool
  | .eq => some (a == b)
  | .ne => some (a != b)
  | .hs => some (b.ule a)
  | .lo => some (a.ult b)
  | .hi => some (b.ult a)
  | .ls => some (a.ule b)
  | .ge => some (b.sle a)
  | .lt => some (a.slt b)
  | .gt => some (b.slt a)
  | .le => some (a.sle b)
  | .always => some true
  | .mi | .pl | .vs | .vc => none

/-! ## Branches (10 R235 to R243) -/

/-- The address that a branch offset names: words from the branch. -/
def branchTo (c : Cx) : Off → Word
  | .short x => c.fb.pc + x.signExtend 64 * 8
  | .long x => c.fb.pc + x.signExtend 64 * 8

/-- The state after a taken branch to header `a` that leaves the loop entries `loops` and changes the fibre by `g`. -/
def branched (c : Cx) (a : Word) (loops : List LoopEntry) (g : Fibre → Fibre := id) : State :=
  c.finish (.jump (c.issued.setF fun x => { g x with loops, pc := a, blkEnd := a }))

/-- The loop entries that stay on a branch to `a`: those from the first whose body contains it (R41). -/
def loopsAt (c : Cx) (a : Word) : List LoopEntry :=
  c.fb.loops.dropWhile fun t => !(t.start.toNat ≤ a.toNat && a.toNat ≤ t.last.toNat)

/-- The lanes of Mm that are live. -/
def laneSet (c : Cx) (m : BitVec 4) : Wide := c.fb.mreg m.toNat &&& c.fb.mreg 0

/-- R237 to R239: the branches: operands, whether the branch is taken, and its target. -/
def branchForm (c : Cx) : Instr → Option (List Opnd × Bool × Word)
  | .b o => some ([], condHolds o.cond c.fb.flags, branchTo c o.off)
  | .bmz o => some ([mSrc o.m], laneSet c o.m == 0, branchTo c o.off)
  | .bmnz o => some ([mSrc o.m], laneSet c o.m != 0, branchTo c o.off)
  | .bmall o => some ([mSrc o.m], laneSet c o.m == c.fb.mreg 0, branchTo c o.off)
  | .bmnall o => some ([mSrc o.m], laneSet c o.m != c.fb.mreg 0, branchTo c o.off)
  | .bri o => some ([sSrc o.a], true, c.fb.sreg o.a.toNat)
  | _ => none

/-- R240: the calls: operands and target. -/
def callForm (c : Cx) : Instr → Option (List Opnd × Word)
  | .call o => some ([sDst 63], branchTo c o.off)
  | .calli o => some ([sSrc o.a, sDst 63], c.fb.sreg o.a.toNat)
  | _ => none

/-- The address after the instruction. -/
def after (c : Cx) : Word := c.fb.pc + BitVec.ofNat 64 c.len

/-- The count of a LOOP and the address of its exit (R242). -/
def loopSays (c : Cx) : LoopCount → Nat × Word
  | .imm n o => (n.toNat, branchTo c (.short o))
  | .long n o => (n.toNat, branchTo c (.short o))
  | .reg r o => ((c.fb.sreg r.toNat).toNat % 2 ^ 32, branchTo c o)

/-- The forms that must end their block (R236), with their operands. -/
def closingForm : Instr → Option (List Opnd)
  | .call _ => some [sDst 63]
  | .calli o => some [sSrc o.a, sDst 63]
  | .loop o => some (LoopCountOpnds o.count)
  | _ => none

/-- R246: the traps that an instruction takes by itself: cause and information value. -/
def trapForm (c : Cx) : Instr → Option (Cause × Word)
  | .trap o => some (.trapi, o.n.setWidth 64)
  | .halt => some (.trapi, 0x100)
  | .bkpt => some (.bkpt, (c.word.extractLsb' 20 8).setWidth 64)
  | _ => none

/-! ## Vector forms (11) -/

/-- Whether lane `l` is active under mask `m`: live and set in Mm (R34). -/
def activeLane (c : Cx) (m : BitVec 4) (l : Nat) : Bool := (laneSet c m).getLsbD l

/-- The active lanes, ascending. -/
def activeLanes (c : Cx) (m : BitVec 4) : List Nat := (List.range c.w.width).filter (activeLane c m)

/-- The element of type `t` at Vn in lane `l`: one, two or four registers, the bits above the width ignored (R263). -/
def elemAt (c : Cx) (t : Ty) (n : BitVec 8) (l : Nat) : BitVec t.width :=
  BitVec.ofNat t.width (elemOf (c.fb.vregs n.toNat (regsOf t.width)) l)

/-- The element of source B in lane `l` (R264). -/
def elemB (c : Cx) (t : Ty) (b : VSrc) (l : Nat) : BitVec t.width :=
  match b with
  | .absent => 0
  | .vec n => elemAt c t n l
  | .sca n => (c.fb.sreg n.toNat).setWidth t.width
  | .long v => (v.signExtend 64).setWidth t.width

/-- A control operand in source B, read as 32 bits (R263). -/
def ctlB (c : Cx) (b : VSrc) (l : Nat) : Nat :=
  match b with
  | .absent => 0
  | .vec n => ((c.fb.vreg n.toNat).lane l).toNat
  | .sca n => (c.fb.sreg n.toNat).toNat % 2 ^ 32
  | .long v => (v.signExtend 64).toNat % 2 ^ 32

/-- A 32-bit lane of Vn. -/
def wordAt (c : Cx) (n : BitVec 8) (l : Nat) : Nat := ((c.fb.vreg n.toNat).lane l).toNat

/-- A form that writes an element: its operands, lookahead, mask, destination of `k` registers, the element that an
active lane receives, and the SRS it leaves. -/
structure VRow where
  ops  : List Opnd
  look : BitVec 4
  m    : BitVec 4
  d    : Nat
  k    : Nat
  val  : Nat → Nat
  srs  : Fibre → Fibre := id

/-- The writes `dst` give every active lane its element and leave every other live lane as it was. -/
def LaneWrites (c : Cx) (r : VRow) (dst : List (RegRef × WVal)) : Prop :=
  dst.length = r.k ∧ ∀ i < r.k, ∃ x : VVal, dst[i]? = some (.v (r.d + i), .v x) ∧ ∀ l < c.w.width,
    (activeLane c r.m l = true → x.lane l = BitVec.ofNat 32 (r.val l / 2 ^ (32 * i))) ∧
    (activeLane c r.m l = false → (c.fb.mreg 0).getLsbD l = true → x.lane l = (c.fb.vreg (r.d + i)).lane l)

/-- The writes of `k` registers from Vd that give every active lane under `m` the element `val`. -/
def LaneVals (c : Cx) (m : BitVec 4) (d : BitVec 8) (k : Nat) (val : Nat → Nat) (dst : List (RegRef × WVal)) : Prop :=
  LaneWrites c { ops := [], look := 0, m, d := d.toNat, k, val } dst

/-- A row with the destination, lookahead and mask of `o`. -/
def vRow (o : VOp) (ops : List Opnd) (val : Nat → Nat) : VRow :=
  { ops := ops ++ [mSrc o.m], look := o.look, m := o.m, d := o.d.toNat, k := regsOf o.ty.width, val }

/-- A row that writes one register. -/
def vRow1 (o : VOp) (ops : List Opnd) (val : Nat → Nat) : VRow := { vRow o ops val with k := 1 }

/-- The integer that an element stands for. -/
def asInt {w : Nat} (signed : Bool) (x : BitVec w) : Int := if signed then x.toInt else x.toNat

/-- An exact integer result clamped to the type under SAT, else modulo 2^w (R60). -/
def fit (w : Nat) (signed sat : Bool) (x : Int) : BitVec w :=
  let lo : Int := if signed then -(2 ^ (w - 1)) else 0
  let hi : Int := if signed then 2 ^ (w - 1) - 1 else 2 ^ w - 1
  BitVec.ofInt w (if sat then max lo (min hi x) else x)

/-- A form of two element sources: by width, signedness and SAT. -/
abbrev VArith := (w : Nat) → Bool → Bool → BitVec w → BitVec w → BitVec w

/-- R268, R269: the forms of two element sources. -/
def vArith : Instr → Option (VOp × VArith)
  | .vadd o => some (o, fun w g sat a b => fit w g sat (asInt g a + asInt g b))
  | .vsub o => some (o, fun w g sat a b => fit w g sat (asInt g a - asInt g b))
  | .vmul o => some (o, fun w g sat a b => fit w g sat (asInt g a * asInt g b))
  | .vmulh o => some (o, fun w g _ a b => BitVec.ofInt w (asInt g a * asInt g b / 2 ^ w))
  | .vmin o => some (o, fun _ g _ a b => if asInt g a < asInt g b then a else b)
  | .vmax o => some (o, fun _ g _ a b => if asInt g a < asInt g b then b else a)
  | .vavg o => some (o, fun w g _ a b => BitVec.ofInt w ((asInt g a + asInt g b + 1) / 2))
  | .vabsd o => some (o, fun w g sat a b => fit w g sat ((asInt g a - asInt g b).natAbs : Int))
  | .vdiv o => some (o, fun w g _ a b => if b = 0 then BitVec.allOnes w else if g then a.sdiv b else a.udiv b)
  | .vrem o => some (o, fun _ g _ a b => if b = 0 then a else if g then a.srem b else a.umod b)
  | .vand o => some (o, fun _ _ _ a b => a &&& b)
  | .vor o => some (o, fun _ _ _ a b => a ||| b)
  | .vxor o => some (o, fun _ _ _ a b => a ^^^ b)
  | .vandn o => some (o, fun _ _ _ a b => a &&& ~~~b)
  | _ => none

/-- R268, R269: the forms of one element source. -/
def vArithOne : Instr → Option (VOp × ((w : Nat) → Bool → Bool → BitVec w → BitVec w))
  | .vabs o => some (o, fun w g sat a => fit w g sat ((asInt g a).natAbs : Int))
  | .vneg o => some (o, fun w g sat a => fit w g sat (-asInt g a))
  | .vnot o => some (o, fun _ _ _ a => ~~~a)
  | .vclz o => some (o, fun w _ _ a => BitVec.ofNat w ((List.range w).takeWhile fun i => !a.getMsbD i).length)
  | .vctz o => some (o, fun w _ _ a => BitVec.ofNat w ((List.range w).takeWhile fun i => !a.getLsbD i).length)
  | .vpop o => some (o, fun w _ _ a => BitVec.ofNat w ((List.range w).countP fun i => a.getLsbD i))
  | .vbrev o => some (o, fun _ _ _ a => a.reverse)
  | _ => none

/-- R269: the shifts and rotations, by a 32-bit control operand. -/
def vShift : Instr → Option (VOp × ((w : Nat) → Bool → BitVec w → Nat → BitVec w))
  | .vshl o => some (o, fun w _ a n => a <<< (n % w))
  | .vshr o => some (o, fun w g a n => if g then a.sshiftRight (n % w) else a >>> (n % w))
  | .vrot o => some (o, fun w _ a n => a.rotateRight (n % w))
  | _ => none

/-- R269: the field of `n` bits at bit `p`, cut at the width, extended by the type. -/
def fieldAt (g : Bool) {w : Nat} (a : BitVec w) (p n : Nat) : BitVec w :=
  if w ≤ p ∨ n = 0 then 0
  else
    let f : BitVec (min n (w - p)) := (a >>> p).setWidth (min n (w - p))
    if g then f.signExtend w else f.setWidth w

/-- R269: `a` with the field of `n` bits at bit `p`, cut at the width, replaced by the low bits of `b`. -/
def fieldPut {w : Nat} (a b : BitVec w) (p n : Nat) : BitVec w :=
  if w ≤ p ∨ n = 0 then a
  else
    let mask : BitVec w := (BitVec.allOnes w >>> (w - min n (w - p))) <<< p
    (a &&& ~~~mask) ||| ((b <<< p) &&& mask)

/-- R268, R269, R271: the integer forms as rows. -/
def vecInteger (c : Cx) : Instr → Option VRow
  | .vmad o => some (vRow o (vecOpndsAB o ++ [vSrc o.c.toNat (regsOf o.ty.width)]) fun l =>
      (fit o.ty.width o.ty.signed o.sat (asInt o.ty.signed (elemAt c o.ty o.a l) * asInt o.ty.signed (elemB c o.ty o.b l)
        + asInt o.ty.signed (elemAt c o.ty o.c l))).toNat)
  | .vbext o => some (vRow o (vecOpndsACtl o ++ [vSrc o.c.toNat 1]) fun l =>
      (fieldAt o.ty.signed (elemAt c o.ty o.a l) (ctlB c o.b l) (wordAt c o.c l)).toNat)
  | .vbins o => some (vRow o (vecOpndsAB o ++ [vSrc o.c.toNat 1]) fun l =>
      (fieldPut (elemAt c o.ty o.a l) (elemB c o.ty o.b l) (wordAt c o.c l % 256) (wordAt c o.c l / 256 % 256)).toNat)
  | .vsel o => some (vRow o (vecOpndsAB o ++ [mSrc (o.c.setWidth 4)]) fun l =>
      if (c.fb.mreg (o.c.toNat % 16)).getLsbD l then (elemAt c o.ty o.a l).toNat else (elemB c o.ty o.b l).toNat)
  | i =>
    match vArith i, vArithOne i, vShift i with
    | some (o, f), _, _ => some (vRow o (vecOpndsAB o) fun l =>
        (f o.ty.width o.ty.signed o.sat (elemAt c o.ty o.a l) (elemB c o.ty o.b l)).toNat)
    | _, some (o, f), _ => some (vRow o (vecOpndsA o) fun l => (f o.ty.width o.ty.signed o.sat (elemAt c o.ty o.a l)).toNat)
    | _, _, some (o, f) => some (vRow o (vecOpndsACtl o) fun l =>
        (f o.ty.width o.ty.signed (elemAt c o.ty o.a l) (ctlB c o.b l)).toNat)
    | none, none, none => none

/-! ## Floating point (11 R272 to R280) -/

/-- An element read through In: a subnormal is a zero of its sign under FTZ (R272). -/
def fIn (c : Cx) (t : Ty) (x : Nat) : FV := ftzIn c.fb.ftz (fmtOf t) (decodeFV (fmtOf t) x)

/-- The draw of .rsr in lane `l`; no other mode uses one (03 R64). -/
def drawAt (c : Cx) (rnd : Rnd) (l : Nat) : Nat := if rnd = .rsr then (nextSrs (c.fb.srs.getD l 0)).toNat else 0

/-- Under .rsr the SRS of every active lane advances once (03 R64). -/
def stepSrs (c : Cx) (m : BitVec 4) (rnd : Rnd) (f : Fibre) : Fibre :=
  if rnd = .rsr then { f with srs := (activeLanes c m).foldl (fun t l => t.put l (nextSrs (c.fb.srs.getD l 0))) f.srs } else f

/-- A row of a form that rounds. -/
def rounding (c : Cx) (rnd : Rnd) (r : VRow) : VRow := { r with srs := stepSrs c r.m rnd }

/-- An exact result rounded into the type, zero below min normal under FTZ (R272). -/
def fOut (c : Cx) (t : Ty) (rnd : Rnd) (l : Nat) (x : FV) : Nat := ftzOut c.fb.ftz (fmtOf t) rnd false (drawAt c rnd l) x

/-- R273: the rounding forms: the exact result of sources A, B and C (VSQRT has A alone). -/
def fpExact : Instr → Option (VOp × List Opnd × (FV → FV → FV → FV))
  | .vfadd o => some (o, vecOpndsAB o, fun x y _ => fvAdd (o.rnd == .rdn) x y)
  | .vfsub o => some (o, vecOpndsAB o, fun x y _ => fvAdd (o.rnd == .rdn) x (fvNeg y))
  | .vfmul o => some (o, vecOpndsAB o, fun x y _ => fvMul x y)
  | .vfdiv o => some (o, vecOpndsAB o, fun x y _ => fvDiv x y)
  | .vfma o => some (o, vecOpndsAB o ++ [vSrc o.c.toNat (regsOf o.ty.width)], fun x y z => fvAdd (o.rnd == .rdn) (fvMul x y) z)
  | .vfms o => some (o, vecOpndsAB o ++ [vSrc o.c.toNat (regsOf o.ty.width)], fun x y z => fvAdd (o.rnd == .rdn) (fvMul x y) (fvNeg z))
  | .vfnma o => some (o, vecOpndsAB o ++ [vSrc o.c.toNat (regsOf o.ty.width)], fun x y z => fvAdd (o.rnd == .rdn) (fvNeg (fvMul x y)) z)
  | .vfnms o => some (o, vecOpndsAB o ++ [vSrc o.c.toNat (regsOf o.ty.width)], fun x y z =>
      fvAdd (o.rnd == .rdn) (fvNeg (fvMul x y)) (fvNeg z))
  | .vsqrt o => some (o, vecOpndsA o, fun x _ _ => fvSqrt x)
  | _ => none

/-- R279: the transcendental forms. -/
def transOf : Instr → Option (VOp × TransOp)
  | .vexp2 o => some (o, .exp2)
  | .vlog2 o => some (o, .log2)
  | .vrcp o => some (o, .rcp)
  | .vrsq o => some (o, .rsq)
  | _ => none

/-- R273: the sign of the result of VFABS, VFNEG and VFSGN, whose magnitude is A's; a NaN gives the canonical NaN. -/
def signForm : Instr → Option (VOp × List Opnd × (Bool → Bool → Bool))
  | .vfabs o => some (o, vecOpndsA o, fun _ _ => false)
  | .vfneg o => some (o, vecOpndsA o, fun a _ => !a)
  | .vfsgn o => some (o, vecOpndsAB o, fun _ b => b)
  | _ => none

/-- The lesser or greater of two elements read through In (R274). -/
def fPick (c : Cx) (t : Ty) (greater : Bool) (a b : Nat) : Nat :=
  roundTo (fmtOf t) .rne false 0 (fvPick greater (fIn c t a) (fIn c t b))

/-- R280: the dot product of `n` packed elements of words `x` and `y`, added to `z`. -/
def dotValue (c : Cx) (o : VOp) (n l x y z : Nat) : Nat :=
  if o.ty.isInt then
    (fit 32 o.ty.signed o.sat ((List.range n).foldl (fun (acc : Int) k =>
      acc + asInt o.ty.signed (BitVec.ofNat o.ty.width (packedElem o.ty.width k x))
        * asInt o.ty.signed (BitVec.ofNat o.ty.width (packedElem o.ty.width k y))) (asInt o.ty.signed (BitVec.ofNat 32 z)))).toNat
  else
    fOut c .f32 o.rnd l ((List.range n).foldl (fun acc k => fvAdd (o.rnd == .rdn) acc
      (fvMul (fIn c o.ty (packedElem o.ty.width k x)) (fIn c o.ty (packedElem o.ty.width k y)))) (fIn c .f32 z))

/-- The operands of a dot product. -/
def dotOps (o : VOp) : List Opnd := [vDst o.d.toNat 1, vSrc o.a.toNat 1] ++ VSrc.opnds o.b 1 ++ [vSrc o.c.toNat 1]

/-- R272 to R280: the floating-point, conversion and packed forms as rows. -/
def vecFloat (c : Cx) : Instr → Option VRow
  | .vfmin o => some (vRow o (vecOpndsAB o) fun l => fPick c o.ty false (elemAt c o.ty o.a l).toNat (elemB c o.ty o.b l).toNat)
  | .vfmax o => some (vRow o (vecOpndsAB o) fun l => fPick c o.ty true (elemAt c o.ty o.a l).toNat (elemB c o.ty o.b l).toNat)
  | .vfclass o => some (vRow1 o [vDst o.d.toNat 1, vSrc o.a.toNat (regsOf o.ty.width)] fun l =>
      classWord (fmtOf o.ty) (elemAt c o.ty o.a l).toNat)
  | .vcvt o => some
      { ops := [vDst o.d.toNat (regsOf o.ty.width), vSrc o.a.toNat (regsOf o.src.width), mSrc o.m], look := o.look, m := o.m
        d := o.d.toNat, k := regsOf o.ty.width, srs := stepSrs c o.m o.rnd
        val := fun l => convert o c.fb.ftz (drawAt c o.rnd l) (elemAt c o.src o.a l).toNat }
  | .vpack o => some (vRow1 o (vecOpndsAB o) fun l => packField o.ty.width (wordAt c o.a l) (elemB c o.ty o.b l).toNat o.c.toNat)
  | .vunpk o => some (vRow1 o (vecOpndsA o) fun l => packedElem o.ty.width o.c.toNat (wordAt c o.a l))
  | .vdot2 o => some (rounding c o.rnd (vRow1 o (dotOps o) fun l => dotValue c o 2 l (wordAt c o.a l) (ctlB c o.b l) (wordAt c o.c l)))
  | .vdot4 o => some (rounding c o.rnd (vRow1 o (dotOps o) fun l => dotValue c o 4 l (wordAt c o.a l) (ctlB c o.b l) (wordAt c o.c l)))
  | i =>
    match fpExact i, transOf i, signForm i with
    | some (o, ops, f), _, _ => some (rounding c o.rnd (vRow o ops fun l => fOut c o.ty o.rnd l
        (f (fIn c o.ty (elemAt c o.ty o.a l).toNat) (fIn c o.ty (elemB c o.ty o.b l).toNat)
          (fIn c o.ty (elemAt c o.ty o.c l).toNat))))
    | _, some (o, f), _ => some (vRow o (vecOpndsA o) fun l => transcend f o.ty c.fb.ftz (elemAt c o.ty o.a l).toNat)
    | _, _, some (o, ops, f) => some (vRow o ops fun l =>
        let a := elemAt c o.ty o.a l
        if decodeFV (fmtOf o.ty) a.toNat = .nan then (fmtOf o.ty).qnan
        else a.toNat % 2 ^ (o.ty.width - 1) + (if f a.msb (elemB c o.ty o.b l).msb then 2 ^ (o.ty.width - 1) else 0))
    | none, none, none => none

/-! ## Lanes (11 R281 to R286) -/

/-- The lane that a scalar or immediate control operand names (R281). -/
def laneNamed (c : Cx) (b : VSrc) : Nat := ctlB c b 0 % c.w.width

/-- R282: the lane from which lane `l` receives, by control value `n`; none gives zero. -/
def laneFrom (w l n : Nat) : Instr → Option (VOp × Option Nat)
  | .vshuf o => some (o, some (n % w))
  | .vrotl o => some (o, some ((l + n) % w))
  | .vshup o => some (o, if n ≤ l then some (l - n) else none)
  | .vshdn o => some (o, if l + n < w then some (l + n) else none)
  | .vbfly o => some (o, some (l ^^^ (n % w)))
  | _ => none

/-- Op of R283 on two elements. -/
def combine (c : Cx) (t : Ty) (rnd : Rnd) (code x y : Nat) : Nat :=
  match code % 8 with
  | 0 => if t.isInt then (x + y) % 2 ^ t.width
      else ftzOut c.fb.ftz (fmtOf t) rnd false 0 (fvAdd (rnd == .rdn) (fIn c t x) (fIn c t y))
  | 1 => if t.isInt then (if asInt t.signed (BitVec.ofNat t.width x) < asInt t.signed (BitVec.ofNat t.width y) then x else y)
      else fPick c t false x y
  | 2 => if t.isInt then (if asInt t.signed (BitVec.ofNat t.width x) < asInt t.signed (BitVec.ofNat t.width y) then y else x)
      else fPick c t true x y
  | 3 => x &&& y
  | 4 => x ||| y
  | _ => x ^^^ y

/-- An element as the first operand of a combination (R283). -/
def firstOf (c : Cx) (t : Ty) (x : Nat) : Nat := if t.isInt then x else roundTo (fmtOf t) .rne false 0 (fIn c t x)

/-- The elements of the active lanes below `l`, combined from the lowest up (R284). -/
def scanBelow (c : Cx) (o : VOp) (l : Nat) : Option Nat :=
  match ((activeLanes c o.m).filter (· < l)).map fun j => firstOf c o.ty (elemAt c o.ty o.a j).toNat with
  | [] => none
  | x :: xs => some (xs.foldl (combine c o.ty o.rnd o.c.toNat) x)

/-- R284: VSCAN in lane `l`: exclusive (code 8 and above) the lower lanes alone, FirstValue where there is none. -/
def scanValue (c : Cx) (o : VOp) (l : Nat) : Nat :=
  let x := firstOf c o.ty (elemAt c o.ty o.a l).toNat
  if 8 ≤ o.c.toNat then (scanBelow c o l).getD (scanFirst o.ty o.c.toNat)
  else match scanBelow c o l with
    | none => x
    | some y => combine c o.ty o.rnd o.c.toNat y x

/-- R281, R282, R284 to R286: the forms that move elements between lanes as rows. -/
def vecLanes (c : Cx) : Instr → Option VRow
  | .vmov o => some (vRow o (vDst o.d.toNat (regsOf o.ty.width) :: VSrc.opnds o.b (regsOf o.ty.width)) fun l => (elemB c o.ty o.b l).toNat)
  | .vbcast o => some (vRow o (vecOpndsACtl o) fun _ => (elemAt c o.ty o.a (laneNamed c o.b)).toNat)
  | .viota o => some (vRow1 o (vDst o.d.toNat 1 :: VSrc.opnds o.b 1) fun l =>
      (BitVec.ofNat 32 (ctlB c o.b l) + o.c.signExtend 32 * BitVec.ofNat 32 l).toNat)
  | .vgetsrs o => some (vRow1 o [vDst o.d.toNat 1] fun l => (c.fb.srs.getD l 0).toNat)
  | .vscan o => some (vRow o (vecOpndsA o) (scanValue c o))
  | .vred o => some (vRow o (vecOpndsA o) fun _ =>
      (redTree (combine c o.ty o.rnd o.c.toNat) 7 ((List.range c.w.width).map fun l =>
        if activeLane c o.m l then some (firstOf c o.ty (elemAt c o.ty o.a l).toNat) else none)).getD 0)
  | .vcompact o => some
      { ops := vecOpndsA o ++ [mSrc o.m], look := o.look, m := 0, d := o.d.toNat, k := regsOf o.ty.width
        val := fun j => match (activeLanes c o.m)[j]? with
          | some l => (elemAt c o.ty o.a l).toNat
          | none => 0 }
  | .vexpand o => some (vRow o (vecOpndsA o) fun l => (elemAt c o.ty o.a ((activeLanes c o.m).filter (· < l)).length).toNat)
  | i => (laneFrom 1 0 0 i).map fun p => vRow p.1 (vecOpndsACtl p.1) fun l =>
      match laneFrom c.w.width l (ctlB c p.1.b l) i with
      | some (o, some j) => (elemAt c o.ty o.a j).toNat
      | _ => 0

/-! ## Tests (11 R270, R275) -/

/-- The conditions of VCMP (R270). -/
def intTest (g : Bool) {w : Nat} (a b : BitVec w) : Nat → Bool
  | 0 => a == b
  | 1 => a != b
  | 2 => asInt g a < asInt g b
  | 3 => asInt g a ≤ asInt g b
  | 4 => asInt g b < asInt g a
  | _ => asInt g b ≤ asInt g a

/-- R270, R275: the forms that write a mask: the test of a lane. -/
def vecTest (c : Cx) : Instr → Option (VOp × (Nat → Bool))
  | .vcmp o => some (o, fun l => intTest o.ty.signed (elemAt c o.ty o.a l) (elemB c o.ty o.b l) o.c.toNat)
  | .vtest o => some (o, fun l => elemAt c o.ty o.a l &&& elemB c o.ty o.b l != 0)
  | .vfcmp o => some (o, fun l => fcmpHolds o.c.toNat (fIn c o.ty (elemAt c o.ty o.a l).toNat) (fIn c o.ty (elemB c o.ty o.b l).toNat))
  | _ => none

/-- The active lanes with the element of lane `l` (R285). -/
def matching (c : Cx) (o : VOp) (l : Nat) : List Nat :=
  (activeLanes c o.m).filter fun j => elemAt c o.ty o.a j == elemAt c o.ty o.a l

/-! ## What an instruction that goes on leaves in its fibre -/

/-- In `t` the fibre stands after its instruction (R40, R210), and has received `dst`: at once for a lookahead of 0, else
as one pending result; every other register, the flags, FTZ and SRS are as before. -/
def GoesOn (c : Cx) (t : State) (look : Nat) (dst : List (RegRef × WVal)) : Prop :=
  ∃ x : Fibre, t.fibres.find? c.f = some x ∧ x.pc = (c.fb.advance c.len).pc ∧ x.loops = (c.fb.advance c.len).loops ∧
    x.await = .none ∧ x.flags = c.fb.flags ∧ x.ftz = c.fb.ftz ∧ x.srs = c.fb.srs ∧
    (look = 0 → x.s = (c.fb.putRegs dst).s ∧ x.v = (c.fb.putRegs dst).v ∧ x.m = (c.fb.putRegs dst).m ∧ x.pend = c.fb.pend) ∧
    (look ≠ 0 → x.s = c.fb.s ∧ x.v = c.fb.v ∧ x.m = c.fb.m ∧ ∃ id, x.pend = c.fb.pend ++ [⟨id, dst, 0, .ready⟩])

/-! ## Memory (12 R288 to R299) -/

/-- A displacement in bytes: imm8 in elements, or IMM58 in bytes (R289). -/
def dispOf (d : Disp) (size : Nat) : Word :=
  match d with
  | .imm v => BitVec.ofInt 64 (v.toInt * size)
  | .long v => v.signExtend 64

/-- An access at address `e`. -/
def accAt (l : Nat) (e : Word) : Acc := { lane := l, va := e, info := e }

/-- EA(l): Sb plus the sign-extended lane of Va plus the displacement (R290). -/
def laneAcc (c : Cx) (b : BitVec 6) (a : BitVec 8) (disp : Word) (l : Nat) : Acc :=
  accAt l (c.fb.sreg b.toNat + ((c.fb.vreg a.toNat).lane l).signExtend 64 + disp)

/-- The accesses of a per-lane form, one for each active lane. -/
def laneAccs (c : Cx) (o : MemV) : List Acc :=
  (activeLanes c o.m).map (laneAcc c o.b o.a (dispOf o.disp o.w.bytes))

/-- The access of a uniform form: the lowest active lane's, none where no lane is active. -/
def uniAccs (c : Cx) (o : MemU) : List Acc :=
  ((activeLanes c o.m).take 1).map fun l => accAt l (c.fb.sreg o.b.toNat + dispOf o.disp o.w.bytes)

/-- The access of a scalar form. -/
def scaAcc (c : Cx) (o : MemS) : Acc := accAt 0 (c.fb.sreg o.a.toNat + dispOf o.disp o.w.bytes)

/-- A loaded value in a V register: .i8 and .i16 are sign-extended to 32 bits, the others as read (R293). -/
def inLane (w : Width) (x : Nat) : Nat :=
  if w.signed && decide (w.bytes < 4) then ((BitVec.ofNat (8 * w.bytes) x).signExtend 32).toNat else x

/-- The memories that loads and stores reach. -/
inductive Space where
  | spad | global | priv
  deriving DecidableEq, Repr

/-- A load: operands, lookahead, bytes, accesses, space, and the writes that values by access give. -/
structure LRow where
  ops   : List Opnd
  look  : BitVec 4
  size  : Nat
  accs  : List Acc
  space : Space
  gives : (Acc → Nat) → List (RegRef × WVal) → Prop

/-- A per-lane load. -/
def lLane (c : Cx) (o : MemV) (space : Space) : LRow :=
  { ops := loadOpnds o, look := o.look, size := o.w.bytes, accs := laneAccs c o, space
    gives := fun val dst => LaneVals c o.m o.d (widthRegs o.w) (fun l =>
      inLane o.w (val (laneAcc c o.b o.a (dispOf o.disp o.w.bytes) l))) dst }

/-- A uniform load. -/
def lUni (c : Cx) (o : MemU) (space : Space) : LRow :=
  { ops := uniOpnds o, look := o.look, size := o.w.bytes, accs := uniAccs c o, space
    gives := fun val dst => LaneVals c o.m o.d (widthRegs o.w) (fun _ =>
      inLane o.w (((uniAccs c o).map val).headD 0)) dst }

/-- A scalar load. -/
def lSca (c : Cx) (o : MemS) (space : Space) : LRow :=
  { ops := [sDst o.d, sSrc o.a], look := o.look, size := o.w.bytes, accs := [scaAcc c o], space
    gives := fun val dst =>
      dst = [(.s o.d.toNat, .s (sExt o.w.signed (BitVec.ofNat (8 * o.w.bytes) (val (scaAcc c o)))))] }

/-- R294, R295, R297: the loads. -/
def loadForm (c : Cx) : Instr → Option LRow
  | .vlds o => some (lLane c o .spad)
  | .vldg o => some (lLane c o .global)
  | .vldp o => some (lLane c o .priv)
  | .vldsu o => some (lUni c o .spad)
  | .vldgu o => some (lUni c o .global)
  | .slds o => some (lSca c o .spad)
  | .sldg o => some (lSca c o .global)
  | _ => none

/-- A store: operands, bytes, accesses, space, and the data of an access. -/
structure WRow where
  ops   : List Opnd
  size  : Nat
  accs  : List Acc
  space : Space
  data  : Acc → Nat

/-- A per-lane store. -/
def wLane (c : Cx) (o : MemV) (space : Space) : WRow :=
  { ops := storeOpnds o, size := o.w.bytes, accs := laneAccs c o, space
    data := fun a => elemOf (c.fb.vregs o.d.toNat (widthRegs o.w)) a.lane % 2 ^ (8 * o.w.bytes) }

/-- A scalar store. -/
def wSca (c : Cx) (o : MemS) (space : Space) : WRow :=
  { ops := [sSrc o.d, sSrc o.a], size := o.w.bytes, accs := [scaAcc c o], space, data := fun _ => (c.fb.sreg o.d.toNat).toNat }

/-- R294, R297: the stores. -/
def storeForm (c : Cx) : Instr → Option WRow
  | .vsts o => some (wLane c o .spad)
  | .vstg o => some (wLane c o .global)
  | .vstp o => some (wLane c o .priv)
  | .ssts o => some (wSca c o .spad)
  | .sstg o => some (wSca c o .global)
  | _ => none

/-- The scratchpad accesses `l` take effect at once: aligned, inside SPADSZ, no engine command in the way (04 R102), no
sector ARRIVING, and for a read none FAILED (R298, R299). -/
structure SpadOpen (c : Cx) (size : Nat) (l : List Acc) (read write : Bool) : Prop where
  acq   : c.acquiring = false
  fits  : ∀ a ∈ l, a.info.toNat % size = 0 ∧ 0 ≤ a.info.toInt ∧ a.info.toInt + size ≤ (c.l.kernel.spad : Int)
  board : ∀ a ∈ l, c.s.boarded c.fb.wg a.info.toNat size write = false
  here  : ∀ a ∈ l, c.w.arriving a.info.toNat size = false
  sound : read = true → ∀ a ∈ l, c.w.failedAt a.info.toNat size = none

/-- The scratchpad after stores, in the order of the lanes. -/
def spadAfter (m : Mem) (size : Nat) (l : List Acc) (data : Acc → Nat) : Mem :=
  l.foldl (fun m a => m.write a.info.toNat size (data a)) m

/-- Whether an access changes nothing but what it stores: its page has been touched and is not counted (18 R428, R432). -/
def quiet (s : State) (w : Wg) (y : AccX) : Prop :=
  (y.x.leaf.addr = 0 ∨ y.x.away = true ∨
    touched (s.part w.part).priven (some (w.die, w.core)) (BitVec.ofNat 64 (s.mem.read y.x.leaf.addr 8)) = none) ∧
  ebit y.x.leaf.e 12 = false

/-- Memory after stores at their homes, in the order of the lanes. -/
def memAfter (m : Mem) (size : Nat) (l : List AccX) (data : Acc → Nat) : Mem :=
  l.foldl (fun m y => m.putBytes y.x.pa
    (if ebit y.x.leaf.e 10 then narrowBytes (toLe (data y.acc) size) else toLe (data y.acc) size)) m

/-- The private bytes in L1 after private stores: the parts of each lane's data, at most 4 bytes each (02 R45, R47). -/
def privAfter (t : Tbl Byte) (size : Nat) (l : List Acc) (ys : List AccX) (data : Acc → Nat) : Tbl Byte :=
  l.foldl (fun t a => (indexed (ys.filter fun y => decide (y.acc.lane = a.lane))).foldl (fun t p =>
    let b := ((toLe (data a) size).drop (4 * p.1)).take (min size 4)
    (indexed (if ebit p.2.x.leaf.e 10 then narrowBytes b else b)).foldl (fun t q => t.put (p.2.x.pa + q.1) q.2) t) t) t

/-- The global accesses of a store go through: translated, no line in the way, no lock, no loss (R291, R298, log entry 7). -/
structure StoreOpen (c : Cx) (size : Nat) (l : List Acc) (ys : List AccX) : Prop where
  plain : c.versioned = false
  xl    : c.issued.translate (.store size) size l = .ok ys
  gates : c.issued.gates true ys = none
  sound : ∀ y ∈ ys, c.s.heldAway c.f y = false ∧ c.s.refuses y.x.pa size = false

/-- The state after the translations of the accesses are used: first touches, cached translations and counts. -/
def used (c : Cx) (ys : List AccX) (atHome : Bool) : State := (c.issued.s.unstall c.w.part c.f).usedAll c.w ys atHome

/-- The state in which global accesses of `n` bytes are made: the lanes' own private bytes there are written back (04 R87). -/
def entered (c : Cx) (ys : List AccX) (atHome : Bool) (n : Nat) : State := c.issued.global (used c ys atHome) n ys

/-- That of a load, which ends no stall. -/
def loadFrom (c : Cx) (ys : List AccX) (n : Nat) : State := c.issued.global (c.issued.s.usedAll c.w ys false) n ys

/-- What a read of `n` bytes at `a` in `u` may find (04 R97): the newest bytes, with the newest `k` of the writes that the fibre need
not see undone. -/
def mayRead (c : Cx) (u : State) (a n : Nat) (b : List Byte) : Prop :=
  ∃ k, b = ((u.unseen (.fibre c.f) a n).take k).foldl (fun b r => r.undo a b) (u.mem.bytes a n)

/-- The bytes of a VERSIONED workgroup's version (04 R112). -/
def cellsOf (s : State) (w : Nat) : Option (Tbl Byte) := ((s.wgs.find? w).bind Wg.version).map Version.cells

/-- They after stores, in the order of the lanes. -/
def cellsAfter (m : Tbl Byte) (size : Nat) (l : List AccX) (data : Acc → Nat) : Tbl Byte :=
  l.foldl (fun m y => (indexed (if ebit y.x.leaf.e 10 then narrowBytes (toLe (data y.acc) size) else toLe (data y.acc) size)).foldl
    (fun m p => m.put (y.x.pa + p.1) p.2) m) m

/-- The fibre stands after its instruction, with no new result written or pending. -/
def wentOn (c : Cx) (t : State) : Prop := FibAt t c.f fun x => x.pc = (c.fb.advance c.len).pc ∧ x.s = c.fb.s ∧ x.m = c.fb.m ∧ x.flags = c.fb.flags

/-- The lanes of an atomic that it performs as it issues; the others follow, each by FAR_ATOMIC_PERFORM (12 R302). -/
def atOnce (c : Cx) (n : Nat) : Nat := (c.s.batch.apart).getD n

/-- A command of `t` holds operations for exactly the lanes `l`. -/
def stillToDo (t : State) (l : List Nat) : Prop := ∃ q ∈ t.cmds, ∃ ops, q.2.body = .far ops ∧ ops.map FarOp.lane = l

/-! ## Atomics (12 R300 to R309) -/

/-- What an operator writes over `old` with operand `x` and compare value `k` (R300, R302); none where it writes nothing. -/
def atomSays (p : AtomOpr) (w : Width) (old x k : Nat) : Option Nat :=
  let a := BitVec.ofNat (8 * w.bytes) old
  let b := BitVec.ofNat (8 * w.bytes) x
  match p with
  | .ld => none
  | .st => some x
  | .xchg => some x
  | .cas => if old = k then some x else none
  | .add => some (a + b).toNat
  | .and => some (old &&& x)
  | .or => some (old ||| x)
  | .xor => some (old ^^^ x)
  | .min => some (if asInt w.signed a < asInt w.signed b then old else x)
  | .max => some (if asInt w.signed a < asInt w.signed b then x else old)
  | .fadd => some (faddBits (widthFmt w) old x)
  | .fmin => some (fpickBits (widthFmt w) false old x)
  | .fmax => some (fpickBits (widthFmt w) true old x)

/-- An element of a lane of an atomic. -/
def atomElem (c : Cx) (w : Width) (n : BitVec 8) (l : Nat) : Nat :=
  elemOf (c.fb.vregs n.toNat (regsOf (8 * w.bytes))) l % 2 ^ (8 * w.bytes)

/-- The lanes of an atomic, each with its address, one atomic read and write, in order (R302): memory and old values. -/
def atomRun (c : Cx) (p : AtomOpr) (o : AtomOp) (m : Mem) (l : List (Nat × Nat)) : Mem × Tbl Nat :=
  l.foldl (fun (r : Mem × Tbl Nat) x =>
    let old := r.1.read x.2 o.w.bytes
    (match atomSays p o.w old (atomElem c o.w o.c x.1) (atomElem c o.w o.d x.1) with
      | some v => r.1.write x.2 o.w.bytes v
      | none => r.1, r.2.put x.1 old)) (m, [])

/-- The accesses of an atomic or accrue form. -/
def atomAccs (c : Cx) (m : BitVec 4) (b : BitVec 6) (a : BitVec 8) : List Acc := (activeLanes c m).map (laneAcc c b a 0)

/-- R300: the ATL forms with their operator. -/
def atlForm : Instr → Option (AtomOpr × AtomOp)
  | .atlLd o => some (.ld, o) | .atlSt o => some (.st, o) | .atlXchg o => some (.xchg, o) | .atlCas o => some (.cas, o)
  | .atlAdd o => some (.add, o) | .atlAnd o => some (.and, o) | .atlOr o => some (.or, o) | .atlXor o => some (.xor, o)
  | .atlMin o => some (.min, o) | .atlMax o => some (.max, o) | .atlFadd o => some (.fadd, o)
  | .atlFmin o => some (.fmin, o) | .atlFmax o => some (.fmax, o)
  | _ => none

/-- R300: the ATG forms with their operator. -/
def atgForm : Instr → Option (AtomOpr × AtomOp)
  | .atgLd o => some (.ld, o) | .atgSt o => some (.st, o) | .atgXchg o => some (.xchg, o) | .atgCas o => some (.cas, o)
  | .atgAdd o => some (.add, o) | .atgAnd o => some (.and, o) | .atgOr o => some (.or, o) | .atgXor o => some (.xor, o)
  | .atgMin o => some (.min, o) | .atgMax o => some (.max, o) | .atgFadd o => some (.fadd, o)
  | .atgFmin o => some (.fmin, o) | .atgFmax o => some (.fmax, o)
  | _ => none

/-- R305: the REDG forms with their operator. -/
def redgForm : Instr → Option (AtomOpr × AtomOp)
  | .redgAdd o => some (.add, o) | .redgAnd o => some (.and, o) | .redgOr o => some (.or, o) | .redgXor o => some (.xor, o)
  | .redgMin o => some (.min, o) | .redgMax o => some (.max, o) | .redgFadd o => some (.fadd, o)
  | .redgFmin o => some (.fmin, o) | .redgFmax o => some (.fmax, o)
  | _ => none

/-- R307: the ACR forms with their tag. -/
def acrForm : Instr → Option (AcrTag × AcrOp)
  | .acrIadd32 o => some (.iadd32, o) | .acrIadd64 o => some (.iadd64, o) | .acrFadd32 o => some (.fadd32, o)
  | .acrXadd o => some (.xadd, o) | .acrFmin32 o => some (.fmin32, o) | .acrFmax32 o => some (.fmax32, o)
  | .acrImins o => some (.imins, o) | .acrIminu o => some (.iminu, o) | .acrImaxs o => some (.imaxs, o)
  | .acrImaxu o => some (.imaxu, o) | .acrOr o => some (.or, o) | .acrAnd o => some (.and, o) | .acrXor o => some (.xor, o)
  | _ => none

/-- The command that a form issues under the name `n`, counted in `k`. -/
def Issued (c : Cx) (t u : State) (k : Ctr) (rngs : List Rng) (body : CmdBody) : Prop :=
  t.cmds = u.cmds.put u.nextId
    { wg := c.fb.wg, fib := some c.f, ctr := some k, rngs, body, back := none, dst := 0, err := none, since := c.s.clk c.w.die
      binds := c.w.binds }

/-! ## Effects on more than the fibre -/

/-- The state after an instruction whose whole effect is the change `g` of its workgroup. -/
def wgChanged (c : Cx) (g : Wg → Wg) : State := c.finish (.ok (c.issued.s.modWg c.fb.wg g))

/-- The live fibres of the gang of the issuing fibre. -/
def gangLive (c : Cx) : Nat := (c.s.fibres.filter fun p => sameGang c.w c.fb p.2 && p.2.st != .ended).length

/-- No lock slot of the fibre is QUEUED, GRANTED or HELD. -/
def lockFree (fb : Fibre) : Prop := ∀ i < 4, (fb.slot i).busy = false

/-- No fibre has a reconvergence target. -/
def noTargets (s : State) : Prop := ∀ p ∈ s.fibres, p.2.target = none

/-! ## Records in memory -/

/-- The entry of the issuing fibre in a vector call record at place `k` (20 R465): its WID, S3 and LANE, and the arguments of
its active lanes. -/
def callEntry (c : Cx) (k : Nat) (r : List Byte) : Prop :=
  let slot := c.w.slot c.fb.num
  fieldLe r (0x40 + 32 * k) 8 = (widOf c.l c.w c.fb.num).toNat ∧ fieldLe r (0x48 + 32 * k) 8 = (c.fb.sreg 3).toNat ∧
    fieldLe r (0x50 + 32 * k) 1 = slot ∧
    ∀ l < c.w.width, (c.fb.mreg 0).getLsbD l = true →
      fieldLe r (0x400 + 8 * (slot + l)) 4 = ((c.fb.vreg 2).lane l).toNat ∧
      fieldLe r (0x404 + 8 * (slot + l)) 4 = ((c.fb.vreg 3).lane l).toNat

/-- The lanes of the issuing fibre in the lane mask of a vector call record. -/
def callLanes (c : Cx) : Nat := ((c.fb.mreg 0).setWidth c.w.width).toNat * 2 ^ c.w.slot c.fb.num

/-- The record that SYSC `n` places for the first fibre of a batch (20 R465). -/
def callFields (c : Cx) (n : Nat) (r : List Byte) : Prop :=
  r.length = 2048 ∧ fieldLe r 0 1 = n ∧ fieldLe r 1 1 = 1 ∧ fieldLe r 2 1 = (c.fb.sreg 2).toNat % 64 ∧ fieldLe r 3 1 = 0 ∧
    fieldLe r 4 1 = c.w.part % 256 ∧ fieldLe r 5 1 = c.w.die % 256 ∧ fieldLe r 6 1 = c.w.core % 256 ∧
    fieldLe r 7 1 = (c.w.gangOf c.fb.num).getD 0 % 256 ∧
    fieldLe r 8 8 = c.l.ident.toNat ∧ fieldLe r 0x10 8 = (c.s.handle c.w ((c.fb.sreg 2).toNat % 64)).toNat ∧
    fieldLe r 0x20 16 = callLanes c ∧ callEntry c 0 r

/-- The call ring of a partition: base, size, head and tail (20 R459). -/
def callReg (s : State) (p o : Nat) : Nat := ((s.part p).io.getD o 0).toNat

/-! ## Weirs (05 R124) -/

/-- The loop of Count: phases complete while both expectations are met. -/
def phases : Nat → Weir → Weir
  | 0, x => x
  | k + 1, x =>
    if x.expa ≤ x.arr ∧ x.expb ≤ x.bytes then
      phases k { x with arr := x.arr - x.expa, bytes := x.bytes - x.expb, phase := (x.phase + 1) % 65536 }
    else x

/-- Count(w, da, db, e) of R124, without the waking of waiters. -/
def countOf (x : Weir) (da db : Nat) (e : Bool) : Weir :=
  let x := { x with err := x.err || e, arr := min (x.arr + da) 0xFFFF, bytes := min (x.bytes + db) 0xFFFFFFFF }
  if x.expa = 0 ∧ x.expb = 0 then x
  else phases (x.arr + x.bytes + 1) { x with overrun := x.overrun || decide (x.expa < x.arr ∨ x.expb < x.bytes) }

/-- Reached(w, p) of R128. -/
def hasReached (phase p : Nat) : Prop := (phase + 65536 - p % 65536) % 65536 < 32768

/-- No fibre waits on a weir, and no weir keeps a wake-up record. -/
def noWaiters (s : State) : Prop :=
  (∀ p ∈ s.fibres, ∀ x, p.2.await ≠ .weir x) ∧ ∀ g ∈ s.wgs, ∀ x ∈ g.2.weirs, x.wakes = []

/-! ## Locks, bindings and weirs (07 R182 to R193, 12 R310 to R325) -/

/-- Slot `k` is the lowest slot that holds no request. -/
def lowestFree (fb : Fibre) (k : Nat) : Prop := k < 4 ∧ (fb.slot k).busy = false ∧ ∀ j < k, (fb.slot j).busy = true

/-- A slot GRANTED or HELD for a line. -/
def holdsLine (x : LockSlot) (line : Nat) : Prop := (x.state = .granted ∨ x.state = .held) ∧ x.line = line

/-- The translation of a lock's address is `y`, and nothing of its checks fails (R311). -/
def lockAt (c : Cx) (k : AccKind) (a : Word) (y : AccX) : Prop := c.issued.translate k 1 [accAt 0 a] = .ok [y]

/-- The state in which a LCK or ULK of the line of `y` has counted as an access that makes its page shared (R182). -/
def lockShared (c : Cx) (y : AccX) : State := (c.issued.s.unstall c.w.part c.f).accessedShared c.w y.x false

/-- Two weirs with the same image but for WAKE. -/
def sameWeir (a b : Weir) : Prop := ({ a with wakes := [] } : Weir) = { b with wakes := [] }

/-- A region that BIND may enter (R313). -/
structure Bindable (c : Cx) (a b e : Word) (sync : Bool) (weir : Option Nat) : Prop where
  base  : a.toNat % 32 = 0 ∧ b.toNat % 32 = 0 ∧ 32 ≤ b.toNat ∧ b.toNat ≤ 2 ^ 40
  word  : sync = true → e.toNat % 8 = 0
  canon : canonical a = true ∧ canonical (a + b - 1) = true ∧ canonical e = true
  nw    : ∀ n ∈ weir, n < c.l.kernel.nw
  alone : ∀ x ∈ c.w.binds, x.base.toNat + x.len ≤ a.toNat ∨ a.toNat + b.toNat ≤ x.base.toNat
  room  : c.w.binds.length < 16

/-- The kinds of BIND (R312): region base and size, the third operand, whether it is a sync word, the weir named, and the
object. -/
def bindForm (c : Cx) : Instr → Option (List Opnd × Word × Word × Word × Bool × Option Nat × BindObj)
  | .bindWeir o => some ([sSrc o.a, sSrc o.b], c.fb.sreg o.a.toNat, c.fb.sreg o.b.toNat, 0, false, some o.w.toNat, .weir o.w.toNat)
  | .bindLock o => some ([sSrc o.c, sSrc o.a, sSrc o.b], c.fb.sreg o.a.toNat, c.fb.sreg o.b.toNat, c.fb.sreg o.c.toNat, false, none,
      .lock (c.fb.sreg o.c.toNat))
  | .bindSync o => some ([sSrc o.c, sSrc o.a, sSrc o.b], c.fb.sreg o.a.toNat, c.fb.sreg o.b.toNat, c.fb.sreg o.c.toNat, true, none,
      .sync (c.fb.sreg o.c.toNat))
  | _ => none

/-- A weir after WINIT of the settings `b` (R126, R318). -/
def armedBy (x : Weir) (b : Nat) : Weir :=
  { x with expa := b % 2 ^ 16, expb := b / 2 ^ 16 % 2 ^ 32, ovtrap := decide (2 ^ 48 ≤ b), arr := 0, bytes := 0, err := false, overrun := false }

/-- The fences: whether they acquire and release, and their scope. -/
def fenceForm : Instr → Option (Bool × Bool × Scope)
  | .fenceAcq o => some (true, false, o.scope)
  | .fenceRel o => some (false, true, o.scope)
  | .fenceAr o => some (true, true, o.scope)
  | _ => none

/-- Whether a value of the latest atomic read at a scope is still out. -/
def readOut (c : Cx) (scope : Scope) : Prop := ∃ x ∈ c.fb.acqSeen, x.1 = scope ∧ ∃ q ∈ c.fb.pend, q.id = x.2 ∧ q.st = .await

/-- The arrivals on a weir of the workgroup: operands, operands' destination, weight and weir. -/
def warrForm (c : Cx) : Instr → Option (List Opnd × WarrOp × Nat)
  | .warr o => some ([sDst o.d], o, 1)
  | .warrLanes o => some ([sDst o.d, mSrc o.m], o, (activeLanes c o.m).length)
  | _ => none

/-- The arrivals by handle: operands, handle, weight and scope. -/
def farForm (c : Cx) : Instr → Option (List Opnd × Word × Nat × Scope)
  | .warrFar o => some ([sSrc o.a], c.fb.sreg o.a.toNat, 1, o.scope)
  | .warrFarLanes o => some ([sSrc o.a, mSrc o.m], c.fb.sreg o.a.toNat, (activeLanes c o.m).length, o.scope)
  | _ => none

/-- The object that an arrival by handle releases on: the weir it names, where it names one of this package. -/
def farObj (c : Cx) (h : Word) : RelObj :=
  match c.s.ofHandle c.w.part h with
  | some (w, i) => .weir w i
  | none => .call 0

/-- The image of a weir (05 R123), low and high 64 bits. -/
def weirLow (x : Weir) : Nat := (x.expb % 2 ^ 16) * 2 ^ 48 + x.bytes % 2 ^ 32 * 2 ^ 16 + bit (!x.wakes.isEmpty) * 16 + bit x.err * 8
  + bit x.overrun * 4 + bit x.ovtrap * 2
def weirHigh (x : Weir) : Nat := x.phase % 2 ^ 16 * 2 ^ 48 + x.expa % 2 ^ 16 * 2 ^ 32 + x.arr % 2 ^ 16 * 2 ^ 16 + x.expb % 2 ^ 32 / 2 ^ 16

/-- The queries of a weir with what they read (R323, 05 R121). -/
def queryForm (c : Cx) : Instr → Option (WqryOp × Word)
  | .wqryLo o => some (o, BitVec.ofNat 64 (weirLow (c.w.weir o.w.toNat)))
  | .wqryHi o => some (o, BitVec.ofNat 64 (weirHigh (c.w.weir o.w.toNat)))
  | .wqryHandle o => some (o, BitVec.ofNat 64 (c.w.gen % 65536 * 2 ^ 48 + c.s.chip * 2 ^ 38 + c.w.die0 * 2 ^ 35 + c.w.core0 * 2 ^ 30
      + o.w.toNat))
  | _ => none

/-- The weir that an instruction names, with its operands: what WEIRBOUND is checked on (R317). -/
def weirNamed : Instr → Option (List Opnd × BitVec 6)
  | .winit o => some ([sSrc o.b], o.w)
  | .warr o => some ([sDst o.d], o.w)
  | .warrLanes o => some ([sDst o.d, mSrc o.m], o.w)
  | .wwait o => some ([sDst o.d, sSrc o.a, sSrc o.b], o.w)
  | .wqryLo o => some ([sDst o.d], o.w)
  | .wqryHi o => some ([sDst o.d], o.w)
  | .wqryHandle o => some ([sDst o.d], o.w)
  | _ => none

/-! ## Issue, traps and steps -/

/-- The operands of the forms that this vocabulary lists. -/
def opsOf (c : Cx) (i : Instr) : Option (List Opnd) :=
  match arith i, arithOne i, scalarForm c i, maskForm c i, branchForm c i, loadForm c i, storeForm c i with
  | some (o, _), _, _, _, _, _, _ => some (sDst o.d :: sSrc o.a :: SSrc.opnds o.b)
  | _, some (o, _), _, _, _, _, _ => some [sDst o.d, sSrc o.a]
  | _, _, some r, _, _, _, _ => some r.ops
  | _, _, _, some r, _, _, _ => some r.1
  | _, _, _, _, some r, _, _ => some r.1
  | _, _, _, _, _, some r, _ => some r.ops
  | _, _, _, _, _, _, some r => some r.ops
  | _, _, _, _, _, _, _ => none

/-- Everything but the fibres, fresh names and the free counter is as it was. -/
def sameOutside (s t : State) : Prop :=
  t.mem = s.mem ∧ t.wgs = s.wgs ∧ t.cmds = s.cmds ∧ t.lines = s.lines ∧ t.lockMsgs = s.lockMsgs ∧ t.launches = s.launches ∧
    t.parts = s.parts ∧ t.cores = s.cores ∧ t.dies = s.dies ∧ t.scs = s.scs ∧ t.groups = s.groups ∧ t.ports = s.ports ∧
    t.boot = s.boot ∧ t.out = s.out ∧ t.tags = s.tags ∧ t.bad = s.bad ∧ t.gtime = s.gtime

/-- The fields of a KIND 0 fault record (17 R415) for the fibre `x` of workgroup `w` and launch `l`. -/
def trapRecord (s : State) (w : Wg) (l : Launch) (x : Fibre) (k : Cause) (info word : Word) (more : Nat) (r : List Byte) : Prop :=
  r.length = 64 ∧ fieldLe r 0 1 = k.code ∧ fieldLe r 1 1 = 0 ∧ fieldLe r 2 2 = min more 0xFFFF ∧ fieldLe r 4 1 = w.part % 256 ∧
    fieldLe r 5 1 = w.die % 256 ∧ fieldLe r 6 1 = w.core % 256 ∧ fieldLe r 7 1 = ((w.gangOf x.num).getD 0) % 256 ∧
    fieldLe r 8 8 = (widOf l w x.num).toNat ∧ fieldLe r 0x10 8 = x.pc.toNat ∧ fieldLe r 0x18 8 = info.toNat ∧
    fieldLe r 0x20 8 = word.toNat ∧ fieldLe r 0x28 8 = l.ident.toNat ∧ fieldLe r 0x30 4 = w.slot x.num ∧
    fieldLe r 0x38 8 = s.clk w.die % 2 ^ 64

/-- The state of a fibre's step at its instruction, the fibre READY: at the pc inside its block, or past its header. -/
def Stands (s : State) (f : Nat) (fb : Fibre) (w : Wg) (l : Launch) (t : State) : Prop :=
  ∃ x, s.fibres.find? f = some x ∧ s.wgs.find? x.wg = some w ∧ s.launchOf w = some l ∧ x.runnable = true ∧
    (w.gangOf x.num).isSome = true ∧
    ((x.pc ≠ x.blkEnd ∧ fb = { x with st := .ready } ∧ t = s.setFib f fb) ∨
      (x.pc = x.blkEnd ∧ t = (s.setFib f { x with st := .ready }).header f { x with st := .ready } w l ∧ t.fibres.find? f = some fb ∧
        fb.st = .ready ∧ fb.pc ≠ fb.blkEnd))

/-- The state in which the instruction of words `word` and `x` executes, after its fetch left `t`: an instruction is counted, and
where it is the first of its batch the batch is counted and sampled. -/
def atIssue (t : State) (f : Nat) (fb : Fibre) (w : Wg) (l : Launch) (word x : Word) : State :=
  let t := t.bumpWg w 0x02 1
  let b := (t.bumpWg w 0x03 1).sampleIssue w l fb
  { (if t.batch.fresh then { b with batch := { b.batch with fresh := false } } else t) with cur := .fibre f word x }

/-- The step's choice of who moves leaves `u`, where fibres take their turn: a batch already begun, the fibre that the schedule names,
or with nothing scheduled the fibre that has waited longest. -/
def begun (s u : State) : Prop :=
  (s.batch.rest ≠ [] ∧ u = s) ∨
  (∃ a rest f, s.batch.rest = [] ∧ s.sched = a :: rest ∧ a.who = .fibre f ∧
    u = (({ s with sched := rest }).elapse a.ns a.cycles).turn f a.apart) ∨
  (∃ f, s.batch.rest = [] ∧ s.sched = [] ∧ s.choose = some f ∧ u = (s.elapse 0 (List.replicate 8 1)).turn f none)

/-- The step's state where the schedule names `who`, with no batch begun. -/
def named (s u : State) (who : Who) : Prop :=
  ∃ a rest, s.batch.rest = [] ∧ s.sched = a :: rest ∧ a.who = who ∧ u = ({ s with sched := rest }).elapse a.ns a.cycles

/-- A fibre of which a debugger asks no halt at this instruction (22 R482). -/
def noHalt (d : Decoded) (fb : Fibre) : Prop := d.stop = true → fb.haltReq = false ∨ fb.stepReq = true ∨ fb.await ≠ .none

/-- Register `k` of the descriptor block at Sa (R328). -/
def blockWord (c : Cx) (a : BitVec 6) (k : Nat) : Nat := (c.fb.sreg (a.toNat + k)).toNat
/-- Its high and low halves. -/
def blockHi (c : Cx) (a : BitVec 6) (k : Nat) : Nat := blockWord c a k / 2 ^ 32
def blockLo (c : Cx) (a : BitVec 6) (k : Nat) : Nat := blockWord c a k % 2 ^ 32
/-- They as signed numbers. -/
def blockHiInt (c : Cx) (a : BitVec 6) (k : Nat) : Int := (BitVec.ofNat 32 (blockHi c a k)).toInt
def blockLoInt (c : Cx) (a : BitVec 6) (k : Nat) : Int := (BitVec.ofNat 32 (blockLo c a k)).toInt

/-- `n` bytes at `a` lie inside the scratchpad. -/
def fits (c : Cx) (a n : Nat) : Prop := a + n ≤ c.l.kernel.spad
/-- Two regions do not overlap. -/
def disjointAt (a n b m : Nat) : Prop := a + n ≤ b ∨ b + m ≤ a

/-- The state after an instruction that issues the command `body`, counted in `k`, and changes its fibre by `g`. -/
def commanded (c : Cx) (k : Ctr) (rngs : List Rng) (body : CmdBody) (g : Fibre → Fibre := id) : State :=
  c.finish (.ok (c.issued.command (c.issued.setF g) k rngs body none 0))

/-- The option word of a FLCOPY (R335). -/
def optWord (c : Cx) (o : FlcopyOp) : Nat :=
  match o.opt with
  | .none => 0
  | .reg b => (c.fb.sreg b.toNat).toNat
  | .long v => (v.signExtend 64).toNat

/-- Rows, planes and strides of a FLCOPY of `d` dimensions (R334). -/
def copyRows (c : Cx) (o : FlcopyOp) (d : Nat) : Nat := if d < 2 then 1 else blockHi c o.a 2
def copyPlanes (c : Cx) (o : FlcopyOp) (d : Nat) : Nat := if d < 3 then 1 else blockHi c o.a 4
def copySstr (c : Cx) (o : FlcopyOp) (d : Nat) : Nat := if d < 2 then blockHi c o.a 1 else blockLo c o.a 2
def copyPstr (c : Cx) (o : FlcopyOp) (d : Nat) : Nat := if d < 3 then 0 else blockLo c o.a 4
/-- The global address of the first byte of row `r` of plane `k`. -/
def copyRowAt (c : Cx) (o : FlcopyOp) (d k r : Nat) : Word :=
  c.fb.sreg o.a.toNat + BitVec.ofInt 64 ((k : Int) * (if d < 3 then 0 else (c.fb.sreg (o.a.toNat + 5)).toInt)
    + (r : Int) * (if d < 2 then 0 else (c.fb.sreg (o.a.toNat + 3)).toInt))
/-- Bytes from the first to the last of the data region. -/
def copyExtent (c : Cx) (o : FlcopyOp) (d : Nat) : Nat :=
  (copyPlanes c o d - 1) * copyPstr c o d + (copyRows c o d - 1) * copySstr c o d + blockHi c o.a 1

/-- A FLCOPY whose checks of R330 all pass. -/
structure CopyFits (c : Cx) (o : FlcopyOp) (d : Nat) : Prop where
  rowb   : 32 ≤ blockHi c o.a 1 ∧ blockHi c o.a 1 ≤ 0x400000 ∧ blockHi c o.a 1 % 32 = 0 ∧ blockLo c o.a 1 % 32 = 0
  rows   : 2 ≤ d → 1 ≤ copyRows c o d ∧ copyRows c o d ≤ 65535 ∧ blockHi c o.a 1 ≤ copySstr c o d ∧ copySstr c o d % 32 = 0
  planes : 3 ≤ d → 1 ≤ copyPlanes c o d ∧ copyPlanes c o d ≤ 65535 ∧
    (copyRows c o d - 1) * copySstr c o d + blockHi c o.a 1 ≤ copyPstr c o d ∧ copyPstr c o d % 32 = 0
  option : optWord c o / 2 ^ 10 % 2 ^ 22 = 0
  mcast  : o.mc = true → c.l.kernel.mcast = true
  cred   : ∀ w ∈ o.cred, w.toNat < c.l.kernel.nw
  final  : o.final = true → optWord c o / 2 ^ 32 % 32 = 0 ∧ fits c (optWord c o / 2 ^ 32) 64 ∧
    disjointAt (blockLo c o.a 1) (copyExtent c o d) (optWord c o / 2 ^ 32) 64
  region : fits c (blockLo c o.a 1) (copyExtent c o d)
  canon  : ∀ k < copyPlanes c o d, ∀ r < copyRows c o d, canonical (copyRowAt c o d k r) = true ∧
    canonical (copyRowAt c o d k r + BitVec.ofNat 64 (blockHi c o.a 1 - 1)) = true
  room   : c.acquiring = false ∧ c.s.flumeLoad c.w < 256

/-- The copy that a FLCOPY describes, with no sector to move yet. -/
def copyOf (c : Cx) (o : FlcopyOp) (d : Nat) : FlCopy :=
  let mc := if o.mc = true then some (optWord c o % 16, optWord c o / 16 % 64) else none
  { gaddr := c.fb.sreg o.a.toNat, spoff := blockLo c o.a 1, rowb := blockHi c o.a 1, nrows := copyRows c o d, sstr := copySstr c o d
    gstr := if d < 2 then 0 else (c.fb.sreg (o.a.toNat + 3)).toInt, npl := copyPlanes c o d, pstr := copyPstr c o d
    gpstr := if d < 3 then 0 else (c.fb.sreg (o.a.toNat + 5)).toInt, out := o.out, mc, cred := o.cred.map BitVec.toNat
    dg := o.dg.map BitVec.toNat, fin := if o.final = true then some (optWord c o / 2 ^ 32) else none, batch := c.fb.batch
    fill := false, accepted := false, left := [], seen := [], kept := [], data := [], failed := [] }

/-- It with the sectors that it moves: none where the masks of a multicast name no core. -/
def copyBody (c : Cx) (o : FlcopyOp) (d : Nat) : FlCopy :=
  { copyOf c o d with
    left := if (copyOf c o d).mc.any (fun m => !(List.range 24).any fun k => m.1.testBit (k % 4) && m.2.testBit (k / 4)) then []
      else (copyOf c o d).sectors }

/-- FLCOPY: operands and dimensions. -/
def copyForm : Instr → Option (FlcopyOp × Nat × Nat)
  | .flcopy1d o => some (o, 1, 2)
  | .flcopy2d o => some (o, 2, 4)
  | .flcopy3d o => some (o, 3, 6)
  | _ => none

/-- No earlier command of the workgroup has a range on the scoreboard. -/
def boardFree (c : Cx) : Prop := ∀ q ∈ c.s.cmds, q.2.wg = c.fb.wg → q.2.rngs = []

/-- GATHER and SCATTER whose checks pass (R330, R341). -/
structure GsFits (c : Cx) (a : BitVec 6) : Prop where
  table : blockWord c a 0 % 4 = 0 ∧ blockHi c a 1 ≤ 0xFFFFFFFE ∧ blockWord c a 4 % 4 = 0 ∧ blockLo c a 1 ≤ blockWord c a 4
  elems : 4 ≤ blockLo c a 1 ∧ blockLo c a 1 ≤ 65536 ∧ blockLo c a 1 % 4 = 0
  rows  : blockLo c a 1 ≤ blockHi c a 2 ∧ blockHi c a 2 % 4 = 0 ∧ blockLo c a 2 % 4 = 0
  count : 1 ≤ blockHi c a 3 ∧ blockHi c a 3 ≤ 65536 ∧ blockLo c a 3 % 4 = 0
  state : blockHi c a 5 = 0 ∧ blockLo c a 5 % 32 = 0
  inside : fits c (blockLo c a 2) ((blockHi c a 3 - 1) * blockHi c a 2 + blockLo c a 1) ∧ fits c (blockLo c a 3) (4 * blockHi c a 3) ∧
    fits c (blockLo c a 5) (32 * ((blockHi c a 3 + 255) / 256))
  apart : disjointAt (blockLo c a 3) (4 * blockHi c a 3) (blockLo c a 5) (32 * ((blockHi c a 3 + 255) / 256)) ∧
    ∀ k < blockHi c a 3, disjointAt (blockLo c a 2 + k * blockHi c a 2) (blockLo c a 1) (blockLo c a 3) (4 * blockHi c a 3) ∧
      disjointAt (blockLo c a 2 + k * blockHi c a 2) (blockLo c a 1) (blockLo c a 5) (32 * ((blockHi c a 3 + 255) / 256))
  canon : canonical (c.fb.sreg a.toNat) = true ∧ (blockHi c a 1 ≠ 0 → canonical (c.fb.sreg a.toNat
    + BitVec.ofNat 64 ((blockHi c a 1 - 1) * blockWord c a 4) + BitVec.ofNat 64 (blockLo c a 1 - 1)) = true)
  open' : c.acquiring = false

/-- The work of a GATHER or SCATTER. -/
def gsWork (c : Cx) (a : BitVec 6) : GsCmd :=
  { tbase := c.fb.sreg a.toNat, rows := blockHi c a 1, ebytes := blockLo c a 1, dstr := blockHi c a 2, doff := blockLo c a 2
    n := blockHi c a 3, ioff := blockLo c a 3, tstr := blockWord c a 4, soff := blockLo c a 5, list := none, fails := [], done := false }

/-- Rows of a matrix operand: aligned, a stride of at least a row, inside the scratchpad (06 R152). -/
def rowsFit (c : Cx) (off stride row n : Nat) : Prop :=
  off % 32 = 0 ∧ stride % 32 = 0 ∧ row ≤ stride ∧ fits c off ((n - 1) * stride + row)

/-- Low and high halves of Sa. -/
def regLo (c : Cx) (a : BitVec 6) : Nat := (c.fb.sreg a.toNat).toNat % 2 ^ 32
def regHi (c : Cx) (a : BitVec 6) : Nat := (c.fb.sreg a.toNat).toNat / 2 ^ 32

/-- The physical tile of Tn. -/
def tileOf (c : Cx) (t : BitVec 3) : Nat := c.fb.tiles.getD t.toNat 0

/-- The run of an accumulating command with nothing started: `n` steps with the A operand at `aoff`. -/
def mxRunOf (c : Cx) (t : BitVec 3) (mac : BitVec 2) (bank : Bool) (fmt : MxFmt) (n aoff astr : Nat) (asc : Option Nat) : MxRun :=
  let tag := c.issued.s.bankTag c.fb.wg c.w mac.toNat (bit bank)
  { tile := tileOf c t, mac := mac.toNat, bank0 := bit bank, fmt, n, aoff, astr, asc, da := 0, das := 0, boff := 0, bstr := 0, bsc := 0
    db := 0, dbs := 0, bfmt := tag.1, bscaled := tag.2, step := 0, stepAt := none, loaded := 0, loadAt := none, endAt := 0, got := []
    gotB := [], acap := [], scap := [], partl := [], failed := false }

/-- The run of MXLOOP (R346). -/
def mxLoopOf (c : Cx) (o : MxloopOp) (n : Nat) : MxRun :=
  { mxRunOf c o.t o.mac o.bank o.fmt n (blockLo c o.a 0) (blockHi c o.a 0) (if o.ascale = true then some (blockLo c o.a 4) else none) with
    da := blockLoInt c o.a 1, das := blockHiInt c o.a 1, boff := blockLo c o.a 2, bstr := blockHi c o.a 2, bsc := blockHi c o.a 4
    db := blockLoInt c o.a 3, dbs := blockHiInt c o.a 3 }

/-- The command of a form with a scalar result, in `t`: with L = 0 the fibre waits for it in INTERLOCK, else the result is pending
and the fibre goes on (R329). -/
def Answered (c : Cx) (t : State) (k : Option Ctr) (look d : Nat) (P : CmdBody → Prop) : Prop :=
  (∃ q ∈ t.cmds.find? c.s.nextId, q.wg = c.fb.wg ∧ q.fib = some c.f ∧ q.ctr = k ∧ q.dst = d ∧ q.err = none ∧ P q.body ∧
    q.back = if look = 0 then none else some c.s.nextId) ∧
  (look = 0 → FibAt t c.f fun x => x.st = .interlock ∧ x.await = .cmd c.s.nextId c.len ∧ x.pc = c.fb.pc ∧ x.s = c.fb.s ∧ x.v = c.fb.v ∧
    x.pend = c.fb.pend) ∧
  (look ≠ 0 → FibAt t c.f fun x => x.pc = (c.fb.advance c.len).pc ∧ x.await = .none ∧ x.s = c.fb.s ∧ x.v = c.fb.v ∧ x.m = c.fb.m ∧
    x.pend = c.fb.pend ++ [⟨c.s.nextId, [(.s d, .s 0)], 1, .await⟩])

/-- The operands of a collective pass orders 1 to 6 of R330. -/
structure CollFits (c : Cx) (o : McOp) (x : CollCmd) : Prop where
  plain  : c.versioned = false
  addr   : x.addr.toNat % 32 = 0
  bytes  : 32 ≤ x.bytes ∧ x.bytes ≤ 65536 ∧ x.bytes % 32 = 0
  zero   : blockHi c o.a 2 = 0
  weir   : o.w.toNat < c.l.kernel.nw
  align  : x.spoff % 32 = 0 ∧ x.stoff % 32 = 0
  inside : fits c x.spoff x.spadBytes ∧ fits c x.stoff 32 ∧ disjointAt x.spoff x.spadBytes x.stoff 32
  canon  : canonical x.addr = true ∧ canonical (x.addr + BitVec.ofNat 64 (x.windowBytes - 1)) = true
  open'  : c.acquiring = false

/-- The collective of a block (R351). -/
def collWork (c : Cx) (o : McOp) (mclr : Bool) : CollCmd :=
  { mclr, addr := c.fb.sreg o.a.toNat, pa := 0, window := 0, group := 0, bytes := blockHi c o.a 1, spoff := blockLo c o.a 1
    stoff := blockLo c o.a 2, ty := o.ty, scope := o.scope, weir := o.w.toNat, st := .issued, src := [], out := [], members := 0, flags := 0 }

/-- MCSR and MCLR. -/
def collForm : Instr → Option (McOp × Bool)
  | .mcsr o => some (o, false)
  | .mclr o => some (o, true)
  | _ => none

/-- The address of an I/O form. -/
def ioAt (c : Cx) (o : IoOp) : Word := c.fb.sreg o.a.toNat + dispOf o.disp o.w.bytes

/-- An I/O form whose checks pass with the translation `x` (R357). -/
structure IoOpen (c : Cx) (o : IoOp) (write : Bool) (x : Xl) : Prop where
  plain : c.versioned = false
  align : (ioAt c o).toNat % o.w.bytes = 0
  canon : canonical (ioAt c o) = true
  xl    : c.issued.s.xlate c.w.part .io (ioAt c o) c.issued.s.free = .ok x
  own   : ∃ k ∈ barPort x.pa, (c.s.part c.w.part).rpmask.getLsbD k = true
  right : write = true → ebit x.leaf.e 3 = true
  open' : c.acquiring = false

/-- The work of an I/O command. -/
def ioWork (c : Cx) (o : IoOp) (kind : IoKind) (x : Xl) (holds views : List Nat) : IoCmd :=
  { kind, pa := x.pa, va := x.va, size := o.w.bytes, data := (c.fb.sreg o.d.toNat).toNat % 2 ^ (8 * o.w.bytes), sent := false, holds
    since := c.s.gtime, views }

/-! ## Levees (16 R386 to R392) -/

/-- The fields of a levee (R386), BACK signed. -/
structure LevFields where
  tag    : Bool
  rights : Nat
  lock   : Nat
  gr     : Nat
  back   : Int
  len    : Nat
  cur    : Nat

/-- The fields that a register holds. -/
def fieldsOf (a : Levee) : LevFields :=
  let n := a.val.toNat
  { tag := a.tag, rights := n / 2 ^ 120, lock := n / 2 ^ 108 % 2 ^ 12, gr := n / 2 ^ 102 % 2 ^ 6
    back := (BitVec.ofNat 20 (n / 2 ^ 82)).toInt, len := n / 2 ^ 64 % 2 ^ 18, cur := n % 2 ^ 64 }

/-- Base and top of the span (R387). -/
def LevFields.lo (a : LevFields) : Int := ((a.cur / 2 ^ a.gr : Nat) - a.back) * ((2 ^ a.gr : Nat) : Int)
def LevFields.hi (a : LevFields) : Int := a.lo + a.len * ((2 ^ a.gr : Nat) : Int)

/-- Move of R387; BACK is kept in its 20 bits. -/
def LevFields.moved (c : LevFields) (a : Nat) : LevFields :=
  let b := c.back + (a / 2 ^ c.gr : Nat) - (c.cur / 2 ^ c.gr : Nat)
  { c with cur := a, back := b.bmod (2 ^ 20), tag := c.tag && decide (-(2 ^ 19) ≤ b) && decide (b < 2 ^ 19) }

/-- Granules of 2^g bytes that the range touches. -/
def granulesOf (lo hi g : Nat) : Nat := (hi + 2 ^ g - 1) / 2 ^ g - lo / 2 ^ g

/-- Narrow of R390 at granule exponent `g`. -/
def LevFields.narrowedAt (c : LevFields) (len g : Nat) : LevFields :=
  { c with gr := g, back := 0, len := granulesOf c.cur (c.cur + len) g }

/-- The granule exponent of a narrowing: the smallest that fits. -/
def grainFor (c : LevFields) (len g : Nat) : Prop :=
  granulesOf c.cur (c.cur + len) g ≤ 262143 ∧ ∀ k < g, 262143 < granulesOf c.cur (c.cur + len) k

/-- The requested range and the narrowed span lie where R390 wants them. -/
def narrowFits (c : LevFields) (len g : Nat) : Prop :=
  c.cur + len ≤ 2 ^ 64 ∧ c.lo ≤ (c.narrowedAt len g).lo ∧ (c.narrowedAt len g).hi ≤ c.hi

/-- A key serves for lock number `k`: tagged, open, with KEY, and `k` inside its span. -/
def keyServes (b : LevFields) (k : Nat) : Prop :=
  b.tag = true ∧ b.lock = 0 ∧ b.rights / 128 % 2 = 1 ∧ b.lo ≤ k ∧ (k : Int) < b.hi

/-- Service core `n` takes the step, with `a` and `b` in two registers. -/
structure LvAt (s : State) (n : Nat) (p q : BitVec 5) (a b : LevFields) : Prop where
  cur : s.cur = .service n
  fst : fieldsOf ((s.sc n).reg p) = a
  snd : fieldsOf ((s.sc n).reg q) = b

/-- The step gives register `d` of service core `n` a levee of fields `v`, passes the instruction, and does nothing else. -/
def LvGives (r : Out) (s : State) (n : Nat) (d : BitVec 5) (v : LevFields) : Prop :=
  ∃ y : Levee, fieldsOf y = v ∧ r = .next (s.setSc n (((s.sc n).setReg d y).step 4))

/-- The step takes the levee fault with code `k`; xtval receives the CUR of rs1. -/
def LvFaults (r : Out) (s : State) (n : Nat) (a : LevFields) (k : Nat) : Prop :=
  r = .next (s.scTrap n 28 (BitVec.ofNat 64 a.cur) (some k))

/-- What LV.INFO reads (R390). -/
def infoOf (a : LevFields) : Nat → Int
  | 0 => if a.tag = true then 1 else 0
  | 1 => a.lo
  | 2 => min (a.hi - a.lo) (2 ^ 64 - 1)
  | 3 => a.rights
  | 4 => a.lock
  | _ => a.gr

/-! ## Events -/

/-- A fibre of a resident gang stands stopped at a trap whose record is written (17 R414). -/
structure Trapped (s : State) (f : Nat) (fb : Fibre) (t : TrapRec) (w : Wg) (l : Launch) : Prop where
  fib  : s.fibres.find? f = some fb
  wg   : s.wgs.find? fb.wg = some w
  lau  : s.launchOf w = some l
  stop : fb.st = .stopped ∧ fb.stop = some (.trap t)
  out  : .fibre f ∉ (s.part w.part).waitFibs
  here : (w.gangOf fb.num).isSome = true

/-- The fibre `x` READY again, its age from now. -/
def readyAgain (s : State) (w : Wg) (x : Fibre) : Fibre := { x with st := .ready, age := s.clk w.die }

/-- A store of service core `by'` reaches the control register at `addr` with every check passed (R388, R393), in partition `p`. -/
structure CtlOpen (s : State) (by' : CtlBy) (addr p : Nat) : Prop where
  ready : (s.sc by'.sc).running = true ∧ (s.sc by'.sc).await = none
  levee : s.leveeCheck by'.sc ((s.sc by'.sc).reg by'.base) rWR by'.va 8 = none
  part  : s.scPart by'.sc = some p
  place : s.scAddr by'.sc ((s.sc by'.sc).reg by'.base) .store by'.va 8 = .ctl addr
  reach : addr % 8 = 0 ∧ s.ctlReach p addr = true

/-- The state after the store instruction itself. -/
def stored (s : State) (by' : CtlBy) : State := s.setSc by'.sc ((s.sc by'.sc).step by'.len)

/-- A PCMD with operation `op` (R407): nothing while BUSY; REFUSED where `act` refuses. On a gang that nothing owns a swap, a save and a
flush are refused, and a drain, a kill and a choice do nothing, which is the model's choice (log entry 76). -/
def pcmdSays (d p g op : Nat) (act : State → Nat → Wg → Launch → Nat → Option State) (s : State) : State :=
  let k := s.pcore d p
  if k.busy = true then s
  else
    let u := s.setPcore d p { k with lastop := op, refused := false }
    let no := u.setPcore d p { k with lastop := op, refused := decide (op = 1 ∨ op = 3 ∨ op = 4) }
    match u.gangOwner d p g with
    | none => no
    | some (id, w, l, i) => (act u id w l i).getD no

/-- A DBGCMD (22 R482): `g` on every live fibre of the resident gang; those that `wake` holds for become READY. -/
def dbgSays (d p gang : Nat) (g : Fibre → Fibre) (wake : Fibre → Bool) (s : State) : State :=
  match s.gangOwner d p gang with
  | none => s
  | some (id, w, _, i) => (s.gangLive id w i).foldl (fun s x =>
      let u := s.modFib x.1 g
      if wake x.2 = true then u.makeReady x.1 else u) s

/-- Whether the debugger stopped a fibre. -/
def stoppedByDebug (fb : Fibre) : Bool := fb.st == .stopped && (match fb.stop with | some .debug => true | _ => false)

/-- The stores with a row of their own: instruction, store, register, and the effect in the partition of the store. -/
def regStore (s : State) : Event → Option (Instr × CtlBy × Nat × (Nat → State → State))
  | .lqpostWrite by' p q va =>
    if s.heldOf (fun g => decide (g = .service by'.sc)) = true ∨ 64 ≤ q ∨ 8 ≤ p ∨ (va.toNat % 256 = 0 ∧ s.postAccrues p va ≠ []) then none
    else some (.lqpostWrite, by', lqBase p q + 8, fun _ s =>
      if va.toNat % 256 ≠ 0 then s.setQueue p q { s.queue p q with code := 8 }
      else match s.readVa p va 256 with
        | .error _ => s.setQueue p q { s.queue p q with code := 8 }
        | .ok r => (s.post p q false r (s.covered [.service by'.sc] p (.call p))).1)
  | .fqheadWrite by' p v => some (.fqheadWrite, by', partBase p + 0x10, fun _ s =>
      ((s.modPart p fun x => { x with fqhead := v.toNat % 2 ^ 32 }).flushFaults p).retryKills)
  | .lgrowWrite by' p v => some (.lgrowWrite, by', partBase p + 0xD0, fun _ s =>
      { s with launches := s.launches.mapVal fun _ l =>
          if l.part = p ∧ l.ident = (s.part p).lgid ∧ v.toNat % 2 ^ 32 % 8 = 0 ∧ l.pcur < v.toNat % 2 ^ 32 ∧ l.flag 3 = true
          then { l with pcur := v.toNat % 2 ^ 32 } else l })
  | .xresumeRetry by' p n => some (.xresumeRetry, by', partBase p + 0x80, fun _ s =>
      if (s.part p).tokens.any (fun t => decide (t.token = n)) = true then
        s.modPart p fun x => { x with tokens := x.tokens.filter fun t => decide (t.token ≠ n) }
      else s)
  | .xresumeFailXlate by' p n => some (.xresumeFailXlate, by', partBase p + 0x80, fun _ s =>
      match (s.part p).tokens.find? fun t => decide (t.token = n) with
      | none => s
      | some t => (s.modPart p fun x => { x with tokens := x.tokens.filter fun t => decide (t.token ≠ n) }).failToken t .xlate)
  | .xresumeFailPerm by' p n => some (.xresumeFailPerm, by', partBase p + 0x80, fun _ s =>
      match (s.part p).tokens.find? fun t => decide (t.token = n) with
      | none => s
      | some t => (s.modPart p fun x => { x with tokens := x.tokens.filter fun t => decide (t.token ≠ n) }).failToken t .perm)
  | .xinvPartition by' p => some (.xinvPartition, by', partBase p + 0x70, fun _ s =>
      if (s.part p).xinv.isSome = true then s
      else List.foldl (fun s f => s.send (.atsInvalidate f.1 f.2)) (s.modPart p fun x => { x with xinv := some none }) (s.atsOf p))
  | .xinvRange by' p n => some (.xinvRange, by', partBase p + 0x70, fun _ s =>
      if (s.part p).xinv.isSome = true ∨ n % 2 ^ 32 = 0 then s
      else List.foldl (fun s f => s.send (.atsInvalidate f.1 f.2))
        (s.modPart p fun x => { x with xinv := some (some (x.xinvlo, n % 2 ^ 32)) }) (s.atsOf p))
  | .migcmdGo by' p n => some (.migcmdGo, by', partBase p + 0xB8, fun _ s =>
      s.modPart p fun x => if x.mig.isSome = true ∨ n < 1 ∨ 8 < n then x else { x with mig := some n })
  | .npctlRetrain by' k lanes v =>
    if ebit v 1 = true ∧ k < 16 then some (.npctlRetrain, by', svcBase + 0x9000 + 0x40 * k, fun p s =>
      if p ≠ 0 then s
      else if ebit v 0 = false then
        s.setPort k { s.port k with en := false, up := false, evt := (s.port k).evt || (s.port k).up }
      else
        let u := s.setPort k { s.port k with en := true }
        if (s.port k).up = false then u
        else if lanes < 8 then u.portDown k lanes
        else u.setPort k { s.port k with en := true, lanes := min lanes 16, run := 0 })
    else none
  | .nwctlWrite by' k v => some (.nwctlWrite, by', svcBase + 0x8000 + 0x20 * k, fun p s =>
      if p = 0 ∧ k < 64 then
        let w := s.window k
        let w' := w.written v
        { s with windows := s.windows.put k w'
                 severed := if w.severed = true ∧ w'.severed = false ∧ (w'.kind = 0 ∨ w'.kind = 2) then
                     s.severed.filter fun c => decide (c ≠ w'.peer) && decide (c ≠ s.chip) else s.severed }
      else s)
  | .hotrst by' k v =>
    if ebit v 1 = true ∧ k < 32 then some (.hotrst, by', svcBase + 0xC000 + 0x40 * k, fun _ s =>
      if s.rpExists k = true then
        let x := (s.rp k).ctlWritten v
        { s.setRp k { x with dpc := false, evt := x.evt || x.dpc } with
          atsOff := s.atsOff.filter fun f => decide (f.1 ≠ k), atsFns := s.atsFns.filter fun f => decide (f.1 ≠ k) }
      else s)
    else none
  | .prgResponseSuccess by' k pasid rid ix =>
    if k < 32 then some (.prgResponseSuccess, by', svcBase + 0xC000 + 0x40 * k + 0x18, fun _ s =>
      if s.rpExists k = true then s.send (.prg k (pasid % 2 ^ 20) (rid % 65536) (ix % 512) 0) else s)
    else none
  | .prgResponseInvalidRequest by' k pasid rid ix =>
    if k < 32 then some (.prgResponseInvalidRequest, by', svcBase + 0xC000 + 0x40 * k + 0x18, fun _ s =>
      if s.rpExists k = true then s.send (.prg k (pasid % 2 ^ 20) (rid % 65536) (ix % 512) 1) else s)
    else none
  | .prgResponseFailure by' k pasid rid ix =>
    if k < 32 then some (.prgResponseFailure, by', svcBase + 0xC000 + 0x40 * k + 0x18, fun _ s =>
      if s.rpExists k = true then s.send (.prg k (pasid % 2 ^ 20) (rid % 65536) (ix % 512) 15) else s)
    else none
  | .sltsyncWrite by' p => some (.sltsyncWrite, by', ioBase p + 0x10, fun _ s => s.modPart p fun x => { x with slt := some s.nextId })
  | .syspostWrite by' p v =>
    if s.heldOf (fun g => decide (g = .service by'.sc)) = true then none
    else some (.syspostWrite, by', ioBase p + 0x50, fun _ s =>
      match s.ofHandle p (v &&& ~~~(0x3FFFFFC0 : Word)) with
      | some (w, k) => s.countWeir w k 1 0 (ebit v 29) (some
          { obj := .weir w k, live := true, scope := .pk, spot := s.spotOf (.service by'.sc)
            ids := s.covered [.service by'.sc] p (.weir w k) })
      | none => s.notify p 0x22 (v &&& ~~~(0x3FFFFFC0 : Word)) 0)
  | .dicinvWrite by' d v =>
    if d < 8 then some (.dicinvWrite, by', dieBase d + 0x2000, fun _ s =>
      if (s.die d).icBusy = true then s
      else s.setDie d { s.die d with icBusy := true, icLine := BitVec.ofNat 64 ((v.extractLsb' 7 45).toNat * 128) })
    else none
  | .tgctlWrite by' d v =>
    if d < 8 then some (.tgctlWrite, by', dieBase d + 0x1000, fun _ s =>
      s.relimit d { s.die d with
        group := if s.dieResident d = true then (s.die d).group else (v.extractLsb' 32 16).toNat
        cap := if 40 ≤ (v.extractLsb' 0 8).toNat ∧ (v.extractLsb' 0 8).toNat ≤ 80 then (v.extractLsb' 0 8).toNat else (s.die d).cap })
    else none
  | .rstcmdWarmReset by' bad dg => some (.rstcmdWarmReset, by', svcBase + 0xF008, fun p s => if p = 0 then s.warmReset bad dg else s)
  | .fwVerify by' staged => some (.fwVerify, by', svcBase + 0xF100, fun _ s =>
      if s.boot.fw = 1 ∨ s.boot.fw = 4 then s else { s with boot := { s.boot with fw := 1, staged } })
  | .fwCommit by' => some (.fwCommit, by', svcBase + 0xF100, fun _ s =>
      if s.boot.fw = 2 then { s with boot := { s.boot with fw := 4 } } else s)
  | .dspareWrite by' d v =>
    if d < 8 then some (.dspareWrite, by', dieBase d + 8, fun _ s =>
      let log := (v.extractLsb' 8 5).toNat
      let sp := (v.extractLsb' 0 5).toNat
      let u := if ebit v 13 = true then s.setDie d { s.die d with spareDone := false } else s
      match (List.range 26).find? fun p => (u.pcore d p).en && decide ((u.pcore d p).logical = log) with
      | none => u
      | some p =>
        if sp < 26 ∧ (u.pcore d sp).en = false ∧ u.residents d log [] = [] then
          ((u.setPcore d p { u.pcore d p with en := false }).setPcore d sp { u.pcore d sp with en := true, logical := log }).setDie d
            { u.die d with spareDone := true }
        else u)
    else none
  | .partitionTableWrite by' e k v =>
    if e < 8 ∧ k < 8 then some (.partitionTableWrite, by', svcBase + 64 * e + 8 * k, fun p s =>
      let y := (s.part e).tableWritten e k v
      if p ≠ 0 ∨ (List.range 8).any (fun n => n != e && !(s.part n).disjoint y) = true ∨ s.entryBusy by'.sc (s.part e) = true ∨
          s.entryBusy by'.sc y = true then s
      else (List.range 8).foldl (fun t d => if (s.setPart e y).diePart d ≠ s.diePart d then t.clearDie d else t) (s.setPart e y))
    else none
  | .controlRegisterWrite by' addr v =>
    if inCtl addr = true ∧ addr % 8 = 0 ∧ ownRow addr v = false then
      some (.controlRegisterWrite, by', addr, fun p s => s.ctlWrite p addr v) else none
  | .pcmdSwapGang by' d p g => some (.pcmdSwapGang, by', coreBase d p + 0x100, fun _ =>
      pcmdSays d p g 1 fun s id w l i => if l.saves = true then some ((s.act id w l 0 (.swap i)).busyWhile d p id) else none)
  | .pcmdDrain by' d p g => some (.pcmdDrain, by', coreBase d p + 0x100, fun _ =>
      pcmdSays d p g 2 fun s id _ l _ => some (s.modWg id fun x => { x with drainBar := some (max (s.prio l) (x.drainBar.getD 0)) }))
  | .pcmdSave by' d p g => some (.pcmdSave, by', coreBase d p + 0x100, fun _ =>
      pcmdSays d p g 3 fun s id _ l _ => if l.saves = true then
        some ((s.modWg id fun x => { x with saving := x.residentIx id [] }).busyWhile d p id) else none)
  | .pcmdFlushRestart by' d p g =>
    if s.flushWaits d p g = true then none else some (.pcmdFlushRestart, by', coreBase d p + 0x100, fun _ =>
      pcmdSays d p g 4 fun s id w l _ => if s.flushable id w = true then some (s.flushWg id w l) else none)
  | .pcmdKill by' d p g => some (.pcmdKill, by', coreBase d p + 0x100, fun _ =>
      pcmdSays d p g 5 fun s id w l _ =>
        some (if s.killWaits id w = true then s.setPcore d p { s.pcore d p with busy := true, killing := some id } else s.killWg id w l))
  | .pcmdChoice by' d p g =>
    if s.flushWaits d p g = true then none else some (.pcmdChoice, by', coreBase d p + 0x100, fun _ =>
      pcmdSays d p g 6 fun s id w l _ => some ((s.act id w l (s.prio l) (s.fallBack id w l (choice l w.retired))).busyWhile d p id))
  | .dbgHalt by' d p g =>
    if d < 8 ∧ p < 26 ∧ g < 64 then some (.dbgHalt, by', coreBase d p + 0x2000, fun _ =>
      dbgSays d p g (fun f => { f with haltReq := true, stepReq := false }) fun _ => false) else none
  | .dbgResume by' d p g =>
    if d < 8 ∧ p < 26 ∧ g < 64 then some (.dbgResume, by', coreBase d p + 0x2000, fun _ =>
      dbgSays d p g (fun f => { f with haltReq := false, stepReq := false, stop := if stoppedByDebug f = true then none else f.stop })
        stoppedByDebug) else none
  | .dbgStep by' d p g =>
    if d < 8 ∧ p < 26 ∧ g < 64 then some (.dbgStep, by', coreBase d p + 0x2000, fun _ =>
      dbgSays d p g (fun f => { f with haltReq := stoppedByDebug f, stepReq := stoppedByDebug f
                                       stop := if stoppedByDebug f = true then none else f.stop }) stoppedByDebug) else none
  | _ => none

/-- A store of service core `by'` reaches offset `o` of switch window `k` (19 R446). -/
structure SwitchOpen (s : State) (by' : CtlBy) (k o : Nat) : Prop where
  ready : (s.sc by'.sc).running = true ∧ (s.sc by'.sc).await = none
  levee : s.leveeCheck by'.sc ((s.sc by'.sc).reg by'.base) rWR by'.va 8 = none
  place : s.scAddr by'.sc ((s.sc by'.sc).reg by'.base) .store by'.va 8 = .switch k ((s.window k).base * 2 ^ 30 + o)
  align : ((s.window k).base * 2 ^ 30 + o) % 8 = 0

/-- No earlier command of the workgroup stands in the way: a range on the scoreboard (R102), a use of the tile (R162). -/
def clearOf (s : State) (e : EngCx) (rngs : List Rng) : Prop := s.behind e.cmd e.c.wg rngs = false

/-- No sector of the regions is ARRIVING or FAILED. -/
def allPresent (w : Wg) (l : List (Nat × Nat)) : Prop :=
  ∀ k ∈ sectorsIn l, w.arriving (32 * k) 32 = false ∧ w.failedAt (32 * k) 32 = none

/-- The index list of a gather or scatter is `l`, read before or now that it is PRESENT (R342): the event goes on in state `u`, with the
command as in `y` and its body `h`. -/
def gsListed (scatter : Bool) (s : State) (e : EngCx) (g : GsCmd) (u : State) (y : EngCx) (h : GsCmd) (l : List Nat) : Prop :=
  (g.list = some l ∧ u = s ∧ y = e ∧ h = g) ∨
  (g.list = none ∧ s.behind e.cmd e.c.wg e.c.rngs = false ∧ e.w.arriving g.ioff (4 * g.n) = false ∧
    (∀ k ∈ sectorsOf g.ioff (4 * g.n), e.w.failedAt (32 * k) 32 = none) ∧
    l = ((List.range g.n).map fun k => e.w.spad.read (g.ioff + 4 * k) 4) ∧ h = { g with list := some l } ∧
    y = { e with c := { e.c with rngs := h.later scatter, body := if scatter then .scatter h else .gather h } } ∧ u = s.setCmd e.cmd y.c)

/-- The state in which the workgroup of a command is `g` and the command is gone (13 R329). -/
def finished (s : State) (e : EngCx) (g : Wg) : State := (s.setWg e.c.wg g).completeCmd e.cmd e.c

/-- A command bound to a tile gone too: RETIRING tiles that nothing is bound to become FREE. -/
def tileFinished (s : State) (e : EngCx) (g : Wg) : State := (finished s e g).freeTiles e.c.wg

/-- The request of a cluster's caches for a line at its home. -/
def ownRequest (r : HomeReq) : Prop :=
  (∃ n < 48, r.agent = .cluster n) ∧ (∃ own, r.kind = .fill own) ∧ (r.grain = 32 ∨ r.grain = 128 ∨ r.grain = 512) ∧
    r.pa % r.grain = 0 ∧ r.pa < 0x0008000000000000

/-- The event of a port: it is one of the 16 and what the port says is `x`. -/
def PortAt (s : State) (k : Nat) (x : Port) : Prop := k < 16 ∧ s.port k = x

/-- An endpoint's request is carried: partition, port and memory are ready, and the request keeps to one page. -/
structure EpOpen (s : State) (port p : Nat) (a : EpAddr) (n : Nat) : Prop where
  part  : s.portPart port = some p
  live  : s.carries port = true ∧ s.boot.memready = true
  fits  : 1 ≤ n ∧ (epIssued a).toNat % 4096 + n ≤ 4096

/-- The die after a limit in force changed: alone it steps at once, in a group every member steps 1,000 ns later (R498). -/
def limitStep (s : State) (d : Nat) (x : Die) : State := s.relimit d x

end Sys2Proof.Claims

open Sys2Proof Sys2Proof.Machine Sys2Proof.Claims

/-- R252 to R255, R257: the two-source and one-source forms of major 0x04, and SMOV, give Sd their result extended by the type, and
under SF the four flags; without SF the flags stay. -/
def Obligations.ScalarArithmetic : Prop :=
  (∀ (i : Instr) (o : SOp) (f : Arith), arith i = some (o, f) → ∀ (s : State) (c : Cx),
    Ready s c (sDst o.d :: sSrc o.a :: SSrc.opnds o.b) →
    let r := f o.ty.width o.ty.signed (sArg c o.ty.width o.a) (sArgB c o.ty.width o.b)
    exec i s = .next (sDone c o.ty o.sf o.look o.d r.1 r.2)) ∧
  (∀ (i : Instr) (o : SUn) (f : (w : Nat) → BitVec w → BitVec w), arithOne i = some (o, f) → ∀ (s : State) (c : Cx),
    Ready s c [sDst o.d, sSrc o.a] →
    exec i s = .next (sDone c o.ty o.sf o.look o.d (f o.ty.width (sArg c o.ty.width o.a)) (false, false)))

/-- R257 to R262: SLI, SADR, SGETSR, SSEL, KPOP, KFIRST and KTOS give Sd their value, KAND, KOR, KXOR, KANDN, KNOT, KMOV and KFROMS
give Md theirs, and SSETSR writes FMODE or FLAGS. -/
def Obligations.ScalarMoves : Prop :=
  (∀ (o : SliOp) (s : State) (c : Cx), Ready s c [sDst o.d] →
    exec (.sli o) s = .next (sDone c o.ty o.sf o.look o.d ((sliImm o.imm).setWidth o.ty.width) (false, false))) ∧
  (∀ (i : Instr) (s : State) (c : Cx) (r : SRow), scalarForm c i = some r → Ready s c r.ops →
    exec i s = .next (wrote c r.look.toNat [(.s r.d.toNat, .s r.val)])) ∧
  (∀ (i : Instr) (s : State) (c : Cx) (ops : List Opnd) (d : BitVec 4) (x : Wide), maskForm c i = some (ops, d, x) →
    Ready s c ops → exec i s = .next (wrote c 0 [(.m d.toNat, .m x)])) ∧
  (∀ (a : BitVec 6) (sel : SReg) (s : State) (c : Cx), Ready s c [sSrc a] →
    let x := c.fb.sreg a.toNat
    (sel = .fmode → exec (.ssetsr { sel, a }) s = .next (changed c fun f => { f with ftz := x.getLsbD 0 })) ∧
    (sel = .flags → exec (.ssetsr { sel, a }) s = .next (changed c fun f =>
      { f with n := x.getLsbD 3, z := x.getLsbD 2, c := x.getLsbD 1, o := x.getLsbD 0 })))

/-- R256, R203: SCMP, SCMN and STST write the flags of SSUB, SADD and SAND and no register, and after SCMP a condition holds exactly
where its comparison of the operands does. -/
def Obligations.Compares : Prop :=
  (∀ (i : Instr) (o : ScmpOp) (s : State) (c : Cx) (fl : Flags), compareOp i = some o →
    compareFlags (sArg c o.ty.width o.a) (sArgB c o.ty.width o.b) i = some fl →
    Ready s c (sSrc o.a :: SSrc.opnds o.b) → exec i s = .next (changed c (·.setFlags fl))) ∧
  (∀ (w : Nat) (a b : BitVec w) (o : ScmpOp) (fl : Flags) (k : Cond) (r : Bool), 0 < w →
    compareFlags a b (.scmp o) = some fl → condSays a b k = some r → condHolds k fl = r)

/-- R235, R237 to R239: a branch taken to a header goes there with the loop entries that hold it; one not taken goes
on. -/
def Obligations.Branches : Prop :=
  ∀ (i : Instr) (s : State) (c : Cx) (ops : List Opnd) (taken : Bool) (a : Word), branchForm c i = some (ops, taken, a) →
    Ready s c ops → (taken = true → s.badTarget c.w a = false) →
    exec i s = .next (if taken then branched c a (loopsAt c a) else changed c id)

/-- R210, R235, R236: a branch to a target that is no header traps BADTARGET with nothing done, and CALL, CALLI or LOOP that does not
end its block is ILLEGAL before any other check of its own. -/
def Obligations.BranchChecks : Prop :=
  (∀ (i : Instr) (s : State) (c : Cx) (ops : List Opnd) (a : Word), branchForm c i = some (ops, true, a) →
    Ready s c ops → s.badTarget c.w a = true → exec i s = .next (trapped c .badtarget 0 0)) ∧
  (∀ (i : Instr) (s : State) (c : Cx) (ops : List Opnd), closingForm i = some ops → Ready s c ops → after c ≠ c.fb.blkEnd →
    exec i s = .next (trapped c .illegal 0 c.word))

/-- R240, R241, R248: CALL and CALLI at the end of their block put the address after them with the loop depth into LK and
branch; RET comes back to it with that depth, and UPRET branches and ends the handler. -/
def Obligations.Calls : Prop :=
  (∀ (i : Instr) (s : State) (c : Cx) (ops : List Opnd) (a : Word), callForm c i = some (ops, a) → Ready s c ops →
    after c = c.fb.blkEnd → s.badTarget c.w a = false →
    exec i s = .next (branched c a c.fb.loops fun x =>
      { x with s := x.s.put 63 (after c ||| BitVec.ofNat 64 c.fb.loops.length) })) ∧
  (∀ (o : SaOp) (s : State) (c : Cx) (d : Nat), Ready s c [sSrc o.a] → d = (c.fb.sreg o.a.toNat).toNat % 8 → d ≤ 4 →
    s.badTarget c.w (c.fb.sreg o.a.toNat - BitVec.ofNat 64 d) = false →
    exec (.ret o) s = .next (branched c (c.fb.sreg o.a.toNat - BitVec.ofNat 64 d) (c.fb.loops.drop (c.fb.loops.length - d)))) ∧
  (∀ (o : SaOp) (s : State) (c : Cx), Ready s c [sSrc o.a] → s.badTarget c.w (c.fb.sreg o.a.toNat) = false →
    exec (.upret o) s = .next (branched c (c.fb.sreg o.a.toNat) (loopsAt c (c.fb.sreg o.a.toNat)) fun x =>
      { x with handler := false }))

/-- R242: LOOP at the end of its block, with fewer than four entries, pushes one for a count above 0 and branches to
its exit for a count of 0; with four it is the LOOPDEPTH trap. -/
def Obligations.Loops : Prop :=
  ∀ (o : LoopOp) (s : State) (c : Cx) (n : Nat) (x : Word), Ready s c (LoopCountOpnds o.count) → after c = c.fb.blkEnd →
    loopSays c o.count = (n, x) →
    (c.fb.loops.length = 4 → exec (.loop o) s = .next (trapped c .loopdepth 0 0)) ∧
    (c.fb.loops.length < 4 → n = 0 → s.badTarget c.w x = false → exec (.loop o) s = .next (branched c x (loopsAt c x))) ∧
    (c.fb.loops.length < 4 → 0 < n →
      exec (.loop o) s = .next (c.finish (.jump (c.issued.setF fun f =>
        { f with loops := ⟨after c, x - 8, n⟩ :: c.fb.loops, pc := after c }))))

/-- R246: TRAP, HALT and BKPT take their trap. -/
def Obligations.TrapInstructions : Prop :=
  ∀ (i : Instr) (s : State) (c : Cx) (k : Cause) (x : Word), trapForm c i = some (k, x) → Ready s c [] →
    exec i s = .next (trapped c k x 0)

/-- R268, R269, R271: an integer vector form gives every active lane its element and leaves every other live lane. -/
def Obligations.VectorInteger : Prop :=
  ∀ (i : Instr) (s : State) (c : Cx) (r : VRow), vecInteger c i = some r → Ready s c r.ops →
    ∃ dst, exec i s = .next (wrote c r.look.toNat dst) ∧ LaneWrites c r dst

/-- R272 to R280: a floating-point, conversion or packed form gives every active lane its element, and under .rsr
advances the SRS of those lanes. -/
def Obligations.VectorFloat : Prop :=
  ∀ (i : Instr) (s : State) (c : Cx) (r : VRow), vecFloat c i = some r → Ready s c r.ops →
    ∃ dst, exec i s = .next (wrote c r.look.toNat dst r.srs) ∧ LaneWrites c r dst

/-- R281, R282, R284 to R286: moves, permutations, scans, reductions, compaction and expansion. -/
def Obligations.VectorLanes : Prop :=
  ∀ (i : Instr) (s : State) (c : Cx) (r : VRow), vecLanes c i = some r → Ready s c r.ops →
    ∃ dst, exec i s = .next (wrote c r.look.toNat dst) ∧ LaneWrites c r dst

/-- R270, R275: VCMP, VTEST and VFCMP set the bit of every active lane whose test holds and clear every other. -/
def Obligations.VectorTests : Prop :=
  ∀ (i : Instr) (s : State) (c : Cx) (o : VOp) (test : Nat → Bool), vecTest c i = some (o, test) →
    Ready s c (mDst (o.d.setWidth 4) :: vSrc o.a.toNat (regsOf o.ty.width) :: VSrc.opnds o.b (regsOf o.ty.width) ++ [mSrc o.m]) →
    ∃ x : Wide, exec i s = .next (wrote c o.look.toNat [(.m o.d.toNat, .m x)]) ∧
      ∀ l < 128, x.getLsbD l = (decide (l < c.w.width) && activeLane c o.m l && test l)

/-- R281, R285, R286: VINS, VLANE, VSETSRS, VMATCH and VBALLOT. -/
def Obligations.VectorSingles : Prop :=
  ∀ (o : VOp) (s : State) (c : Cx), let k := regsOf o.ty.width
    (Ready s c (vDst o.d.toNat k :: sSrc (o.a.setWidth 6) :: VSrc.opnds o.b 1) →
      ∃ dst, exec (.vins o) s = .next (wrote c o.look.toNat dst) ∧ dst.length = k ∧
        ∀ i < k, ∃ x : VVal, dst[i]? = some (.v (o.d.toNat + i), .v x) ∧ ∀ l < c.w.width, x.lane l =
          if l = laneNamed c o.b then BitVec.ofNat 32 ((c.fb.sreg (o.a.setWidth 6).toNat).toNat % 2 ^ o.ty.width / 2 ^ (32 * i))
          else (c.fb.vreg (o.d.toNat + i)).lane l) ∧
    (Ready s c (sDst (o.d.setWidth 6) :: vSrc o.a.toNat k :: VSrc.opnds o.b 1) →
      exec (.vlane o) s = .next (wrote c o.look.toNat
        [(.s (o.d.setWidth 6).toNat, .s (sExt o.ty.signed (elemAt c o.ty o.a (laneNamed c o.b))))])) ∧
    (Ready s c [vSrc o.a.toNat 1, mSrc o.m] →
      ∃ srs, exec (.vsetsrs o) s = .next (changed c fun f => { f with srs }) ∧ ∀ l < c.w.width, srs.getD l 0 =
        if activeLane c o.m l then (if wordAt c o.a l = 0 then 1 else BitVec.ofNat 32 (wordAt c o.a l)) else c.fb.srs.getD l 0) ∧
    (Ready s c [mDst (o.d.setWidth 4), vSrc o.a.toNat k, vDst o.c.toNat 1, mSrc o.m] →
      ∃ (x : Wide) (dst : List (RegRef × WVal)), exec (.vmatch o) s = .next (wrote c o.look.toNat ((.m o.d.toNat, .m x) :: dst)) ∧
        (∀ l < 128, x.getLsbD l = (decide (l < c.w.width) && activeLane c o.m l && decide ((matching c o l).head? = some l))) ∧
        LaneVals c o.m o.c 1 (fun l => (matching c o l).length) dst) ∧
    (Ready s c [sDst (o.d.setWidth 6), vSrc o.a.toNat k, mSrc o.m] →
      ∃ x : Wide, exec (.vballot o) s = .next (wrote c o.look.toNat
          [(.s (o.d.setWidth 6).toNat, .s ((x >>> (64 * o.c.toNat)).setWidth 64))]) ∧
        ∀ l < 128, x.getLsbD l = (decide (l < c.w.width) && activeLane c o.m l && elemAt c o.ty o.a l != 0))

/-- R291, R293 to R298: a scratchpad load that nothing holds up gives its destination the values at its addresses. -/
def Obligations.ScratchpadLoads : Prop :=
  ∀ (i : Instr) (s : State) (c : Cx) (r : LRow), loadForm c i = some r → r.space = .spad → Ready s c r.ops →
    SpadOpen c r.size r.accs true false →
    ∃ dst, exec i s = .next (wrote c r.look.toNat dst) ∧ r.gives (fun a => c.w.spad.read a.info.toNat r.size) dst

/-- R290, R291, R294, R297, R298: scratchpad stores write the bytes of their accesses and no other byte; a scratchpad access that is
misaligned or outside SPADSZ traps at its lowest failing lane with nothing done. -/
def Obligations.ScratchpadStores : Prop :=
  (∀ (i : Instr) (s : State) (c : Cx) (r : WRow), storeForm c i = some r → r.space = .spad → Ready s c r.ops →
    SpadOpen c r.size r.accs false true →
    ∃ t w, exec i s = .next t ∧ GoesOn c t 0 [] ∧ t.mem = s.mem ∧ t.wgs.find? c.fb.wg = some w ∧
      w.spad = spadAfter c.w.spad r.size r.accs r.data ∧
      w.sectors = (c.w.heal (r.accs.map fun a => (a.info.toNat, r.size))).sectors ∧
      (Mem.wf c.w.spad = true → ∀ b, (∀ a ∈ r.accs, b < a.info.toNat ∨ a.info.toNat + r.size ≤ b) → w.spad.get b = c.w.spad.get b)) ∧
  (∀ (i : Instr) (s : State) (c : Cx) (ops : List Opnd) (size : Nat) (l : List Acc) (a : Acc),
    ((∃ r, loadForm c i = some r ∧ r.space = .spad ∧ ops = r.ops ∧ size = r.size ∧ l = r.accs) ∨
      (∃ r, storeForm c i = some r ∧ r.space = .spad ∧ ops = r.ops ∧ size = r.size ∧ l = r.accs)) → Ready s c ops →
    (l.find? (fun a => decide (a.info.toNat % size ≠ 0)) = some a →
      exec i s = .next (trapped c .misalign a.info 0)) ∧
    ((∀ a ∈ l, a.info.toNat % size = 0) →
      l.find? (fun a => decide (a.info.toInt < 0 ∨ (c.l.kernel.spad : Int) < a.info.toInt + size)) = some a →
      exec i s = .next (trapped c .spadbound a.info 0)))

/-- R290 to R297, 04 R97: every access of a global load that nothing holds up gives the bytes at its home, or those before some of
the newest writes that the fibre need not see; a VERSIONED workgroup reads its version over them. No byte of memory changes
but what the accesses themselves account (first touches, counts, the lanes' own private bytes). VPREF changes nothing but its
fibre's pc. -/
def Obligations.GlobalLoads : Prop :=
  (∀ (i : Instr) (s : State) (c : Cx) (r : LRow) (ys : List AccX), loadForm c i = some r → r.space = .global →
    Ready s c r.ops → c.issued.translate .load r.size r.accs = .ok ys → c.issued.gates false ys = none →
    s.deadAcc r.size ys = none →
    let u := loadFrom c ys r.size
    ∃ t dst val, exec i s = .next t ∧ GoesOn c t r.look.toNat dst ∧ r.gives val dst ∧ t.mem = u.mem ∧
      (∀ y ∈ ys, ∃ b, mayRead c u y.x.pa r.size b ∧ val y.acc = leNat (overlay (c.versionIn u) y.x.pa b)) ∧
      (c.w.priv = [] → (∀ y ∈ ys, quiet s c.w y) → t.mem = s.mem)) ∧
  (∀ (o : MemV) (s : State) (c : Cx), Ready s c [vSrc o.a.toNat 1, sSrc o.b, mSrc o.m] →
    exec (.vpref o) s = .next (changed c id))

/-- R291, R294, R297: a global store that goes through writes its data at the translated addresses lane by lane, and no
other byte but what the accesses themselves account; that of a VERSIONED workgroup writes its version (04 R112). -/
def Obligations.GlobalStores : Prop :=
  ∀ (i : Instr) (s : State) (c : Cx) (r : WRow) (ys : List AccX), storeForm c i = some r → r.space = .global → Ready s c r.ops →
    (StoreOpen c r.size r.accs ys →
      ∃ t, exec i s = .next t ∧ GoesOn c t 0 [] ∧ t.mem = memAfter (entered c ys false r.size).mem r.size ys r.data ∧
        (c.w.priv = [] → (∀ y ∈ ys, quiet s c.w y) → Mem.wf s.mem = true →
          ∀ b, (∀ y ∈ ys, b < y.x.pa ∨ y.x.pa + r.size ≤ b) → t.mem.get b = s.mem.get b)) ∧
    (c.versioned = true → c.issued.translate (.store r.size) r.size r.accs = .ok ys → c.issued.gates false ys = none →
      (∀ y ∈ ys, s.versionFull c.w y.x.pa = false) →
      ∃ t, exec i s = .next t ∧ GoesOn c t 0 [] ∧ cellsOf t c.fb.wg =
        (cellsOf (entered c ys false r.size) c.fb.wg).map fun m => cellsAfter m r.size ys r.data)

/-- 02 R45 to R47: private loads read the parts of at most 4 bytes of their lanes' private memory, as the core's L1 holds them or
else as a global read finds them; private stores put their parts into L1, and write no byte of memory but those parts. -/
def Obligations.PrivateMemory : Prop :=
  (∀ (i : Instr) (s : State) (c : Cx) (r : LRow) (ys : List AccX), loadForm c i = some r → r.space = .priv → Ready s c r.ops →
    c.issued.privTranslate .load r.size r.accs = .ok ys → c.issued.gates false ys = none →
    s.deadAcc (min r.size 4) ys = none →
    let u := c.issued.s.usedAll c.w ys false
    ∃ t dst, exec i s = .next t ∧ GoesOn c t r.look.toNat dst ∧ t.mem = u.mem ∧
      ∃ parts : List (List Byte), parts.length = ys.length ∧
        r.gives (fun a => leNat (((ys.zip parts).filter fun p => decide (p.1.acc.lane = a.lane)).flatMap Prod.snd)) dst ∧
        ∀ p ∈ ys.zip parts, ∃ b, mayRead c u p.1.x.pa (min r.size 4) b ∧
          p.2 = (overlay (c.versionIn u) p.1.x.pa b).mapIdx fun i x => (c.w.priv.find? (p.1.x.pa + i)).getD x) ∧
  (∀ (i : Instr) (s : State) (c : Cx) (r : WRow) (ys : List AccX), storeForm c i = some r → r.space = .priv → Ready s c r.ops →
    c.issued.privTranslate (.store (min r.size 4)) r.size r.accs = .ok ys → c.issued.gates true ys = none →
    (∀ y ∈ ys, s.refuses y.x.pa (min r.size 4) = false) →
    ∃ t, exec i s = .next t ∧ GoesOn c t 0 [] ∧
      (WgAt t c.fb.wg fun w => w.priv = privAfter c.w.priv r.size r.accs ys r.data) ∧
      ((∀ y ∈ ys, quiet s c.w y) → Mem.wf s.mem = true →
        ∀ b, (∀ y ∈ ys, b < y.x.pa ∨ y.x.pa + min r.size 4 ≤ b) → t.mem.get b = s.mem.get b))

/-- R300, R302, R304: ATL performs its operator on the scratchpad lane by lane, and every active lane receives the value
it found; where it does not perform every lane at once, the others are left to be performed one by one. -/
def Obligations.LocalAtomics : Prop :=
  ∀ (i : Instr) (s : State) (c : Cx) (p : AtomOpr) (o : AtomOp), atlForm i = some (p, o) → Ready s c (atomOpnds p o) →
    SpadOpen c o.w.bytes (atomAccs c o.m o.b o.a) true true → s.writesOut c.f = false →
    let l := (atomAccs c o.m o.b o.a).map fun a => (a.lane, a.info.toNat)
    let run := atomRun c p o c.w.spad (l.take (atOnce c l.length))
    ∃ t w, exec i s = .next t ∧ wentOn c t ∧ t.mem = s.mem ∧ t.wgs.find? c.fb.wg = some w ∧ w.spad = run.1 ∧
      (l.length ≤ atOnce c l.length → ∃ dst, GoesOn c t (if p = .st then 0 else o.look.toNat) dst ∧
        (if p = .st then dst = [] else LaneVals c o.m o.d (atomRegs o.w) (fun l => run.2.getD l 0) dst)) ∧
      (atOnce c l.length < l.length → stillToDo t ((l.drop (atOnce c l.length)).map Prod.fst))

/-- R300, R302, R303, R306: ATG that nothing holds up performs its operator at the homes lane by lane, and every active lane receives
the value it found; where it does not perform every lane at once, the others are left to be performed one by one. In a
VERSIONED workgroup it goes on as well (04 R112). -/
def Obligations.GlobalAtomics : Prop :=
  ∀ (i : Instr) (s : State) (c : Cx) (p : AtomOpr) (o : AtomOp) (ys : List AccX), atgForm i = some (p, o) →
    Ready s c (atomOpnds p o) → c.issued.translate .atomic o.w.bytes (atomAccs c o.m o.b o.a) = .ok ys →
    c.issued.gates (p.writes && !c.versioned) ys = none → s.writesOut c.f = false →
    (∀ y ∈ ys, s.heldAway c.f y = false ∧ s.dead y.x.pa o.w.bytes = false) →
    (c.versioned = false →
      let l := ys.map fun y => (y.acc.lane, y.x.pa)
      let run := atomRun c p o (entered c ys (scopeAtHome o.scope) o.w.bytes).mem (l.take (atOnce c l.length))
      ∃ t, exec i s = .next t ∧ wentOn c t ∧ t.mem = run.1 ∧
        (l.length ≤ atOnce c l.length → ∃ dst, GoesOn c t (if p = .st then 0 else o.look.toNat) dst ∧
          (if p = .st then dst = [] else LaneVals c o.m o.d (atomRegs o.w) (fun l => run.2.getD l 0) dst)) ∧
        (atOnce c l.length < l.length → stillToDo t ((l.drop (atOnce c l.length)).map Prod.fst))) ∧
    (c.versioned = true → (∀ y ∈ ys, s.versionFull c.w y.x.pa = false) → Gives (exec i s) (wentOn c))

/-- How a lane's accrue update is issued: bound as a store is, and after a FENCE.rel a release at its location (12 R303, R307). -/
def accrueIssue (c : Cx) (tag : AcrTag) (o : AcrOp) (y : AccX) : Issue :=
  { c.issueAt y.acc.va tag.size with
    rel := if c.releases .rlx o.scope then c.relOf o.scope (.loc y.x.pa tag.size) else none }

/-- R305, R307, R309: REDG and ACR issue one command counted in OCA with one operation for each active lane, and go on. In a
VERSIONED workgroup REDG goes on too, and ACR traps VERSIONED (R291, R292). -/
def Obligations.FarUpdates : Prop :=
  (∀ (i : Instr) (s : State) (c : Cx) (p : AtomOpr) (o : AtomOp) (ys : List AccX), redgForm i = some (p, o) →
    Ready s c (redgOpnds o) → c.issued.translate .atomic o.w.bytes (atomAccs c o.m o.b o.a) = .ok ys → s.writesOut c.f = false →
    (∀ y ∈ ys, s.ownWrite c.f y.x.line = false ∧ s.heldAway c.f y = false ∧
      s.pageAccrues c.w.part (some (c.w.die, c.w.core)) y.x = []) →
    let u := entered c ys (scopeAtHome o.scope) 16
    (c.versioned = false → ∃ t, exec i s = .next t ∧ GoesOn c t 0 [] ∧ t.mem = u.mem ∧
      (ys = [] → t.cmds = s.cmds) ∧
      (ys ≠ [] → Issued c t u .oca []
        (.far (ys.map fun y => farOp (.atom p o.w 0) y.acc.lane y.acc.info y.x.pa y.x.grain (c.issued.redgIssue p o y)
          (atomElem c o.w o.c y.acc.lane))))) ∧
    (c.versioned = true → c.issued.gates false ys = none → (∀ y ∈ ys, s.versionFull c.w y.x.pa = false) → Gives (exec i s) (wentOn c))) ∧
  (∀ (i : Instr) (s : State) (c : Cx) (tag : AcrTag) (o : AcrOp), acrForm i = some (tag, o) → Ready s c (acrOpnds o) →
    (∀ ys, c.versioned = false → c.issued.translate .accrue tag.size (atomAccs c o.m o.b o.a) = .ok ys → s.writesOut c.f = false →
      (∀ y ∈ ys, s.ownWrite c.f y.x.line = false ∧ s.heldAway c.f y = false ∧
        s.pageAccrues c.w.part (some (c.w.die, c.w.core)) y.x = []) →
      let u := entered c ys (scopeAtHome o.scope) 16
      ∃ t, exec i s = .next t ∧ GoesOn c t 0 [] ∧ t.mem = u.mem ∧ (ys = [] → t.cmds = s.cmds) ∧
        (ys ≠ [] → Issued c t u .oca []
          (.far (ys.map fun y => farOp (.acr tag (acrNode c.w.die c.w.core o.scope y.x.pa y.x.away)) y.acc.lane y.acc.info y.x.pa
            y.x.grain (accrueIssue c.issued tag o y)
            (acrData tag o.w (elemOf (c.fb.vregs o.d.toNat (regsOf (8 * o.w.bytes))) y.acc.lane) o.scale))))) ∧
    (c.versioned = true → activeLanes c o.m ≠ [] → exec i s = .next (trapped c .versioned 0 0)))

/-- R245, R248, R36, R244: NOP has no effect beyond issuing; YIELD makes the scheduler wait with its fibre for 16 choices;
FEND ends the fibre, which drops its pending results, upcalls and tiles, and gives its children to its parent. -/
def Obligations.NopYieldFend : Prop :=
  ∀ (s : State) (c : Cx), Ready s c [] →
    exec .nop s = .next (changed c id) ∧ exec .yield s = .next (changed c fun f => { f with yield := 16 }) ∧
    Gives (exec .fend s) fun t =>
      FibAt t c.f (fun x => x.st = .ended ∧ x.pend = [] ∧ x.upcalls = [] ∧ x.tiles = [] ∧ x.s = c.fb.s ∧ x.v = c.fb.v) ∧
      (lockFree c.fb → noTargets s → t.mem = s.mem ∧ t.lines = s.lines ∧ t.cmds = s.cmds) ∧
      (noTargets s → ∀ p ∈ s.fibres, s.fibres.find? p.1 = some p.2 → p.1 ≠ c.f → FibAt t p.1 fun y =>
        y.parent = (if p.2.parent = some c.f then c.fb.parent else p.2.parent) ∧ y.st = p.2.st ∧ y.pc = p.2.pc)

/-- R35, R243: SPAWN moves the active lanes into a new fibre at its target; with none active, or 16 fibres in the gang, it
sets C and moves nothing. -/
def Obligations.Spawn : Prop :=
  ∀ (o : BmOp) (s : State) (c : Cx), Ready s c [mSrc o.m] → s.badTarget c.w (branchTo c o.off) = false → c.fb.pend = [] →
    c.fb.st ≠ .ended → c.f ≠ s.nextId →
    ((laneSet c o.m = 0 ∨ 16 ≤ gangLive c) → exec (.spawn o) s = .next (changed c fun f => { f with wins := [], c := true })) ∧
    (laneSet c o.m ≠ 0 → gangLive c < 16 → Gives (exec (.spawn o) s) fun t =>
      t.mem = s.mem ∧ t.cmds = s.cmds ∧
      FibAt t c.f (fun x => x.mreg 0 = c.fb.mreg 0 &&& ~~~laneSet c o.m ∧ x.flags = { c.fb.flags with c := false } ∧ x.wins = [] ∧
        x.s = c.fb.s ∧ x.v = c.fb.v ∧ x.pc = (c.fb.advance c.len).pc ∧ x.st = .ready) ∧
      FibAt t s.nextId (fun y => y.mreg 0 = laneSet c o.m ∧ (∀ n < 16, n ≠ 0 → y.mreg n = c.fb.mreg n) ∧ y.v = c.fb.v ∧ y.s = c.fb.s ∧
        y.srs = c.fb.srs ∧ y.flags = { c.fb.flags with c := false } ∧ y.ftz = c.fb.ftz ∧ y.target = c.fb.target ∧
        y.wg = c.fb.wg ∧ y.num = c.fb.num ∧ y.pc = branchTo c o.off ∧ y.blkEnd = branchTo c o.off ∧ y.parent = some c.f ∧
        y.loops = [] ∧ y.tiles = [] ∧ y.slots = List.replicate 4 LockSlot.empty ∧ y.pend = [] ∧ y.batch = 0 ∧ y.st = .ready))

/-- R247, R37, 20 R465: SYSC takes ILLEGAL for an S2 of 64 or more, WEIRBOUND for a weir at or beyond NW and VERSIONED in a
VERSIONED workgroup. Else it waits in INTERLOCK while the fibre's writes are out, or the ring has no room for a new record. Else it
goes on: alone, or first of its batch, it places one record in the call ring; a later fibre of a batch with the same n and S2 adds its
entry to the record placed, and the ring does not move. That SYSC waits for the fibre's writes is the model's choice (log entry 12). -/
def Obligations.VectorCalls : Prop :=
  ∀ (o : ImmOp) (s : State) (c : Cx), Ready s c [sSrc 2, sSrc 3, vSrc 2 1, vSrc 3 1] →
    let w := (c.fb.sreg 2).toNat
    let n := callReg s c.w.part 0x38
    let tail := callReg s c.w.part 0x48
    let a := callReg s c.w.part 0x30 + 2048 * (tail % 2 ^ n)
    let room := 4 ≤ n ∧ n ≤ 16 ∧ (tail + 2 ^ 32 - callReg s c.w.part 0x40 % 2 ^ 32) % 2 ^ 32 < 2 ^ n
    let joins := fun g : Gathered => s.batch.call = some g ∧ g.num = o.n.toNat ∧ g.arg = c.fb.sreg 2
    let sized := c.w.width ∣ 128 ∧ Mem.wf s.mem = true ∧ ∀ l, c.w.width ≤ l → (c.fb.mreg 0).getLsbD l = false
    (64 ≤ w → exec (.sysc o) s = .next (trapped c .illegal 0 c.word)) ∧
    (w < 64 → c.l.kernel.nw ≤ w → exec (.sysc o) s = .next (trapped c .weirbound (c.fb.sreg 2) 0)) ∧
    (w < 64 → w < c.l.kernel.nw → c.versioned = true → exec (.sysc o) s = .next (trapped c .versioned 0 0)) ∧
    (w < 64 → w < c.l.kernel.nw → c.versioned = false → (s.writesOut c.f = true ∨ (¬ room ∧ ∀ g, ¬ joins g)) →
      exec (.sysc o) s = .next (s.setFib c.f { c.fb with st := .interlock })) ∧
    (w < 64 → w < c.l.kernel.nw → c.versioned = false → s.writesOut c.f = false → sized →
      (room → (∀ g, ¬ joins g) → Gives (exec (.sysc o) s) fun t =>
        GoesOn c t 0 [] ∧ callReg t c.w.part 0x48 = (tail + 1) % 2 ^ 32 ∧ callFields c o.n.toNat (t.mem.bytes a 2048) ∧
        (∀ b, b < a ∨ a + 2048 ≤ b → t.mem.read b 1 = s.mem.read b 1)) ∧
      (∀ g, joins g → g.nfib < 16 → Gives (exec (.sysc o) s) fun t =>
        let r := t.mem.bytes g.slot 2048
        GoesOn c t 0 [] ∧ callReg t c.w.part 0x48 = tail ∧ t.batch.call = some { g with nfib := g.nfib + 1 } ∧
        fieldLe r 1 1 = g.nfib + 1 ∧ callEntry c g.nfib r ∧
        (∀ l < c.w.width, (c.fb.mreg 0).getLsbD l = true → fieldLe r 0x20 16 / 2 ^ (c.w.slot c.fb.num + l) % 2 = 1) ∧
        (∀ b, b < g.slot ∨ g.slot + 2048 ≤ b → t.mem.read b 1 = s.mem.read b 1)))

/-- R249, R250: LAUNCH posts the record at Sa, once no accrue line of the record or of what it names is uncollected, and its fibre
waits for the answer. Code 0 queues the record; every other code changes no launch. A VERSIONED workgroup and a misaligned Sa trap.
That LAUNCH waits in INTERLOCK while the fibre's writes are out is the model's choice (log entry 12). -/
def Obligations.Launches : Prop :=
  ∀ (o : LaunchOp) (s : State) (c : Cx) (x : Xl), Ready s c [sSrc o.a, sDst o.d] → c.fb.await = .none →
    let a := c.fb.sreg o.a.toNat
    (c.versioned = true → exec (.launch o) s = .next (trapped c .versioned 0 0)) ∧
    (c.versioned = false → a.toNat % 256 ≠ 0 → exec (.launch o) s = .next (trapped c .misalign a 0)) ∧
    (c.versioned = false → a.toNat % 256 = 0 → s.xlate c.w.part .load a s.free = .ok x → s.dead x.pa 256 = false →
      s.writesOut c.f = false → c.issued.s.postAccrues c.w.part a = [] → (∀ p ∈ s.launches, p.1 < s.nextId) →
      Gives (exec (.launch o) s) fun t =>
        let code := (t.queue c.l.part c.l.queue).code
        FibAt t c.f (fun y => y.st = .interlock ∧ y.await = .launch o.d.toNat code ∧ y.pc = c.fb.pc ∧ y.s = c.fb.s ∧ y.v = c.fb.v) ∧
        code ≤ 7 ∧ t.cmds = s.cmds ∧ (code ≠ 0 → t.launches = s.launches) ∧
        (code = 0 → (t.queue c.l.part c.l.queue).inuse = (s.queue c.l.part c.l.queue).inuse + 1 ∧
          ∃ l ∈ t.launches.map (·.2), l.record = (c.issued.s.accessed c.w x false).mem.bytes x.pa 256 ∧
            l.part = c.l.part ∧ l.queue = c.l.queue ∧ l.started = [] ∧ l.ended = [])) ∧
    (c.versioned = false → a.toNat % 256 = 0 → s.xlate c.w.part .load a s.free = .ok x → s.dead x.pa 256 = false →
      s.writesOut c.f = true → exec (.launch o) s = .next (s.setFib c.f { c.fb with st := .interlock }))

/-- R124: the weir after a count, in closed form, is the weir that the loop of Count leaves. -/
def Obligations.WeirCount : Prop :=
  ∀ (x : Weir) (da db : Nat) (e : Bool), x.phase < 65536 → (x.count da db e).1 = countOf x da db e

/-- R182 to R192, R310, R311: LCK takes the lowest free slot, writes its number and sends one request to the line's home. LCKCAN asks
the home about the fibre's latest request for the line and waits for the answer. ULK of a lock that the fibre holds makes its slot
DONE, and the line is FREE where no request waits, else the lock goes to its first request, where that is present. -/
def Obligations.Locks : Prop :=
  (∀ (o : LckOp) (s : State) (c : Cx) (y : AccX) (k : Nat), Ready s c [sDst o.d, sSrc o.a, sSrc o.b] → c.versioned = false →
    let b := (c.fb.sreg o.b.toNat).toNat
    b / 64 % 4 = 0 → b / 2 ^ 32 = 0 → b % 64 < c.l.kernel.nw → lockAt c .lock (c.fb.sreg o.a.toNat) y →
    c.issued.s.pageAccrues c.w.part none y.x = [] →
    (∀ j < 4, (c.fb.slot j).busy = true → (c.fb.slot j).line ≠ y.x.line) → lowestFree c.fb k → c.fb.slots.length = 4 →
    Gives (exec (.lck o) s) fun t => GoesOn c t o.look.toNat [(.s o.d.toNat, .s (BitVec.ofNat 64 k))] ∧
      FibAt t c.f (fun x => (x.slot k).state = .queued ∧ (x.slot k).weir = b % 64 ∧ (x.slot k).line = y.x.line ∧
        (x.slot k).scope = o.scope ∧ (x.slot k).skips = 0 ∧ ∀ j < 4, j ≠ k → x.slot j = c.fb.slot j) ∧
      t.lockMsgs = s.lockMsgs ++ [⟨false, y.x.line, y.x.grain, c.f, k, .acquired,
        if b / 256 % 2 ^ 24 = 0 then none else some (b / 256 % 2 ^ 24 * 256)⟩] ∧
      t.mem = (lockShared c y).mem ∧ t.lines = (lockShared c y).lines) ∧
  (∀ (o : LckcanOp) (s : State) (c : Cx) (y : AccX) (k : Nat), Ready s c [sDst o.d, sSrc o.a] → c.fb.await = .none →
    lockAt c .unlock (c.fb.sreg o.a.toNat) y → k < 4 → (c.fb.slot k).state ≠ .empty → (c.fb.slot k).line = y.x.line →
    (∀ j < 4, j ≠ k → (c.fb.slot j).state ≠ .empty → (c.fb.slot j).line = y.x.line → (c.fb.slot j).req < (c.fb.slot k).req) →
    ((c.fb.slot k).state = .done → ((c.fb.slot k).status = .timeout ∨ (c.fb.slot k).status = .deadlock) ∨
      exec (.lckcan o) s = .next (trapped c .accstate 0 0)) ∧
    (((c.fb.slot k).state = .done → (c.fb.slot k).status = .timeout ∨ (c.fb.slot k).status = .deadlock) →
      Gives (exec (.lckcan o) s) fun t =>
        FibAt t c.f (fun x => x.st = .interlock ∧ x.await = .lckcan o.d.toNat o.look.toNat k ∧ x.pc = c.fb.pc ∧ x.s = c.fb.s ∧ x.v = c.fb.v) ∧
        t.mem = s.mem ∧ t.lines = s.lines ∧ t.lockMsgs = s.lockMsgs)) ∧
  (∀ (o : SaScope) (s : State) (c : Cx) (y : AccX) (k : Nat), Ready s c [sSrc o.a] → lockAt c .unlock (c.fb.sreg o.a.toNat) y →
    let home := (lockShared c y).line y.x.line 32
    ((∀ j < 4, ¬ holdsLine (c.fb.slot j) y.x.line) → exec (.ulk o) s = .next (trapped c .accstate 0 0)) ∧
    (k < 4 → holdsLine (c.fb.slot k) y.x.line → (∀ j < k, ¬ holdsLine (c.fb.slot j) y.x.line) →
      ((c.fb.slot k).scope ≠ o.scope → exec (.ulk o) s = .next (trapped c .accstate 0 0)) ∧
      ((c.fb.slot k).scope = o.scope → s.writesOut c.f = false → c.fb.slots.length = 4 → home.held = [] →
        Gives (exec (.ulk o) s) fun t => GoesOn c t 0 [] ∧ t.mem = (lockShared c y).mem ∧
          FibAt t c.f (fun x => (x.slot k).state = .done ∧ (x.slot k).line = (c.fb.slot k).line ∧
            (home.queue = [] → ∀ j < 4, j ≠ k → x.slot j = c.fb.slot j)) ∧
          (home.queue = [] → (t.line y.x.line 32).holder = none ∧ (t.line y.x.line 32).queue = [] ∧
            (t.line y.x.line 32).abandoned = false ∧ t.lockMsgs = s.lockMsgs) ∧
          (∀ r ∈ home.queue.head?, s.present r.fib = true →
            (t.line y.x.line 32).holder = some r.fib ∧ (t.line y.x.line 32).queue = home.queue.tail ∧
            (t.line y.x.line 32).dir = .m ∧ t.lockMsgs = s.lockMsgs ++
              [⟨true, y.x.line, home.grain, r.fib, r.slot, .acquired, none⟩]))))

/-- R312, R313, R315, R100: BIND adds one entry to the workgroup's table. UNBIND waits while a write to the region is not performed;
then it removes the entry that begins at Sa and releases the region's writes. Where no entry begins there it traps ACCSTATE. -/
def Obligations.Bindings : Prop :=
  (∀ (i : Instr) (s : State) (c : Cx) (ops : List Opnd) (a b e : Word) (sync : Bool) (w : Option Nat) (obj : BindObj),
    bindForm c i = some (ops, a, b, e, sync, w, obj) → Ready s c ops → Bindable c a b e sync w →
    exec i s = .next (wgChanged c fun g => { g with binds := g.binds ++ [{ base := a, len := b.toNat, obj }] })) ∧
  (∀ (o : SaOp) (s : State) (c : Cx), Ready s c [sSrc o.a] →
    ((∀ x ∈ c.w.binds, x.base ≠ c.fb.sreg o.a.toNat) →
      exec (.unbind o) s = .next (trapped c .accstate (c.fb.sreg o.a.toNat) 0)) ∧
    (∀ b, (c.w.binds.find? fun x => x.base == c.fb.sreg o.a.toNat) = some b →
      (s.regionOut c.f c.fb.wg b = true → exec (.unbind o) s = .next (s.setFib c.f { c.fb with st := .interlock })) ∧
      (s.regionOut c.f c.fb.wg b = false →
        exec (.unbind o) s = .next (c.finish (.ok (c.issued.s.unbindRegion c.fb.wg b))) ∧ Gives (exec (.unbind o) s) fun t =>
          GoesOn c t 0 [] ∧ t.mem = s.mem ∧ t.past = unbound s.past c.fb.wg b ∧
          WgAt t c.fb.wg fun g => g.binds = c.w.binds.filter fun x => x.base != c.fb.sreg o.a.toNat)))

/-- R316, R95: an acquiring FENCE waits only while the latest atomic read at its scope is out. Else FENCE.acq goes on with the writes
that this read acquired visible to the fibre, FENCE.rel marks the fibre's next atomic write at its scope, and FENCE.ar does both and
holds the fibre's later accesses behind its writes that are still out. None changes a byte of memory. -/
def Obligations.Fences : Prop :=
  ∀ (i : Instr) (s : State) (c : Cx) (acq rel : Bool) (scope : Scope), fenceForm i = some (acq, rel, scope) → Ready s c [] →
    let mark := fun f : Fibre => if scope ∉ f.relMark then { f with relMark := scope :: f.relMark } else f
    (acq = true → readOut c scope → exec i s = .next (s.setFib c.f { c.fb with st := .interlock })) ∧
    (acq = false → exec i s = .next (changed c mark)) ∧
    (acq = true → ¬ readOut c scope → Gives (exec i s) fun t => GoesOn c t 0 [] ∧ t.mem = s.mem ∧ t.cmds = s.cmds ∧
      (∀ r ∈ s.past, (∃ x ∈ c.fb.acqIds, x.1 = scope ∧ r.id ∈ x.2) → ∃ q ∈ t.past, q.id = r.id ∧ .fibre c.f ∈ q.vis) ∧
      FibAt t c.f fun x => x.relMark = (if rel then (mark c.fb).relMark else c.fb.relMark) ∧
        x.arHeld = if rel then s.outNames c.f else c.fb.arHeld)

/-- R120, R317, R318, R126, R323: a weir at or beyond NW is WEIRBOUND; WINIT sets EXPA, EXPB and OVTRAP and clears ARR, BYTES, ERR
and OVERRUN; WQRY reads the weir's image or its handle. -/
def Obligations.WeirRegisters : Prop :=
  (∀ (i : Instr) (s : State) (c : Cx) (ops : List Opnd) (w : BitVec 6), weirNamed i = some (ops, w) → Ready s c ops →
    c.l.kernel.nw ≤ w.toNat → exec i s = .next (trapped c .weirbound (w.setWidth 64) 0)) ∧
  (∀ (o : WinitOp) (s : State) (c : Cx), Ready s c [sSrc o.b] → o.w.toNat < c.l.kernel.nw →
    let b := (c.fb.sreg o.b.toNat).toNat
    (2 ^ 49 ≤ b → exec (.winit o) s = .next (trapped c .illegal 0 c.word)) ∧
    (b < 2 ^ 49 → Gives (exec (.winit o) s) fun t => GoesOn c t 0 [] ∧ t.mem = s.mem ∧ t.fibres.map (·.1) = s.fibres.map (·.1) ∧
      WgAt t c.fb.wg fun g => g.weirs = c.w.weirs.set o.w.toNat (armedBy (c.w.weir o.w.toNat) b) ∧ g.binds = c.w.binds)) ∧
  (∀ (i : Instr) (s : State) (c : Cx) (o : WqryOp) (v : Word), queryForm c i = some (o, v) → Ready s c [sDst o.d] →
    o.w.toNat < c.l.kernel.nw → exec i s = .next (wrote c o.look.toNat [(.s o.d.toNat, .s v)]))

/-- R319, R320, R124, R125, R129: WARR applies one count and writes the phase it counts in, and every waiter of a resident gang that
the count releases becomes READY; an excess count under OVTRAP traps. WARR.far issues one command, counted in OCA; in a VERSIONED
workgroup it traps. -/
def Obligations.Arrivals : Prop :=
  (∀ (i : Instr) (s : State) (c : Cx) (ops : List Opnd) (o : WarrOp) (da : Nat), warrForm c i = some (ops, o, da) → Ready s c ops →
    o.w.toNat < c.l.kernel.nw → o.w.toNat < c.w.weirs.length → (c.w.weir o.w.toNat).phase < 65536 → c.w.resident = true →
    let x := c.w.weir o.w.toNat
    (x.ovtrap = true ∧ x.excess da 0 = true → exec i s = .next (trapped c .weirbound (0x8000000000000000 ||| o.w.setWidth 64) 0)) ∧
    (¬ (x.ovtrap = true ∧ x.excess da 0 = true) → s.writesOut c.f = false → Gives (exec i s) fun t =>
      GoesOn c t o.look.toNat [(.s o.d.toNat, .s (BitVec.ofNat 64 x.phase))] ∧ t.mem = s.mem ∧
      WgAt t c.fb.wg (fun g => sameWeir (g.weir o.w.toNat) (countOf x da 0 false) ∧ g.spad = c.w.spad) ∧
      ∀ p ∈ s.fibres, s.fibres.find? p.1 = some p.2 → p.1 ≠ c.f → p.2.wg = c.fb.wg → p.2.st = .waiting →
        (c.w.gangOf p.2.num).isSome = true →
        match p.2.await with
        | .weir a => a.weir = o.w.toNat → ¬ hasReached x.phase a.target → hasReached (countOf x da 0 false).phase a.target →
            FibAt t p.1 fun y => y.st = .ready ∧ y.await = .none
        | _ => True)) ∧
  (∀ (i : Instr) (s : State) (c : Cx) (ops : List Opnd) (h : Word) (da : Nat) (scope : Scope), farForm c i = some (ops, h, da, scope) →
    Ready s c ops →
    (c.versioned = true → exec i s = .next (trapped c .versioned 0 0)) ∧
    (c.versioned = false → s.writesOut c.f = false → Gives (exec i s) fun t => GoesOn c t 0 [] ∧ t.mem = s.mem ∧
      Issued c t c.issued.s .oca [] (.warrFar h da (some (c.issued.relOn scope (farObj c h))))))

/-- R321, R322, R128: WWAIT of a phase already reached completes at once with the weir's PHASE and ERR; else the fibre is
WAITING, with its deadline. -/
def Obligations.WeirWaits : Prop :=
  ∀ (o : WwaitOp) (s : State) (c : Cx), Ready s c [sDst o.d, sSrc o.a, sSrc o.b] → o.w.toNat < c.l.kernel.nw →
    let b := (c.fb.sreg o.b.toNat).toNat
    let p := (c.fb.sreg o.a.toNat).toNat % 65536
    let x := c.w.weir o.w.toNat
    (2 ^ 32 ≤ b → exec (.wwait o) s = .next (trapped c .illegal 0 c.word)) ∧
    (b < 2 ^ 32 → hasReached x.phase p → Gives (exec (.wwait o) s) fun t =>
      GoesOn c t o.look.toNat [(.s o.d.toNat, .s (BitVec.ofNat 64 (x.phase * 65536 + bit x.err * 2)))] ∧ t.mem = s.mem ∧ t.wgs.find? c.fb.wg = (changed c id).wgs.find? c.fb.wg) ∧
    (b < 2 ^ 32 → ¬ hasReached x.phase p → Gives (exec (.wwait o) s) fun t => t.mem = s.mem ∧
      FibAt t c.f fun y => y.st = .waiting ∧ y.pc = c.fb.pc ∧ y.s = c.fb.s ∧ y.v = c.fb.v ∧ y.await = .weir
        { d := o.d.toNat, look := o.look.toNat, weir := o.w.toNat, target := p, scope := o.scope
          deadline := if b = 0 then none else some (s.clk c.w.die + b * 256) })

/-- R324, R325: WAITOC returns at once with n at or above the count and no error to report; it waits while more are
outstanding; and an unreported error of a completed command is the ENGINE trap, which reports it. -/
def Obligations.CounterWaits : Prop :=
  ∀ (o : WaitocOp) (s : State) (c : Cx), Ready s c [] → c.fb.await = .none →
    (s.oc c.f c.fb o.ctr ≤ o.n.toNat → (∀ e ∈ c.fb.errs, e.ctr ≠ o.ctr) →
      Gives (exec (.waitoc o) s) fun t => GoesOn c t 0 [] ∧ t.mem = s.mem ∧ t.cmds = s.cmds ∧ t.wgs = (changed c id).wgs) ∧
    (o.n.toNat < s.oc c.f c.fb o.ctr → o.ctr ≠ .ocf → (s.cmds.map (·.1)).Nodup → Gives (exec (.waitoc o) s) fun t => t.mem = s.mem ∧ t.cmds = s.cmds ∧
      FibAt t c.f fun y => y.st = .interlock ∧ y.pc = c.fb.pc ∧ y.s = c.fb.s ∧ y.v = c.fb.v) ∧
    (∀ e ∈ c.fb.errs, c.fb.errs = [e] → e.ctr = o.ctr → o.ctr ≠ .ocf → s.oc c.f c.fb o.ctr ≤ o.n.toNat →
      (∀ p ∈ s.cmds, p.1 ≠ e.id) → exec (.waitoc o) s = .next ((s.setFib c.f { c.fb with errs := [] }).takeTrap c.f .engine
        (BitVec.ofNat 64 (o.ctr.code.toNat * 2 ^ 61 + e.cause.code * 2 ^ 53 + e.addr.toNat % 2 ^ 53)) 0))

/-- 16 R395, R398, 17 R407, 19 R443, R448, 20 R455, 21 R474, 23 R491, R498, R499: what reset leaves. The values are the
spec's; the cores' logical numbers are the model's (log entry 5). -/
def Obligations.ResetState : Prop :=
  State.reset.part 0 = Part.start true 0xFF 0xFFFF ∧
  (∀ p, p ≠ 0 → (State.reset.part p).valid = false ∧ (State.reset.part p).dies = 0 ∧ (State.reset.part p).scs = 0) ∧
  (∀ p, (State.reset.part p).priven = true ∧ (State.reset.part p).fqsize = 0 ∧ (State.reset.part p).nqsize = 0 ∧
    (State.reset.part p).xroot = 0 ∧ (State.reset.part p).wblim = 0 ∧ (State.reset.part p).rpmask = 0 ∧
    ∀ q, (State.reset.queue p q).en = false ∧ (State.reset.queue p q).inuse = 0 ∧ (State.reset.queue p q).seq = 0) ∧
  (∀ d c, (State.reset.lcore d c).online = false ∧ (State.reset.lcore d c).drain = false ∧ (State.reset.lcore d c).partw = 0x102010) ∧
  (∀ d, (State.reset.die d).cur = 72 ∧ (State.reset.die d).cap = 72 ∧ (State.reset.die d).limit = 80 ∧ (State.reset.die d).bbIdx = 0) ∧
  (∀ k, (State.reset.port k).up = false ∧ (State.reset.rp k).up = false ∧ (State.reset.rp k).cto = 50000) ∧
  State.reset.gtime = 0 ∧ State.reset.boot.memready = false ∧ State.reset.boot.recov = false ∧ State.reset.boot.warm = false ∧
  State.reset.sctLock = false ∧ State.reset.wgs = [] ∧ State.reset.launches = [] ∧ State.reset.fibres = []

/-- Log entry 4: at reset physical memory has its canonical form. -/
def Obligations.ResetMemoryCanonical : Prop := State.reset.Inv

/-- Log entry 4: every step keeps the canonical form of physical memory. -/
def Obligations.StepKeepsMemoryCanonical : Prop := ∀ s t : State, s.Inv → step s = .next t → t.Inv

/-- R216, R210, R37, R217: a step runs the instruction that its words decode to. The first fibre still to issue of the batch, at a
fetched instruction word of its block, with the word after it where LONG is set, runs exec of what they decode to; of a LONG BKPT
the second word is not fetched. A service core that runs executes the levee instruction at its pc, and an event its own row. A
service core that does not run yet is started by its first step, which is the model's choice (log entry 6). -/
def Obligations.StepRunsDecoded : Prop :=
  (∀ (s u t v : State) (f : Nat) (more : List Nat) (fb : Fibre) (w : Wg) (l : Launch) (word : Word), begun s u →
    u.batch.rest = f :: more → Stands { u with batch := { u.batch with rest := more } } f fb w l t → t.fetch w fb.pc = (.word word, v) →
    (∀ d, word.getLsbD 10 = false → decode word 0 = .ok d → noHalt d fb → step s = exec d.i (atIssue v f fb w l word 0)) ∧
    (∀ d, word.getLsbD 10 = true → fb.pc + 8 ≠ fb.blkEnd → (∃ e, decode word 1 = .ok e ∧ e.i = .bkpt) → decode word 0 = .ok d → noHalt d fb →
      step s = exec d.i (atIssue v f fb w l word 0)) ∧
    (∀ d x v', word.getLsbD 10 = true → fb.pc + 8 ≠ fb.blkEnd → (∃ e, decode word 1 = .ok e ∧ e.i ≠ .bkpt) →
      v.fetch w (fb.pc + 8) = (.word x, v') → decode word x = .ok d → noHalt d fb →
      step s = exec d.i (atIssue v' f fb w l word x))) ∧
  (∀ (s u v : State) (n : Nat) (w : BitVec 32) (i : Instr), named s u (.service n) → n < 16 → (u.sc n).await = none →
    ((u.sc n).running = false → step s = .next (u.setSc n { u.sc n with running := true })) ∧
    ((u.sc n).running = true → (u.sc n).irq = none → u.scFetch n = .ok (v, w) → w.toNat % 4 = 3 → decodeLv w = .ok i →
      step s = exec i { v with cur := .service n })) ∧
  (∀ (s u : State) (e : Event), named s u (.event e) → step s = exec (eventInstr e) { u with cur := .event e })

/-- R195 to R215, R389, R390: words that the spec's examples write out, of several families, decode to their instructions; a
header where an instruction is expected, and a word with a bit of an unused field set, decode to none. -/
def Obligations.DecodeWords : Prop :=
  decodeTableWord 64 0x040FFFFC00000040 = some (.b { cond := .ne, off := .short (-4) }) ∧
  decodeTableWord 64 0x0830000600300020 = some (.loop { count := .imm 3 6 }) ∧
  decodeTableWord 64 0x1000605000100101 = some (.sadd { d := 6, a := 5, b := .imm 1, ty := .n64, sf := false, look := 0 }) ∧
  decodeTableWord 128 0x00010000000000001410500000000460 =
    some (.sli { d := 5, imm := .long 0x1000000000000, ty := .i64, sf := false, look := 0 }) ∧
  decodeTableWord 64 0x3000A04050A23960 =
    some (.vfma { d := 10, a := 4, b := .vec 5, c := 10, m := 2, ty := .f32, rnd := .rne, sat := false, look := 3 }) ∧
  decodeTableWord 64 0x54009040A0000004 = some (.vlds { d := 9, a := 4, b := 10, disp := .imm 0, w := .n32, m := 0, look := 0 }) ∧
  decodeTableWord 64 0x64407040A0600004 =
    some (.atlAdd { d := 7, a := 4, b := 10, c := 6, w := .n32, ord := .rlx, scope := .wg, m := 0, look := 0 }) ∧
  decodeTableWord 64 0x7C30706080300000 = some (.wwait { d := 7, a := 6, b := 8, w := 3, scope := .wg, look := 0 }) ∧
  decodeTableWord 64 0x9020506000000204 = some (.dbell { d := 5, a := 6, disp := .imm 0, w := .n32, wg := true, look := 0 }) ∧
  decodeTableWord 32 0x30C5855B = some (.lvNarrow { d := 10, s := 11, t := 12 }) ∧
  decodeTableWord 64 0xFC1000000850A500 = none ∧
  decodeTableWord 64 0x0C00000000000001 = none

/-- R195 to R217, R389, R390: the encoder's words of a well-formed instruction decode to it, whatever word follows a short one;
so no bit of an operand is dropped. -/
def Obligations.DecodeOfEncode : Prop :=
  (∀ (i : Instr) (stop : Bool) (w : Word) (xs : List Word) (x : Word), i.wf = true → encode i stop = some (w :: xs) →
    decode w (xs.headD x) = .ok { i, stop }) ∧
  (∀ (i : Instr) (w : BitVec 32), i.wf = true → encodeLv i = some w → decodeLv w = .ok i)

/-- R197, R199, R216: what decodes is well formed, and but for BKPT (R217) its words are the encoder's, so that one instruction
has one encoding and a bit that must be zero is zero. -/
def Obligations.EncodeOfDecode : Prop :=
  (∀ (w x : Word) (d : Decoded), decode w x = .ok d → d.i.wf = true ∧
    (d.i ≠ .bkpt → encode d.i d.stop = some (w :: if w.getLsbD 10 then [x] else []))) ∧
  (∀ (w : BitVec 32) (i : Instr), decodeLv w = .ok i → i.wf = true ∧ encodeLv i = some w)

/-- R48, R414, R415: a trap stops its fibre with its registers as they were, touches no other fibre and no command, and leaves one
record: in the fault ring where it has room, else the fibre waits for room. -/
def Obligations.TrapEntry : Prop :=
  ∀ (s : State) (c : Cx) (k : Cause) (info word : Word) (more : Nat), s.cx = some c →
    let t := s.takeTrap c.f k info word more
    FibAt t c.f (fun x => x = { c.fb with st := .stopped, await := .none, stop := some (.trap { cause := k, info, upc := c.fb.pc, word, more }) }) ∧
    (∀ h, h ≠ c.f → t.fibres.find? h = s.fibres.find? h) ∧ t.cmds = s.cmds ∧ t.wgs = s.wgs ∧ t.lines = s.lines ∧
    ((s.part c.w.part).pendRecs = [] → (s.part c.w.part).waitFibs = [] →
      (s.faultRoom c.w.part = false → t.mem = s.mem ∧ (t.part c.w.part).waitFibs = [.fibre c.f] ∧ (t.part c.w.part).fqtail = (s.part c.w.part).fqtail) ∧
      (s.faultRoom c.w.part = true → (t.part c.w.part).waitFibs = [] ∧
        (t.part c.w.part).fqtail = ((s.part c.w.part).fqtail + 1) % 2 ^ 32 ∧
        ∃ r, trapRecord s c.w c.l c.fb k info word more r ∧ t.mem = s.mem.putBytes
          ((s.part c.w.part).fqbase.toNat + 64 * ((s.part c.w.part).fqtail % 2 ^ (s.part c.w.part).fqsize.toNat)) r))

/-- R216, R42, R204, R206: an operand beyond the declared counts is REGBOUND before any invalid one is INVREG, and the
information value is that of an operand that fails; with neither, an operand whose result is pending is waited for. Where several
operands fail, which one is reported is left open (log entry 9). -/
def Obligations.OperandChecks : Prop :=
  ∀ (s : State) (c : Cx) (i : Instr) (ops : List Opnd), s.cx = some c → opsOf c i = some ops →
    ((∃ o ∈ ops, o.beyond c.counts = true) → ∃ o ∈ ops, o.beyond c.counts = true ∧
      exec i s = .next (s.takeTrap c.f .regbound (regInfo o.cls false (o.boundIndex c.counts)) 0)) ∧
    ((∀ o ∈ ops, o.beyond c.counts = false) → (∃ o ∈ ops, o.inWindow c.fb = true ∨ o.invalidIn c.fb = true) →
      ∃ o ∈ ops, ∃ n, (o.inWindow c.fb = true ∨ o.invalidIn c.fb = true) ∧
        (if o.cls = .s then o.idx ≤ n ∧ n < o.idx + o.cnt ∧ c.fb.winOf (.s n) ≠ 0 else n = o.idx) ∧
        exec i s = .next (s.takeTrap c.f .invreg (regInfo o.cls (o.inWindow c.fb) n) 0)) ∧
    ((∀ o ∈ ops, o.beyond c.counts = false ∧ o.inWindow c.fb = false ∧ o.invalidIn c.fb = false) →
      (∃ o ∈ ops, ∃ r ∈ o.refs, (c.fb.pendingOn r).isSome = true) →
      (∀ q ∈ c.fb.pend, ∀ a, q.st ≠ .poison a) → exec i s = .next (s.setFib c.f { c.fb with st := .interlock }))

/-- R204, R253: a result of lookahead 0 is in its register after the instruction, one of lookahead n is pending in a window of n;
every other register of the fibre, every other fibre and everything outside the fibres is as it was. -/
def Obligations.ResultsWritten : Prop :=
  (∀ (s : State) (c : Cx) (look : Nat) (dst : List (RegRef × WVal)), s.cx = some c → c.stopSite = false →
    let t := wrote c look dst
    sameOutside s t ∧ (∀ h, h ≠ c.f → t.fibres.find? h = s.fibres.find? h) ∧ GoesOn c t look dst) ∧
  (∀ (x : Fibre) (d n : Nat) (v : Word), (x.putRegs [(.s d, .s v)]).sreg n = if n = d then v else x.sreg n) ∧
  (∀ (x : Fibre) (d n : Nat) (v : Wide), (x.putRegs [(.m d, .m v)]).mreg n = if n = d then v else x.mreg n) ∧
  (∀ (x : Fibre) (d n : Nat) (v : VVal), (x.putRegs [(.v d, .v v)]).v.find? n = if n = d then some v else x.v.find? n)

/-- R333 to R337, R340: FLCOPY whose checks pass issues one copy of the open batch and goes on; with no conflicting range before it
the copy is accepted, and every sector that it writes in its own workgroup is ARRIVING. -/
def Obligations.FlumeCopies : Prop :=
  ∀ (i : Instr) (o : FlcopyOp) (d k : Nat), copyForm i = some (o, d, k) → ∀ (s : State) (c : Cx),
    Ready s c (copyOpnds o k) → CopyFits c o d →
    let x := copyBody c o d
    let u := c.issued.command (c.issued.setF fun f => { f with openN := f.openN + 1 }) .ocf (x.ranges c.w.core) (.flume x) none 0
    exec i s = .next (c.finish (.ok (u.tryAccept s.nextId))) ∧
    (boardFree c → (∀ q ∈ s.cmds, q.1 < s.nextId) → o.mc = false → Gives (exec i s) fun t =>
      GoesOn c t 0 [] ∧ t.mem = s.mem ∧ FibAt t c.f (fun y => y.openN = c.fb.openN + 1 ∧ y.batch = c.fb.batch) ∧
      (∃ q ∈ t.cmds.find? s.nextId, q.fib = some c.f ∧ q.ctr = some .ocf ∧ q.err = none ∧
        q.body = .flume { x with accepted := true }) ∧
      WgAt t c.fb.wg fun g => g.spad = c.w.spad ∧ (o.out = false → ∀ n < x.left.length, g.arriving (x.offset n) 32 = true))

/-- R133, R340, R144: FLSEAL closes the open batch where it holds a copy, and waits where 63 sealed batches have not completed. FLWAIT n
closes it and waits for all but the n newest batches. FLSTAGE issues the entries of the next stage, and does nothing after the last. -/
def Obligations.FlumeBatches : Prop :=
  (∀ (s : State) (c : Cx), Ready s c [] → c.fb.await = .none →
    (c.fb.openN = 0 → exec .flseal s = .next (changed c id)) ∧
    (c.fb.openN ≠ 0 → s.oc c.f c.fb .ocf < 63 →
      exec .flseal s = .next (changed c fun f => { f with batch := c.fb.batch + 1, openN := 0 })) ∧
    (∀ b, c.fb.openN ≠ 0 → 63 ≤ s.oc c.f c.fb .ocf → (s.sealed c.f c.fb).head? = some b →
      exec .flseal s = .next (s.setFib c.f { c.fb with st := .interlock, await := .seal b }))) ∧
  (∀ (o : ImmOp) (s : State) (c : Cx), Ready s c [] → c.fb.await = .none → (c.fb.openN = 0 ∨ s.oc c.f c.fb .ocf < 63) →
    let g : Fibre := if c.fb.openN = 0 then c.fb else { c.fb with batch := c.fb.batch + 1, openN := 0 }
    (s.oc c.f g .ocf ≤ o.n.toNat → (∀ e ∈ c.fb.errs, e.ctr ≠ .ocf) → Gives (exec (.flwait o) s) fun t =>
      GoesOn c t 0 [] ∧ t.mem = s.mem ∧ t.cmds = s.cmds ∧ FibAt t c.f fun x => x.batch = g.batch ∧ x.openN = g.openN) ∧
    (o.n.toNat < s.oc c.f g .ocf → Gives (exec (.flwait o) s) fun t => t.mem = s.mem ∧ t.cmds = s.cmds ∧
      FibAt t c.f fun x => x.st = .interlock ∧ x.pc = c.fb.pc ∧ x.s = c.fb.s ∧ x.v = c.fb.v ∧ x.batch = g.batch ∧ x.openN = g.openN)) ∧
  (∀ (s : State) (c : Cx), Ready s c [] →
    (c.l.nstage ≤ c.w.stage + 1 → exec .flstage s = .next (changed c id)) ∧
    (c.w.stage + 1 < c.l.nstage → exec .flstage s = .next (c.finish (.ok
      ((c.issued.s.modWg c.fb.wg fun w => { w with stage := c.w.stage + 1 }).issueStage c.fb.wg (c.w.stage + 1))))))

/-- R341, R342: GATHER and SCATTER whose checks pass issue one command counted in OCG. -/
def Obligations.GatherScatter : Prop :=
  (∀ (o : SaOp) (s : State) (c : Cx), Ready s c [block o.a 6] → GsFits c o.a →
    exec (.gather o) s = .next (commanded c .ocg ((gsWork c o.a).ranges false) (.gather (gsWork c o.a)))) ∧
  (∀ (o : SaOp) (s : State) (c : Cx), Ready s c [block o.a 6] → GsFits c o.a →
    exec (.scatter o) s = .next (commanded c .ocg ((gsWork c o.a).ranges true) (.scatter (gsWork c o.a))))

/-- R344 to R350, R152: the matrix forms whose checks pass issue one command counted in OCM, bound to the tile that their name is
mapped to; MXSTAT's is not counted, and its fibre waits for it with L = 0. -/
def Obligations.MatrixCommands : Prop :=
  (∀ (o : MxOp) (s : State) (c : Cx), Ready s c (sSrc o.a :: scaleOpnds o.scale ++ [macSrc o.mac]) → c.acquiring = false →
    rowsFit c (regLo c o.a) (regHi c o.a) (mxBytes o.fmt 128) (mxK o.fmt) →
    (∀ b ∈ o.scale, regLo c b % 32 = 0 ∧ fits c (regLo c b) (4 * mxK o.fmt)) →
    exec (.mxloadb o) s = .next (commanded c .ocm (reads (bRegions o.fmt (regLo c o.a) (regHi c o.a) (o.scale.map (regLo c))))
      (.mxload ⟨o.mac.toNat, bit o.bank, o.fmt, regLo c o.a, regHi c o.a, o.scale.map (regLo c), s.clk c.w.die, []⟩))) ∧
  (∀ (o : MxOp) (s : State) (c : Cx), Ready s c (tileSrc o.t :: sSrc o.a :: scaleOpnds o.scale ++ [macSrc o.mac]) →
    c.acquiring = false → rowsFit c (regLo c o.a) (regHi c o.a) (mxBytes o.fmt 256) 16 →
    (∀ b ∈ o.scale, regLo c b % 32 = 0 ∧ fits c (regLo c b) 128) →
    let x := mxRunOf c o.t o.mac o.bank o.fmt 1 (regLo c o.a) (regHi c o.a) (o.scale.map (regLo c))
    exec (.mxmul o) s = .next (commanded c .ocm x.ranges (.mxrun x))) ∧
  (∀ (o : MxloopOp) (s : State) (c : Cx), Ready s c (tileSrc o.t :: block o.a 5 :: regOrLongOpnds o.count ++ [macSrc o.mac]) →
    let n := (regOrImm c o.count).toNat
    let x := mxLoopOf c o n
    (n = 0 ∨ 65535 < n → exec (.mxloop o) s = .next (trapped c .illegal
      (match o.count with | .reg b => BitVec.ofNat 64 b.toNat | .long _ => 0) c.word)) ∧
    (1 ≤ n → n ≤ 65535 → c.acquiring = false → (∀ y ∈ x.checks c.l.kernel.spad, y.bad = false) →
      exec (.mxloop o) s = .next (commanded c .ocm x.ranges (.mxrun x)))) ∧
  (∀ (o : MxdrainOp) (s : State) (c : Cx), Ready s c [tileSrc o.t, sSrc o.a] → c.acquiring = false →
    rowsFit c (regLo c o.a) (regHi c o.a) (16 * o.ty.width) 16 →
    exec (.mxdrain o) s = .next (commanded c .ocm ((rowRegions (regLo c o.a) (regHi c o.a) 16 (16 * o.ty.width)).map fun r => ⟨r.1, r.2, true⟩)
      (.drain ⟨tileOf c o.t, regLo c o.a, regHi c o.a, o.ty, o.rnd, o.sat, c.fb.srs.getD 0 0, none, []⟩)
      fun f => if o.rnd = .rsr then { f with srs := f.srs.put 0 (srsAfter 2048 (c.fb.srs.getD 0 0)) } else f)) ∧
  (∀ (o : MxzeroOp) (s : State) (c : Cx), Ready s c [tileSrc o.t] →
    exec (.mxzero o) s = .next (commanded c .ocm [] (.mxzero (tileOf c o.t)))) ∧
  (∀ (o : MxstatOp) (s : State) (c : Cx), Ready s c [sDst o.d, tileSrc o.t] → c.fb.await = .none →
    Gives (exec (.mxstat o) s) fun t => t.mem = s.mem ∧ Answered c t none o.look.toNat o.d.toNat fun b => b = .mxstat (tileOf c o.t))

/-- R347, R159, R349: MXINIT takes a free tile of zeros at its anchor for its name, REGBOUND where the pool holds none and none
retires; MXSWAP exchanges the tiles of two names. Which free tile is taken is left open (log entry 34). -/
def Obligations.MatrixTiles : Prop :=
  (∀ (o : MxinitOp) (s : State) (c : Cx), Ready s c (regOrLongOpnds o.anchor) →
    let x := (regOrImm c o.anchor).toInt
    let u := match c.fb.tiles.find? o.t.toNat with
      | some p => c.issued.s.leaveTile c.fb.wg p
      | none => c.issued.s
    (x < -512 ∨ 511 < x → exec (.mxinit o) s = .next (trapped c .illegal
      (match o.anchor with | .reg b => BitVec.ofNat 64 b.toNat | .long _ => 0) c.word)) ∧
    (-512 ≤ x → x ≤ 511 → ∀ w ∈ u.wgs.find? c.fb.wg,
      (freeOf w c.l.kernel.nt ≠ [] → Gives (exec (.mxinit o) s) fun t => t.mem = s.mem ∧ t.cmds = s.cmds ∧
        ∃ p ∈ freeOf w c.l.kernel.nt, GoesOn c t 0 [] ∧
          FibAt t c.f (fun y => y.tiles.find? o.t.toNat = some p ∧ ∀ n < 8, n ≠ o.t.toNat → y.tiles.find? n = c.fb.tiles.find? n) ∧
          WgAt t c.fb.wg fun g => g.tiles.find? p = some ⟨.live, x, []⟩) ∧
      (freeOf w c.l.kernel.nt = [] → anyRetiring w c.l.kernel.nt = false →
        exec (.mxinit o) s = .next (trapped c .regbound (0x4000000000000000 ||| o.t.setWidth 64) 0)))) ∧
  (∀ (o : MxswapOp) (s : State) (c : Cx), Ready s c [] → c.fb.tiles.sorted = true → Gives (exec (.mxswap o) s) fun t =>
    GoesOn c t 0 [] ∧ t.mem = s.mem ∧ t.cmds = s.cmds ∧ FibAt t c.f fun y =>
      y.tiles.find? o.t.toNat = c.fb.tiles.find? o.u.toNat ∧ y.tiles.find? o.u.toNat = c.fb.tiles.find? o.t.toNat ∧
      ∀ n < 8, n ≠ o.t.toNat → n ≠ o.u.toNat → y.tiles.find? n = c.fb.tiles.find? n)

/-- R351: MCSR and MCLR whose checks pass issue one command counted in OCC through the window of their pages; the status sector, and
the output of an MCLR, are ARRIVING. -/
def Obligations.Collectives : Prop :=
  ∀ (i : Instr) (o : McOp) (mclr : Bool), collForm i = some (o, mclr) → ∀ (s : State) (c : Cx) (l : List Xl) (k : Nat),
    Ready s c [block o.a 3] → CollFits c o (collWork c o mclr) →
    c.issued.collPages (collWork c o mclr)
      (pageStarts ((collWork c o mclr).windowBytes / 8192 + 2) (collWork c o mclr).addr (collWork c o mclr).windowBytes) none [] = .ok (l, k) →
    Gives (exec i s) fun t => GoesOn c t 0 [] ∧
      (∃ q ∈ t.cmds.find? s.nextId, q.fib = some c.f ∧ q.ctr = some .occ ∧ q.err = none ∧
        q.body = .coll { collWork c o mclr with pa := (l.map Xl.pa).headD 0, window := k, group := (s.window k).group }) ∧
      WgAt t c.fb.wg fun g => g.spad = c.w.spad ∧ g.arriving (collWork c o mclr).stoff 32 = true ∧
        (mclr = true → ∀ n < (collWork c o mclr).outBytes / 32, g.arriving ((collWork c o mclr).spoff + 32 * n) 32 = true)

/-- R357, R358: IOST and DBELL whose checks pass issue one command counted in OCI; IOLD's leaves at once where no I/O command of the
fibre is before it, and its fibre waits for it with L = 0. A DBELL that names no sluice is PERM. -/
def Obligations.IoCommands : Prop :=
  (∀ (o : IoOp) (s : State) (c : Cx) (x : Xl), Ready s c [sSrc o.d, sSrc o.a] → IoOpen c o true x →
    exec (.iost o) s = .next (c.finish (.ok
      (c.issued.command (c.issued.ioTouched x) .oci [] (.io (ioWork c o .store x [] c.fb.sysIds)) none 0)))) ∧
  (∀ (o : IoOp) (s : State) (c : Cx) (x : Xl), Ready s c [sSrc o.d, sSrc o.a] → IoOpen c o true x →
    (s.sluiceAt c.w.part x.pa o.w.bytes = none → exec (.dbell o) s = .next (trapped c .perm x.va 0)) ∧
    (∀ e ∈ s.sluiceAt c.w.part x.pa o.w.bytes, exec (.dbell o) s = .next (c.finish (.ok
      (c.issued.command (c.issued.ioTouched x) .oci [] (.io (ioWork c o (.bell o.wg) x
        (c.issued.s.bellHolds c.f c.fb.wg o.wg e) (c.issued.s.bellShows c.f c.fb.wg o.wg e))) none 0))))) ∧
  (∀ (o : IoOp) (s : State) (c : Cx) (x : Xl), Ready s c [sDst o.d, sSrc o.a] → IoOpen c o false x → c.fb.await = .none →
    (∀ q ∈ s.cmds, q.2.fib ≠ some c.f) → (∀ q ∈ s.cmds, q.1 < s.nextId) → Gives (exec (.iold o) s) fun t =>
      Answered c t (some .oci) o.look.toNat o.d.toNat (fun b => b = .io { ioWork c o (.load o.w.signed) x [] [] with sent := true }) ∧
      t.out = s.out ++ [.ioRead s.nextId x.pa o.w.bytes] ∧ t.mem = (c.issued.ioTouched x).mem)

/-- R386 to R388, R390 to R392: the levee instructions. A derivation whose check fails takes the levee fault with its code and writes
nothing, else rd receives the derived levee; an untagged rs1 is not checked. LV.LD reads a granule with its tag. LV.ST of an untagged
register clears the granule's tag, and of a tagged one sets it where the granule holds the register's bytes: a store to a NARROW page may
round them, and such a granule keeps no tag, which is the model's choice (log entry 109). -/
def Obligations.Levees : Prop :=
  (∀ (o : Lv3Op) (s : State) (n : Nat) (a b : LevFields), LvAt s n o.s o.t a b →
    (a.tag = true → a.lock ≠ 0 → LvFaults (exec (.lvMove o) s) s n a 2 ∧ LvFaults (exec (.lvStep o) s) s n a 2 ∧
      LvFaults (exec (.lvDrop o) s) s n a 2 ∧ LvFaults (exec (.lvNarrow o) s) s n a 2 ∧ LvFaults (exec (.lvNarrowx o) s) s n a 2 ∧
      LvFaults (exec (.lvLock o) s) s n a 2) ∧
    ((a.tag = true → a.lock = 0) → LvGives (exec (.lvMove o) s) s n o.d (a.moved b.cur) ∧
      LvGives (exec (.lvStep o) s) s n o.d (a.moved ((a.cur + b.cur) % 2 ^ 64)) ∧
      LvGives (exec (.lvDrop o) s) s n o.d { a with rights := a.rights - (a.rights &&& (b.cur % 256)) })) ∧
  (∀ (o : Lv3Op) (s : State) (n g : Nat) (a b : LevFields), LvAt s n o.s o.t a b → grainFor a b.cur g → (a.tag = true → a.lock = 0) →
    (a.tag = true → ¬ narrowFits a b.cur g → LvFaults (exec (.lvNarrow o) s) s n a 7 ∧ LvFaults (exec (.lvNarrowx o) s) s n a 7) ∧
    ((a.tag = true → narrowFits a b.cur g) → LvGives (exec (.lvNarrow o) s) s n o.d (a.narrowedAt b.cur g) ∧
      LvGives (exec (.lvNarrowx o) s) s n o.d { a.narrowedAt b.cur g with
        tag := a.tag && decide ((a.narrowedAt b.cur g).lo = (a.cur : Int)) && decide ((a.narrowedAt b.cur g).hi = (a.cur + b.cur : Nat)) })) ∧
  (∀ (o : Lv3Op) (s : State) (n : Nat) (a b : LevFields), LvAt s n o.s o.t a b →
    (a.tag = true → a.lock = 0 → (¬ keyServes b b.cur ∨ b.cur < 1 ∨ 4095 < b.cur) → LvFaults (exec (.lvLock o) s) s n a 8) ∧
    ((a.tag = true → a.lock = 0 ∧ keyServes b b.cur ∧ 1 ≤ b.cur ∧ b.cur ≤ 4095) →
      LvGives (exec (.lvLock o) s) s n o.d { a with lock := b.cur % 4096 }) ∧
    (a.tag = true → (a.lock = 0 ∨ ¬ keyServes b b.cur ∨ b.cur ≠ a.lock) → LvFaults (exec (.lvOpen o) s) s n a 8) ∧
    ((a.tag = true → a.lock ≠ 0 ∧ keyServes b b.cur ∧ b.cur = a.lock) → LvGives (exec (.lvOpen o) s) s n o.d { a with lock := 0 })) ∧
  (∀ (o : LvInfoOp) (s : State) (n : Nat) (a : LevFields), LvAt s n o.s o.s a a → o.sel.toNat < 6 →
    exec (.lvInfo o) s = .next (s.setSc n (((s.sc n).setReg o.d ⟨(BitVec.ofInt 64 (infoOf a o.sel.toNat)).setWidth 128, false⟩).step 4))) ∧
  (∀ (o : Lv2Op) (s : State) (n : Nat) (a : LevFields), LvAt s n o.s o.s a a →
    LvGives (exec (.lvUntag o) s) s n o.d { a with tag := false }) ∧
  (∀ (o : Lv3Op) (s : State) (n : Nat), s.cur = .service n →
    exec (.lvSame o) s = .next (s.setSc n (((s.sc n).setReg o.d
      ⟨if (s.sc n).reg o.s = (s.sc n).reg o.t then 1 else 0, false⟩).step 4))) ∧
  (∀ (o : LvLdOp) (s : State) (n pa : Nat) (x : Option Xl), s.cur = .service n →
    let lv := (s.sc n).reg o.s
    let va := BitVec.ofNat 64 lv.cur + o.imm.signExtend 64
    (∀ k ∈ s.leveeCheck n lv rRD va 16, exec (.lvLd o) s = .next (s.scTrap n 28 va (some k))) ∧
    (s.leveeCheck n lv rRD va 16 = none → va.toNat % 16 ≠ 0 → exec (.lvLd o) s = .next (s.scTrap n 28 va (some 5))) ∧
    (s.leveeCheck n lv rRD va 16 = none → va.toNat % 16 = 0 → s.scAddr n lv .load va 16 = .mem pa x → ∀ (u : State) (l : List Byte),
      s.scRead n lv .load true va 16 = .done u l → ((s.sc n).translates .load = false → u = s ∧ l = s.mem.bytes pa 16) ∧
        exec (.lvLd o) s = .next (u.setSc n (((u.sc n).setReg o.d ⟨BitVec.ofNat 128 (leNat l),
          lv.has rLVR && s.tagAt ((s.scPart n).getD 0) pa⟩).step 4)))) ∧
  (∀ (o : LvStOp) (s : State) (n pa : Nat) (x : Option Xl), s.cur = .service n →
    let lv := (s.sc n).reg o.s
    let y := (s.sc n).reg o.t
    let va := BitVec.ofNat 64 lv.cur + o.imm.signExtend 64
    let need := if y.tag = true then rWR + rLVW else rWR
    (∀ k ∈ s.leveeCheck n lv need va 16, exec (.lvSt o) s = .next (s.scTrap n 28 va (some k))) ∧
    (s.leveeCheck n lv need va 16 = none → va.toNat % 16 ≠ 0 → exec (.lvSt o) s = .next (s.scTrap n 28 va (some 5))) ∧
    (s.leveeCheck n lv need va 16 = none → va.toNat % 16 = 0 → s.scAddr n lv .store va 16 = .mem pa x →
      (y.tag = true → s.inTagged ((s.scPart n).getD 0) pa = false → exec (.lvSt o) s = .next (s.scTrap n 28 va (some 6))) ∧
      ((y.tag = true → s.inTagged ((s.scPart n).getD 0) pa = true ∧ ∀ l ∈ s.lines, l.2.locked = false) → ∀ (u : State) (l : List Byte),
        s.scWrite n lv false false va (toLe y.val.toNat 16) = .done u l →
        ((s.sc n).translates .store = false → s.lines = [] → pa % 32 ≤ 16 → u.mem = s.mem.putBytes pa (toLe y.val.toNat 16)) ∧
        Gives (exec (.lvSt o) s) fun t => t.mem = u.mem ∧ t.scs = s.scs.put n ((s.sc n).step 4) ∧
          t.tags = if y.tag = true ∧ u.mem.bytes pa 16 = toLe y.val.toNat 16 then insertTag u.tags (pa / 16) else u.tags))) ∧
  (∀ (s : State) (n k : Nat) (va : Word), ((s.scTrap n 28 va (some k)).sc n).lvcause = BitVec.ofNat 64 k ∧
    ((s.scTrap n 28 va (some k)).sc n).x = (s.sc n).x ∧ (∀ m, m ≠ n → (s.scTrap n 28 va (some k)).scs.find? m = s.scs.find? m) ∧
    (s.scTrap n 28 va (some k)).mem = s.mem ∧
    ((s.sc n).medeleg.getLsbD 28 = true → (s.sc n).mode ≠ .machine →
      ((s.scTrap n 28 va (some k)).sc n).stval = va ∧ ((s.scTrap n 28 va (some k)).sc n).scause = 28 ∧
      ((s.scTrap n 28 va (some k)).sc n).sepc = (s.sc n).pc ∧ ((s.scTrap n 28 va (some k)).sc n).pc = (s.sc n).stvec) ∧
    ((s.sc n).medeleg.getLsbD 28 = false ∨ (s.sc n).mode = .machine →
      ((s.scTrap n 28 va (some k)).sc n).mtval = va ∧ ((s.scTrap n 28 va (some k)).sc n).mcause = 28 ∧
      ((s.scTrap n 28 va (some k)).sc n).mepc = (s.sc n).pc ∧ ((s.scTrap n 28 va (some k)).sc n).pc = (s.sc n).mtvec ∧
      ((s.scTrap n 28 va (some k)).sc n).mode = .machine))

/-- R38, R50, R51, R122, R204, R246, R250, R321, R412, R422: the events of fibres. HOLD_TIMEOUT ends a hold 256 cycles old;
PENDING_RESULT_WRITE writes a result; LAUNCH_ANSWER gives Sd the code; WWAIT_TIMEOUT, once the deadline's cycle has passed, completes the
wait with TO, or recalls a saved gang; UPCALL_POST adds an upcall, or refuses it with a notification; UPCALL_REFLECT starts the handler
with the trap; TRAP_RESUME lets a stopped fibre go on; WARR_FAR_ARRIVAL counts, refuses or sends on an arrival by handle. A resumption or
reflection in a VERSIONED workgroup flushes it. That a sending to another chip and its answer are one step is the model's choice (log
entry 102). -/
def Obligations.FibreEvents : Prop :=
  (∀ (s : State) (f t : Nat) (fb : Fibre) (w : Wg), s.cur = .event (.holdTimeout f) → s.fibres.find? f = some fb →
    s.wgs.find? fb.wg = some w → (w.gangOf fb.num).isSome = true → fb.st = .held → fb.heldAt = some t →
    (256 ≤ since' (s.clk w.die) t → exec .holdTimeout s = .next (s.setFib f (readyAgain s w { fb with target := none, heldAt := none }))) ∧
    (since' (s.clk w.die) t < 256 → exec .holdTimeout s = .next s)) ∧
  (∀ (s : State) (f id : Nat) (fb : Fibre) (p : Pend), s.cur = .event (.pendingResultWrite f id) → s.fibres.find? f = some fb →
    (fb.pend.find? fun q => q.id == id) = some p → p.st = .ready → p.left = 0 →
    exec .pendingResultWrite s = .next (s.setFib f { fb.putRegs p.dst with pend := fb.pend.filter fun q => q.id != id })) ∧
  (∀ (s : State) (f d code : Nat) (fb : Fibre) (w : Wg), s.cur = .event (.launchAnswer f) → s.fibres.find? f = some fb →
    s.wgs.find? fb.wg = some w → fb.await = .launch d code →
    exec .launchAnswer s = .next (s.setFib f
      (readyAgain s w (Fibre.advance { fb with await := .none, s := fb.s.put d (BitVec.ofNat 64 code) } 8)))) ∧
  (∀ (s : State) (f t : Nat) (fb : Fibre) (w : Wg) (x : WaitRec), s.cur = .event (.wwaitTimeout f) → s.fibres.find? f = some fb →
    s.wgs.find? fb.wg = some w → fb.await = .weir x → x.deadline = some t → fb.st = .waiting →
    let v : Word := BitVec.ofNat 64 ((w.weir x.weir).phase * 65536 + bit (w.weir x.weir).err * 2 + 1)
    (s.clk w.die ≤ t → exec .wwaitTimeout s = .next s) ∧
    (t < s.clk w.die → (w.gangOf fb.num).isSome = true → x.look = 0 → exec .wwaitTimeout s = .next (s.setFib f
      (readyAgain s w ((Fibre.advance { fb with await := .none } 8).putReg (.s x.d) (.s v))))) ∧
    (t < s.clk w.die → (w.gangOf fb.num).isSome = true → x.look ≠ 0 → Gives (exec .wwaitTimeout s) fun u => u.mem = s.mem ∧ u.wgs = s.wgs ∧
      FibAt u f fun y => y.st = .ready ∧ y.await = .none ∧ y.pc = (fb.advance 8).pc ∧ y.s = fb.s ∧ y.v = fb.v ∧
        y.pend = fb.pend ++ [⟨s.nextId, [(.s x.d, .s v)], 0, .ready⟩]) ∧
    (t < s.clk w.die → (w.gangOf fb.num).isNone = true → (∃ y ∈ w.weirs, ∃ r ∈ y.wakes, r.gang = w.gangIx fb.num) →
      Gives (exec .wwaitTimeout s) fun t => t.fibres = s.fibres ∧ t.mem = s.mem ∧ WgAt t fb.wg fun g =>
        (∃ r ∈ g.recalled, r.1 = w.gangIx fb.num) ∧ ∀ y ∈ g.weirs, ∀ r ∈ y.wakes, r.gang ≠ w.gangIx fb.num)) ∧
  (∀ (s : State) (f code : Nat) (arg : Word) (fb : Fibre) (w : Wg) (l : Launch), s.cur = .event (.upcallPost f code arg) →
    s.fibres.find? f = some fb → s.wgs.find? fb.wg = some w → s.launchOf w = some l →
    let y := { fb with upcalls := fb.upcalls ++ [{ code := 0x100 + code, arg }] }
    (fb.st = .ended ∨ 256 ≤ code → exec .upcallPost s = .next s) ∧
    (fb.st ≠ .ended → code < 256 → (l.field 0x60 8 = 0 ∨ 4 ≤ fb.upcalls.length) →
      exec .upcallPost s = .next (s.notify w.part 0x05 l.ident (BitVec.ofNat 64 code))) ∧
    (fb.st ≠ .ended → code < 256 → l.field 0x60 8 ≠ 0 → fb.upcalls.length < 4 →
      ((w.gangOf fb.num).isSome = true → exec .upcallPost s = .next (s.setFib f y)) ∧
      Gives (exec .upcallPost s) fun t => t.fibres = s.fibres.put f y ∧ t.wgs = s.wgs ∧ t.cmds = s.cmds)) ∧
  (∀ (s : State) (f : Nat) (fb : Fibre) (t : TrapRec) (w : Wg) (l : Launch), s.cur = .event (.upcallReflect f) → Trapped s f fb t w l →
    (l.field 0x60 8 = 0 ∨ fb.handler = true → exec .upcallReflect s = .next s) ∧
    (l.field 0x60 8 ≠ 0 → fb.handler = false → l.flag 2 = true → s.acrOut fb.wg = false →
      exec .upcallReflect s = .next ((s.flushWg fb.wg w l).notify w.part 0x03 l.ident (BitVec.ofNat 64 w.index))) ∧
    (l.field 0x60 8 ≠ 0 → fb.handler = false → l.flag 2 = false → fb.pend = [] →
      exec .upcallReflect s = .next (s.setFib f (readyAgain s w
        { fb with wins := [], pc := BitVec.ofNat 64 (l.field 0x60 8), blkEnd := BitVec.ofNat 64 (l.field 0x60 8), handler := true
                  ucause := BitVec.ofNat 64 t.cause.code, upc := t.upc, uinfo := t.info, stop := none })))) ∧
  (∀ (s : State) (f : Nat) (how : ResumeAt) (fb : Fibre) (t : TrapRec) (w : Wg) (l : Launch), s.cur = .event (.trapResume f how) →
    Trapped s f fb t w l →
    (how = .same → t.cause ≠ .trapi → exec .trapResume s = .next (s.setFib f (readyAgain s w { fb with stop := none }))) ∧
    (how = .next → t.cause = .trapi → t.info ≠ 0x100 → l.flag 2 = false →
      exec .trapResume s = .next (s.setFib f (readyAgain s w (Fibre.advance { fb with stop := none } (s.trapLen w t))))) ∧
    (∀ a, how = .header a → t.cause = .trapi → l.flag 2 = false →
      exec .trapResume s = .next (s.setFib f (readyAgain s w { fb with
        stop := none, pc := a, blkEnd := a, loops := fb.loops.dropWhile fun e => !(e.start.toNat ≤ a.toNat && a.toNat ≤ e.last.toNat) }))) ∧
    (how ≠ .same → t.cause = .trapi → (how = .next → t.info ≠ 0x100) → l.flag 2 = true → s.acrOut fb.wg = false →
      exec .trapResume s = .next ((s.flushWg fb.wg w l).notify w.part 0x03 l.ident (BitVec.ofNat 64 w.index)))) ∧
  (∀ (s : State) (cmd da : Nat) (h : Word) (rel : Option Rel) (refused : Bool) (e : EngCx),
    s.cur = .event (.warrFarArrival (.own cmd refused)) → s.engCx cmd = some e → e.c.body = .warrFar h da rel →
    let failed := e.c.failing .engine (BitVec.ofNat 64 (Config.farAddr h.toNat))
    ((h.extractLsb' 38 10).toNat ≠ s.chip →
      exec .warrFarArrival s = .next (State.completeCmd (s.send (.farArrival h da false false)) cmd (if refused then failed else e.c))) ∧
    ((h.extractLsb' 38 10).toNat = s.chip → s.ofHandle e.w.part h = none → exec .warrFarArrival s = .next (s.completeCmd cmd failed)) ∧
    (∀ id i g, (h.extractLsb' 38 10).toNat = s.chip → s.ofHandle e.w.part h = some (id, i) → s.wgs.find? id = some g →
      ((g.weir i).ovtrap = true ∧ (g.weir i).excess da 0 = true → exec .warrFarArrival s = .next (s.completeCmd cmd failed)) ∧
      ((g.weir i).ovtrap = false ∨ (g.weir i).excess da 0 = false →
        exec .warrFarArrival s = .next ((s.countWeir id i da 0 false rel).completeCmd cmd e.c)))) ∧
  (∀ (s : State) (chip p da : Nat) (sc : Scope) (h : Word) (e done : Bool),
    s.cur = .event (.warrFarArrival (.peer chip p sc h da e done)) → chip ≠ s.chip → (h.extractLsb' 38 10).toNat = s.chip →
    (s.ofHandle p h = none → exec .warrFarArrival s = .next (s.send (.farAnswer chip h true))) ∧
    (∀ id i g, s.ofHandle p h = some (id, i) → s.wgs.find? id = some g →
      (done = false ∧ (g.weir i).ovtrap = true ∧ (g.weir i).excess da 0 = true →
        exec .warrFarArrival s = .next (s.send (.farAnswer chip h true))) ∧
      (done = true ∨ (g.weir i).ovtrap = false ∨ (g.weir i).excess da 0 = false →
        ∃ r, exec .warrFarArrival s = .next ((s.countWeir id i da 0 e r).send (.farAnswer chip h false))))) ∧
  (∀ (s : State) (p : Nat) (h ident : Word), p < 8 → s.cur = .event (.warrFarArrival (.doneAnswer p h ident true)) →
    exec .warrFarArrival s = .next (s.notify p 0x01 h ident))

/-- R33, R36, R402 to R404, R408, R410, R411: the events of workgroups. WORKGROUP_END frees a workgroup whose fibres and commands have
ended; FURROW_PLACE starts the next workgroup of a furrow on the lowest core with room; DIE_SHARE_START starts a multicast die share
together; WORK_STEAL gives half of a sibling's units; FURROW_PREEMPT carries out the choice for a single victim, or for two of which the
first drains (a drain frees nothing, so it never stands alone); GANG_SWAP_OUT takes a gang off its core; RESTORE brings recalled gangs
back. -/
def Obligations.WorkgroupEvents : Prop :=
  (∀ (s : State) (id : Nat) (w : Wg) (l : Launch), s.cur = .event (.workgroupEnd id) → s.wgs.find? id = some w → s.launchOf w = some l →
    s.fibresOf id = [] → (∀ p ∈ s.cmds, p.2.wg ≠ id) → (∀ x ∈ s.lines, x.2.held = []) → s.unreported id = [] → w.version = none →
    (l.ended.length + 1 ≠ l.total → Gives (exec .workgroupEnd s) fun t =>
      t.wgs = s.wgs.del id ∧ (∀ p ∈ t.fibres, p.2.wg ≠ id) ∧ t.mem = s.mem ∧
      t.launches.find? w.launch = some { l with ended := l.ended ++ [w.index], ends := l.ends ++ s.endIds id }) ∧
    (l.ended.length + 1 = l.total → l.field 0x78 8 = 0 → Gives (exec .workgroupEnd s) fun t =>
      t.wgs = s.wgs.del id ∧ (∀ p ∈ t.fibres, p.2.wg ≠ id) ∧ t.mem = s.mem ∧ t.launches = s.launches.del w.launch)) ∧
  (∀ (s : State) (n : Nat) (pl : Placement) (l : Launch), s.cur = .event (.furrowPlace n pl) → s.launches.find? n = some l →
    s.pendingAt l pl.die (clusOf pl.core) = some pl.index → pl.die ∈ s.diesOf l.part →
    ((coresOf (clusOf pl.core)).find? fun k => s.placeable n l pl.index pl.die k []) = some pl.core →
    s.recallFirst l pl.die (clusOf pl.core) = false → s.outranked n l pl.die (clusOf pl.core) = false →
    (pl.index ∈ l.again → s.unsettledFlush = false) → s.placementOk l pl = true →
    exec .furrowPlace s = .next (s.startWg n l pl)) ∧
  (∀ (s : State) (n : Nat) (l : Launch) (pl : Placement), l.sched = [] → Gives (.next (s.startWg n l pl)) fun t =>
    t.mem = s.mem ∧
    WgAt t s.nextId (fun g => g.launch = n ∧ g.index = pl.index ∧ g.part = l.part ∧ g.die = pl.die ∧ g.core = pl.core ∧
      g.width = 2 ^ l.width 0 ∧ g.nfib = l.count 1 ∧ g.gangs = pl.gangs.map some ∧ g.weirs = List.replicate l.kernel.nw Weir.start ∧
      g.gen = ((s.lcore pl.die pl.core).starts + 1) % 65536) ∧
    ∀ i < l.count 1, FibAt t (s.nextId + 1 + i) fun y => y.wg = s.nextId ∧ y.num = i ∧ y.pc = l.kernel.entry ∧ y.blkEnd = l.kernel.entry ∧
      y.st = .ready ∧ y.sreg 0 = BitVec.ofNat 64 (l.field 0x48 8) ∧
      y.sreg 1 = BitVec.ofNat 64 (pl.index * 2 ^ l.shift 2 + i * 2 ^ l.width 0) ∧ y.sreg 62 = BitVec.ofNat 64 (l.field 0x50 4) ∧
      y.mreg 0 = BitVec.ofNat 128 (2 ^ 2 ^ l.width 0 - 1) ∧ y.loops = [] ∧ y.target = none ∧ ∀ k < 4, (y.slot k).busy = false) ∧
  (∀ (s : State) (n f4 : Nat) (pls : List Placement) (l : Launch), s.cur = .event (.dieShareStart n f4 pls) → s.launches.find? n = some l →
    s.shareReady n l f4 = true → s.shareDie l f4 ∈ s.diesOf l.part →
    (pls.map fun p => (p.index, p.core)) = ((List.range (l.count 3)).flatMap fun f3 =>
      (s.teamCores n l (s.shareDie l f4) f4 f3).mapIdx fun f2 k => (l.indexOf f2 f3 f4, k)) →
    (∀ p ∈ pls, p.die = s.shareDie l f4 ∧ s.placementOk l p = true) →
    (∀ c < l.count 3, s.recallFirst l (s.shareDie l f4) c = false ∧ s.outranked n l (s.shareDie l f4) c = false) →
    exec .dieShareStart s = .next (State.unfree (pls.foldl (fun s p => match s.launches.find? n with
      | some l => s.startWg n l p
      | none => s) s) n (s.shareDie l f4) f4)) ∧
  (∀ (s : State) (n d : Nat) (clus : Option Nat) (l : Launch), s.cur = .event (.workSteal n d clus) → s.launches.find? n = some l →
    s.served l = true → l.flag 0 = false → d ∈ s.diesOf l.part →
    (clus = none → (∀ c < 6, s.nextAt l d c = none) → exec .workSteal s = .next { s with launches := s.launches.put n (l.takeShares d
      (upperHalf (mostUnits (((s.diesOf l.part).filter (· != d)).map fun x => (x, s.freshShares l x))))) }) ∧
    (∀ c < 6, clus = some c → l.kernel.mcast = false → s.nextAt l d c = none →
      exec .workSteal s = .next { s with
        launches := s.launches.put n { l with teamOf := List.foldl (fun t x => t.put (x.1 * l.count 3 + x.2) c) l.teamOf (upperHalf (mostUnits (((List.range 6).filter (· != c)).map fun x => (x, s.freshTeams l d x)))) } })) ∧
  (∀ (s : State) (n index d c k : Nat) (l : Launch) (x : Wanted) (v : Victim) (w : Wg) (y : Launch),
    s.cur = .event (.furrowPreempt n index d c) → s.launches.find? n = some l → s.wanted n l index d c = some x →
    s.hasRoom x d s.leaving = false → s.prefixOf x d s.leaving = some (k, [v]) → s.wgs.find? v.id = some w → s.launchOf w = some y →
    let held := fun u : State => if l.kernel.mcast = true ∧ x.shared = true then
        u.setLcore d k { u.lcore d k with freedFor := some (n, l.fieldOf index 4) } else u
    (v.act = .flush → s.acrOut v.id = false → exec .furrowPreempt s = .next (held (s.flushWg v.id w y))) ∧
    (v.act = .save → exec .furrowPreempt s = .next (held (s.setWg v.id { w with saving := w.residentIx v.id [] }))) ∧
    (∀ i, v.act = .swap i → i ∉ w.saving →
      exec .furrowPreempt s = .next (held (s.setWg v.id { w with saving := w.saving ++ [i] })))) ∧
  (∀ (s : State) (n index d c k : Nat) (l : Launch) (x : Wanted) (v z : Victim) (w g : Wg) (y h : Launch),
    s.cur = .event (.furrowPreempt n index d c) → s.launches.find? n = some l → s.wanted n l index d c = some x →
    s.hasRoom x d s.leaving = false → s.prefixOf x d s.leaving = some (k, [v, z]) → v.id ≠ z.id → l.kernel.mcast = false →
    s.wgs.find? v.id = some w → s.launchOf w = some y → s.wgs.find? z.id = some g → s.launchOf g = some h → v.act = .drain → z.act = .save →
    exec .furrowPreempt s = .next ((s.setWg v.id { w with drainBar := some (max (s.prio l) (w.drainBar.getD 0)) }).setWg z.id
      { g with saving := g.residentIx z.id [] })) ∧
  (∀ (s : State) (id i : Nat) (w : Wg) (l : Launch), s.cur = .event (.gangSwapOut id i) → s.wgs.find? id = some w → s.launchOf w = some l →
    i ∈ w.saving → (w.gangs.getD i none).isSome = true → s.gangQuiet id w i = true →
    exec .gangSwapOut s = .next (s.saveGang id w l i) ∧
    WgAt (s.saveGang id w l i) id fun g => g.gangs = w.gangs.set i none ∧ g.saving = w.saving.filter (· != i) ∧ g.spad = w.spad) ∧
  (∀ (s : State) (id core : Nat) (gs : List (Nat × Nat)) (tiles : List Nat) (w : Wg) (l : Launch),
    s.cur = .event (.restore id core gs tiles) → s.wgs.find? id = some w → s.launchOf w = some l → gs ≠ [] → (gs.map (·.1)).Nodup →
    (∀ g ∈ gs, ∃ r ∈ w.recalled, r.1 = g.1) → clusOf core = clusOf w.core →
    s.restorable w gs.length core = true → s.higherPending l w.die (clusOf w.core) = false →
    (∀ r ∈ s.recalls w.die (clusOf w.core), r.1 = id ∧ r.2.2.1 ∈ gs.map (·.1)) →
    picks (gs.map (·.2)) gs.length 64 (s.gangsOn w.die core) = true →
    (w.resident = false → picks tiles l.kernel.nt (2 * (l.field 0x10 4 / 65536 % 256)) (s.tilesOn w.die core) = true) →
    exec .restore s = .next (s.restoreGangs id w l core gs tiles) ∧
    WgAt (s.restoreGangs id w l core gs tiles) id fun g => g.core = core ∧
      g.gangs = gs.foldl (fun t x => t.set x.1 (some x.2)) w.gangs ∧ ∀ r ∈ g.recalled, r.1 ∉ gs.map (·.1))

/-- R388, R393, R399, R407, R410, R414, R423, R426, R434, R435, R438, R443 to R445, R448, R455, R462, R466, R482, R485, R491, R493, R498:
a store to a control register or to the group table (the events LQPOST_WRITE, FQHEAD_WRITE, LGROW_WRITE, the XRESUME, XINV, MIGCMD,
NPCTL, NWCTL, HOTRST, PRG_RESPONSE, SLTSYNC, SYSPOST, DICINV, TGCTL, RSTCMD, FW, DSPARE, PARTITION_TABLE, PCMD and DBG rows,
CONTROL_REGISTER_WRITE, GCTL_WRITE and GROUP_ABSENT_CLEAR) that its checks let through passes the store and has the register's effect;
a levee check that fails is the levee fault with its code, and a register out of reach or misaligned an access fault. -/
def Obligations.RegisterStores : Prop :=
  (∀ (e : Event) (i : Instr) (by' : CtlBy) (addr p : Nat) (g : Nat → State → State) (s : State), s.cur = .event e →
    regStore s e = some (i, by', addr, g) → CtlOpen s by' addr p → exec i s = .next (g p (stored s by'))) ∧
  (∀ (e : Event) (i : Instr) (by' : CtlBy) (addr k : Nat) (g : Nat → State → State) (s : State), s.cur = .event e →
    regStore s e = some (i, by', addr, g) → (s.sc by'.sc).running = true → (s.sc by'.sc).await = none →
    s.leveeCheck by'.sc ((s.sc by'.sc).reg by'.base) rWR by'.va 8 = some k →
    exec i s = .next (s.scTrap by'.sc 28 by'.va (some k))) ∧
  (∀ (e : Event) (i : Instr) (by' : CtlBy) (addr at' p : Nat) (g : Nat → State → State) (s : State), s.cur = .event e →
    regStore s e = some (i, by', addr, g) → (s.sc by'.sc).running = true → (s.sc by'.sc).await = none →
    s.leveeCheck by'.sc ((s.sc by'.sc).reg by'.base) rWR by'.va 8 = none → s.scPart by'.sc = some p →
    s.scAddr by'.sc ((s.sc by'.sc).reg by'.base) .store by'.va 8 = .ctl at' → (at' % 8 ≠ 0 ∨ s.ctlReach p at' = false) →
    exec i s = .next (s.scTrap by'.sc 7 by'.va)) ∧
  (∀ (s : State) (by' : CtlBy) (k g : Nat) (v : Word), s.cur = .event (.gctlWrite by' k g v) → g < 256 → SwitchOpen s by' k (0x200 * g) →
    let x := s.group g
    let u := stored s by'
    (x.valid = true → (v.getLsbD 63 = true ∨ x.pending ≠ []) → exec .gctlWrite s = .next u) ∧
    (x.valid = true → v.getLsbD 63 = false → x.pending = [] → exec .gctlWrite s = .next (u.setGroup g { x with valid := false })) ∧
    (x.valid = false → exec .gctlWrite s = .next (u.setGroup g { x with valid := v.getLsbD 63, ty := v.toNat / 2 ^ 61 % 4,
                                                                          anchor := (v.extractLsb' 48 10).toInt }))) ∧
  (∀ (s : State) (by' : CtlBy) (k g n : Nat) (v : Word), s.cur = .event (.groupAbsentClear by' k g n v) → g < 256 → n < 16 →
    SwitchOpen s by' k (0x200 * g + 0x100 + 8 * n) →
    let x := s.group g
    (x.pending ≠ [] → exec .groupAbsentClear s = .next (stored s by')) ∧
    (x.pending = [] → Gives (exec .groupAbsentClear s) fun t => ∃ y, t = (stored s by').setGroup g { x with absent := y } ∧
      ∀ c < 1024, y.testBit c = (x.absent.testBit c && !(decide (c / 64 = n) && v.getLsbD (c % 64)))))

/-- R134, R136, R137, R337, R338, R342, R343, R423: the events of flume copies, gathers and scatters. FLUME_COPY_ACCEPT accepts a copy with
no earlier conflicting range; FLUME_SECTOR_LAND writes a sector's bytes, with PRESENT or to global memory, or gives its fault to the
executive; FLUME_SECTOR_FAIL marks it FAILED; FLUME_COPY_COMPLETE, GATHER_COMPLETE and SCATTER_COMPLETE end the command with its digest, its
rows and its bitmap; and what completion leaves. -/
def Obligations.CopyEvents : Prop :=
  (∀ (s : State) (cmd : Nat) (c : Cmd), (s.completeCmd cmd c).cmds = s.cmds.del cmd ∧ (s.completeCmd cmd c).mem = s.mem ∧
    (c.err = none → (∀ r ∈ s.past, .engine cmd ∉ r.vis) → (s.completeCmd cmd c).fibres = s.fibres) ∧
    ∀ f k a (fb : Fibre), c.fib = some f → c.ctr = some k → c.err = some a → s.fibres.find? f = some fb →
      FibAt (s.completeCmd cmd c) f fun y => y.errs = fb.errs ++ [⟨k, cmd, c.batch?.getD 0, a.1, a.2⟩] ∧
        ({ y with errs := fb.errs, finished := fb.finished } : Fibre) = fb) ∧
  (∀ (s : State) (cmd : Nat) (e : EngCx) (x : FlCopy), s.cur = .event (.flumeCopyAccept cmd) → s.engCx cmd = some e →
    e.c.body = .flume x → x.accepted = false →
    (s.behind cmd e.c.wg (x.ranges e.w.core) = true → exec .flumeCopyAccept s = .next s) ∧
    (s.behind cmd e.c.wg (x.ranges e.w.core) = false → x.mc = none → Gives (exec .flumeCopyAccept s) fun t => t.mem = s.mem ∧
      t.fibres = s.fibres ∧ t.cmds.find? cmd = some { e.c with rngs := x.ranges e.w.core, body := .flume { x with accepted := true } } ∧
      WgAt t e.c.wg fun g => g.spad = e.w.spad ∧ (x.out = false → ∀ k < x.count, g.arriving (x.offset k) 32 = true))) ∧
  (∀ (s : State) (cmd k : Nat) (e : EngCx) (x : FlCopy), s.cur = .event (.flumeSectorLand cmd k) → s.engCx cmd = some e →
    e.c.body = .flume x → x.accepted = true → k ∈ x.left → s.tokened e.w.part cmd k = false →
    (∀ u b seen, s.sectorTry e x k = .done u b seen → x.out = false → x.mc = none → x.cred = none → x.dg = none → x.offset k % 32 = 0 →
      e.w.resident = true → u.cmds = s.cmds → u.wgs = s.wgs →
      Gives (exec .flumeSectorLand s) fun t => t.mem = u.mem ∧ t.fibres = u.fibres ∧
        WgAt t e.c.wg (fun g => g.spad = e.w.spad.putBytes (x.offset k) ((b.drop ((x.global k).toNat % 32)).take 32) ∧ g.arriving (x.offset k) 32 = false ∧ g.failedAt (x.offset k) 32 = none) ∧
        ∃ q ∈ t.cmds.find? cmd, q.err = e.c.err ∧
          q.body = .flume { x with seen, kept := x.keep k b, left := x.left.filter fun j => decide (j ≠ k) }) ∧
    (∀ u b seen, s.sectorTry e x k = .done u b seen → x.out = true → x.dg = none → u.cmds = s.cmds →
      Gives (exec .flumeSectorLand s) fun t => t.mem = u.mem ∧ t.fibres = u.fibres ∧ t.wgs = u.wgs ∧
        ∃ q ∈ t.cmds.find? cmd, q.err = e.c.err ∧ q.body = .flume { x with seen, left := x.left.filter fun j => decide (j ≠ k) }) ∧
    (∀ cause va, s.sectorTry e x k = .fault cause va →
      exec .flumeSectorLand s = .next (s.postToken e.w.part cmd k e.c cause va) ∧
      ((s.postToken e.w.part cmd k e.c cause va).part e.w.part).tokens =
        (s.part e.w.part).tokens ++ [⟨(s.part e.w.part).nextTok % 2 ^ 32, cmd, k, cause, va⟩])) ∧
  (∀ (s u : State) (cmd k : Nat) (e : EngCx) (x : FlCopy) (cause : Cause) (va : Word), s.cur = .event (.flumeSectorFail cmd k) →
    s.engCx cmd = some e → e.c.body = .flume x → x.accepted = true → k ∈ x.left → s.tokened e.w.part cmd k = false →
    s.sectorTry e x k = .fail u cause va → exec .flumeSectorFail s = .next (u.failSector e x k cause) ∧
    (u.wgs = s.wgs → u.cmds = s.cmds → x.out = false → x.mc = none → x.cred = none → x.offset k % 32 = 0 → e.w.resident = true →
      WgAt (u.failSector e x k cause) e.c.wg (fun g => g.spad = e.w.spad ∧ g.failedAt (x.offset k) 32 = some cause) ∧
      ∃ q ∈ (u.failSector e x k cause).cmds.find? cmd, q.err = some (e.c.err.getD (cause, BitVec.ofNat 64 (x.offset k))) ∧
        q.body = .flume { x with failed := x.failed ++ [k], left := x.left.filter fun j => decide (j ≠ k) })) ∧
  (∀ (s : State) (cmd : Nat) (e : EngCx) (x : FlCopy), s.cur = .event (.flumeCopyComplete cmd) → s.engCx cmd = some e →
    e.c.body = .flume x → x.accepted = true → x.left = [] → s.engHeld cmd = false → s.digestBehind e x = false →
    (x.dg = none → exec .flumeCopyComplete s = .next (s.completeCmd cmd e.c)) ∧
    (∀ i, x.dg = some i → x.fin = none → exec .flumeCopyComplete s =
      .next (finished s e { e.w with dgs := e.w.dgs.set i ((e.w.dgs.getD i Digest.start).after x) })) ∧
    (∀ i o, x.dg = some i → x.fin = some o → ((e.w.dgs.getD i Digest.start).after x).stopped = false → exec .flumeCopyComplete s =
      .next (finished s e (Wg.setSectors { e.w with
        dgs := e.w.dgs.set i Digest.start
        spad := e.w.spad.putBytes o (((e.w.dgs.getD i Digest.start).after x).value ++ toLe 0 16) } o 64 .present)) ∧
      ((e.w.dgs.getD i Digest.start).stopped = false → x.failed = [] →
        ((e.w.dgs.getD i Digest.start).after x) = (e.w.dgs.getD i Digest.start).update x.hashed))) ∧
  (∀ (s u : State) (cmd : Nat) (e y : EngCx) (g h : GsCmd) (l : List Nat) (x : GsAcc), s.cur = .event (.gatherComplete cmd) →
    s.engCx cmd = some e → e.c.body = .gather g → g.done = false → gsListed false s e g u y h l →
    gsRows (fun x k i => x.gatherRow u y h k i) 0 l ⟨u, [], [], none⟩ = .ok x → x.s.cmds = u.cmds → x.s.engHeld cmd = false →
    exec .gatherComplete s = .next (((x.s.modWg e.c.wg fun w => w.gsWrite (x.rows.reverse ++ [(g.soff, g.bitmap l)]))).completeCmd cmd
      (match x.err with | some a => y.c.failing a.1 a.2 | none => y.c))) ∧
  (∀ (s u : State) (cmd : Nat) (e y : EngCx) (g h : GsCmd) (l : List Nat) (x : GsAcc), s.cur = .event (.scatterComplete cmd) →
    s.engCx cmd = some e → e.c.body = .scatter g → g.done = false → gsListed true s e g u y h l →
    gsRows (fun x k i => x.scatterRow u y h k i) 0 l ⟨u, [], [], none⟩ = .ok x → x.s.cmds = u.cmds → x.s.engHeld cmd = false →
    exec .scatterComplete s = .next (((x.s.modWg e.c.wg fun w => w.gsWrite (x.rows.reverse ++ [(g.soff, g.bitmap l)]))).completeCmd cmd
      (match x.err with | some a => y.c.failing a.1 a.2 | none => y.c)))

/-- R154, R156, R158, R162 to R167, R344, R349, R350: the events of the matrix unit. A capture of PRESENT regions reads their bytes, all
that are left where it has read some before. BANK_LOAD_END loads a bank once all its sectors are read and its cycles have passed;
MATRIX_STEP_START captures the A rows and scales; MATRIX_STEP_END adds the products to the partial; MATRIX_COMMAND_COMPLETE combines it
into the tile; DRAIN_START converts the tile and DRAIN_COMPLETE writes the rows; MXZERO_EFFECT zeroes a tile and MXSTAT_RESULT gives its
word. That the first try reads a free choice of the sectors is the model's choice (log entry 98). -/
def Obligations.MatrixEvents : Prop :=
  (∀ (w : Wg) (got : Tbl (List Byte)) (l : List (Nat × Nat)) (n : Nat), allPresent w l → ∃ all : Tbl (List Byte),
    (∀ k x, got.find? k = some x → all.find? k = some x) ∧
    (∀ k x, got.find? k = none → all.find? k = some x → k ∈ sectorsIn l ∧ x = w.spad.bytes (32 * k) 32) ∧
    (w.capture got l n = .part all ∧ got = [] ∨ w.capture got l n = .all all ∧ ∀ k ∈ sectorsIn l, (all.find? k).isSome = true)) ∧
  (∀ (s : State) (cmd : Nat) (e : EngCx) (x : MxLoad) (got : Tbl (List Byte)), s.cur = .event (.bankLoadEnd cmd) → s.engCx cmd = some e →
    e.c.body = .mxload x → s.bankBehind cmd e.c.wg x.mac x.bank true = false → clearOf s e e.c.rngs →
    (8 ≤ since' (s.clk e.w.die) x.since → e.w.capture x.got (bRegions x.fmt x.boff x.bstr x.bsc) s.free = .part got →
      exec .bankLoadEnd s = .next (s.setCmd cmd { e.c with body := .mxload { x with got } }).drawn) ∧
    (8 + mxLoadCycles x.fmt ≤ since' (s.clk e.w.die) x.since → e.w.capture x.got (bRegions x.fmt x.boff x.bstr x.bsc) s.free = .all got →
      exec .bankLoadEnd s = .next (finished s e { e.w with
        banks := e.w.banks.put (2 * x.mac + x.bank) ((e.w.seen got).loadBank x.fmt x.boff x.bstr x.bsc) }))) ∧
  (∀ (s : State) (cmd t : Nat) (e : EngCx) (x : MxRun) (got : Tbl (List Byte)), s.cur = .event (.bankLoadEnd cmd) → s.engCx cmd = some e →
    e.c.body = .mxrun x → x.loadAt = some t → x.loaded + 1 < x.n → mxLoadCycles x.bfmt ≤ since' (s.clk e.w.die) t →
    s.bankBehind cmd e.c.wg x.mac (x.bankOf (x.loaded + 1)) true = false → clearOf s e (reads (x.bRegions (x.loaded + 1))) →
    e.w.capture x.gotB (x.bRegions (x.loaded + 1)) s.free = .all got → exec .bankLoadEnd s =
      .next ((s.setWg e.c.wg { e.w with
        banks := e.w.banks.put (2 * x.mac + x.bankOf (x.loaded + 1))
          ((e.w.seen got).loadBank x.bfmt (sliceAt x.boff x.db (x.loaded + 1)) x.bstr
          (if x.bscaled = true then some (sliceAt x.bsc x.dbs (x.loaded + 1)) else none)) }).setCmd cmd
        (e.c.withRun { x with loaded := x.loaded + 1, loadAt := none, gotB := [] }))) ∧
  (∀ (s : State) (cmd : Nat) (e : EngCx) (x : MxRun) (got : Tbl (List Byte)), s.cur = .event (.matrixStepStart cmd) →
    s.engCx cmd = some e → e.c.body = .mxrun x →
    let k := x.step
    let y := if k = 0 then { x with bfmt := (e.w.bank x.mac (x.bankOf k)).fmt, bscaled := (e.w.bank x.mac (x.bankOf k)).scaled } else x
    let m := (e.w.seen got).spad
    k < x.n → x.stepAt = none → k ≤ x.loaded → (k = 0 → 8 ≤ since' (s.clk e.w.die) e.c.since) → s.macroBusy cmd e.c.wg x.mac = false →
    s.bankBehind cmd e.c.wg x.mac (x.bankOf k) false = false → clearOf s e (reads (y.aRegions k)) →
    (e.w.capture x.got (y.aRegions k) s.free = .part got →
      exec .matrixStepStart s = .next (s.setCmd cmd (e.c.withRun { y with got })).drawn) ∧
    (e.w.capture x.got (y.aRegions k) s.free = .all got →
    exec .matrixStepStart s = .next (s.setCmd cmd (e.c.withRun { y with
      stepAt := some (s.clk e.w.die), loadAt := if k + 1 < x.n then some (s.clk e.w.die) else none, got := [], gotB := []
      acap := (List.range 16).flatMap fun i => m.bytes (sliceAt x.aoff x.da k + i * x.astr) (mxBytes x.fmt (mxK y.bfmt))
      scap := match x.asc with
        | some a => m.bytes (sliceAt a x.das k) (mxK y.bfmt / 2)
        | none => [] })))) ∧
  (∀ (s : State) (cmd t : Nat) (e : EngCx) (x : MxRun), s.cur = .event (.matrixStepEnd cmd) → s.engCx cmd = some e → e.c.body = .mxrun x →
    x.stepAt = some t → mxStepCycles x.fmt (mxK x.bfmt) x.acap ≤ since' (s.clk e.w.die) t → Gives (exec .matrixStepEnd s) fun u =>
      u.mem = s.mem ∧ u.wgs = s.wgs ∧ u.fibres = s.fibres ∧ u.cmds = s.cmds.put cmd (e.c.withRun { x with
        step := x.step + 1, stepAt := none, endAt := s.clk e.w.die, acap := [], scap := []
        partl := x.product (e.w.bank x.mac (x.bankOf x.step)) (e.w.tile x.tile).anchor s.free })) ∧
  (∀ (s : State) (cmd : Nat) (e : EngCx) (x : MxRun), s.cur = .event (.matrixCommandComplete cmd) → s.engCx cmd = some e →
    e.c.body = .mxrun x → x.n ≤ x.step → x.stepAt = none → x.loadAt = none → 16 ≤ since' (s.clk e.w.die) x.endAt →
    s.tileBehind cmd e.c.wg x.tile (fun b => b.touches && !b.accumulates) = false → exec .matrixCommandComplete s =
      .next (tileFinished s e { e.w with tiles := e.w.tiles.put x.tile { e.w.tile x.tile with
        elems := mapElems (e.w.tile x.tile).elems fun n a => a.combine (Anc.ofBits (x.partl.getD n 0).toNat) } })) ∧
  (∀ (s : State) (cmd : Nat) (e : EngCx) (x : MxDrain), s.cur = .event (.drainStart cmd) → s.engCx cmd = some e → e.c.body = .drain x →
    x.since = none → s.tileBehind cmd e.c.wg x.tile CmdBody.changes = false → exec .drainStart s = .next (s.setCmd cmd { e.c with
      body := .drain { x with since := some (s.clk e.w.die), rows := (List.range 16).map (x.row (e.w.tile x.tile)) } })) ∧
  (∀ (s : State) (cmd t : Nat) (e : EngCx) (x : MxDrain), s.cur = .event (.drainComplete cmd) → s.engCx cmd = some e →
    e.c.body = .drain x → x.since = some t → 48 ≤ since' (s.clk e.w.die) t → clearOf s e e.c.rngs → exec .drainComplete s =
      .next (tileFinished s e (x.rows.zipIdx.foldl (fun w r => w.engineWrite (x.doff + r.2 * x.dstr) r.1) e.w))) ∧
  (∀ (s : State) (cmd t : Nat) (e : EngCx), s.cur = .event (.mxzeroEffect cmd) → s.engCx cmd = some e → e.c.body = .mxzero t →
    s.tileBehind cmd e.c.wg t CmdBody.touches = false → exec .mxzeroEffect s =
      .next (tileFinished s e { e.w with tiles := e.w.tiles.put t { e.w.tile t with elems := [] } })) ∧
  (∀ (s : State) (cmd t f n : Nat) (e : EngCx) (fb : Fibre), s.cur = .event (.mxstatResult cmd) → s.engCx cmd = some e →
    e.c.body = .mxstat t → s.tileBehind cmd e.c.wg t CmdBody.changes = false → e.c.fib = some f → s.fibres.find? f = some fb →
    e.c.ctr = none → (e.c.back = none → fb.wg = e.c.wg) →
    (e.c.back = none → fb.await = .cmd cmd n → Gives (exec .mxstatResult s) fun u => u.mem = s.mem ∧ u.cmds = s.cmds.del cmd ∧
      FibAt u f fun y => y = readyAgain s e.w (Fibre.advance (Fibre.putReg { fb with await := .none } (.s e.c.dst)
        (.s (tileWord e.w e.l.kernel.nt t))) n)) ∧
    (∀ id, e.c.back = some id → Gives (exec .mxstatResult s) fun u => u.mem = s.mem ∧ u.cmds = s.cmds.del cmd ∧
      FibAt u f fun y => y = { fb with pend := fb.pend.map fun p => if p.id = id then
        { p with dst := [(.s e.c.dst, .s (tileWord e.w e.l.kernel.nt t))], left := 0, st := .ready } else p }))

/-- R173 to R178, R184 to R186, R191 to R193, R305, R309, R440: the events at homes, where nothing holds them up:
HOME_REQUEST_ARRIVAL of a read fill, and of a fill outside the partition's ranges; COLLECTION_END without an uncorrectable sector;
ACR_NODE_MERGE in a node's partial; FAR_ATOMIC_PERFORM; PARTIAL_EVICT into a cluster unit and into the base; LINE_WRITEBACK without a lost
sector; LOCK_REQUEST_ARRIVAL at a FREE line and at a held one; TURNOUT_ENTRY_TAKEN, LOCK_GRANT_ARRIVAL, LOCK_TIMEOUT, DEADLOCK_PROBE and
LCKCAN_ANSWER. -/
def Obligations.HomeEvents : Prop :=
  (∀ (s : State) (r : HomeReq) (n : Nat), s.cur = .event (.homeRequestArrival r none false false) → ownRequest r → r.agent = .cluster n →
    r.kind = .fill false → s.boot.memready = true → s.inRange r.part r.pa = true → s.pageOf r = none → s.sets = [] →
    (s.line r.pa r.grain).busy = false → (s.line r.pa r.grain).acc = none → (s.line r.pa r.grain).holder = none →
    Gives (exec .homeRequestArrival s) fun t => t.mem = s.mem ∧ t.line r.pa r.grain = (s.line r.pa r.grain).readBy n ∧
      t.out = s.out ++ [.answer r.agent (s.mem.bytes r.pa r.grain)]) ∧
  (∀ (s : State) (r : HomeReq) (row : Option (BankRef × Nat)) (soft hard : Bool), s.cur = .event (.homeRequestArrival r row soft hard) →
    ownRequest r → s.boot.memready = true → (∀ b ∈ row, bankHolds b.1 r.pa = true) → s.inRange r.part r.pa = false →
    exec .homeRequestArrival s = .next (s.send (.unsupported r.agent))) ∧
  (∀ (s : State) (a : Nat) (l : Line) (t : AcrTag), s.cur = .event (.collectionEnd a []) → s.lines.find? a = some l → l.collect = true →
    (∀ p ∈ s.partials, p.line = a → p.bad = []) →
    l.acc = some t → l.waiting = [] → l.acks = 0 → l.hold = false → l.grain % t.size = 0 → (∀ k ∈ sectorsOf a l.grain, s.dead (32 * k) 32 = false) →
    a % 32 = 0 → Mem.wf s.mem = true → Gives (exec .collectionEnd s) fun u =>
      u.lines.find? a = some { l with acc := none, collect := false } ∧ (∀ p ∈ u.partials, p.line ≠ a) ∧
      ∀ i < l.grain / t.size, u.mem.read (a + t.size * i) t.size =
        collectElem t (s.partials.filter fun p => decide (p.line = a)) i (s.mem.read (a + t.size * i) t.size) % 2 ^ (8 * t.size)) ∧
  (∀ (s : State) (cmd lane : Nat) (c : Cmd) (o : FarOp) (t : AcrTag) (n : Node), s.cur = .event (.acrNodeMerge cmd lane false) →
    s.farOp cmd lane = some (c, o) → o.kind = .acr t (some n) → s.cutOff o.pa = false →
    let a := alignDown o.pa o.grain
    let l := s.line a o.grain
    l.busy = false → l.acc = some t → l.holder = none → s.accruesIn a o.grain = [a] → l.grain = o.grain →
    s.partialBad n a ((o.pa - a) / 32) = false → Gives (exec .acrNodeMerge s) fun u => u.mem = s.mem ∧ u.lines = s.lines ∧ (∀ q ∈ s.partials, (q.node ≠ n ∨ q.line ≠ a) → q ∈ u.partials) ∧
      (∃ q ∈ u.partials, q.node = n ∧ q.line = a ∧ q.elems.find? ((o.pa - a) / t.size) =
        some (acrApply t ((((s.partialAt n a).map Partial.elems).getD []).getD ((o.pa - a) / t.size) t.identity) o.data)) ∧
      ((∀ x ∈ s.cmds.find? cmd, ∀ ops, x.body = .far ops → ∀ q ∈ ops, q.lane = lane) → u.cmds = s.cmds.del cmd)) ∧
  (∀ (s : State) (cmd lane x : Nat) (c : Cmd) (o : FarOp) (p : AtomOpr) (w : Width), s.cur = .event (.farAtomicPerform cmd lane) →
    s.farOp cmd lane = some (c, o) → o.kind = .atom p w x → s.cutOff o.pa = false →
    s.gate (alignDown o.pa o.grain) o.grain true = .pass → (s.line (alignDown o.pa o.grain) o.grain).holder = none →
    s.dead o.pa w.bytes = false → Gives (exec .farAtomicPerform s) fun u =>
      u.mem = (match atomNew p w (s.mem.read o.pa w.bytes) x o.data with
        | some y => s.mem.putBytes o.pa (toLe y w.bytes)
        | none => s.mem) ∧ u.wgs = s.wgs ∧
      ((∀ x ∈ s.cmds.find? cmd, ∀ ops, x.body = .far ops → ∀ q ∈ ops, q.lane = lane) → u.cmds = s.cmds.del cmd)) ∧
  (∀ (s : State) (a d c clus : Nat) (p : Partial), s.cur = .event (.partialEvict a d (some c) clus) → (s.line a 32).busy = false →
    clus = clusOf c → s.partialAt (.core d c) a = some p → Gives (exec .partialEvict s) fun t => t.mem = s.mem ∧ t.lines = s.lines ∧
      t.partialAt (.core d c) a = none ∧ ∃ q ∈ t.partials, q.node = .cluster d clus ∧ q.line = p.line) ∧
  (∀ (s : State) (a d clus : Nat) (p : Partial), s.cur = .event (.partialEvict a d none clus) → (s.line a 32).busy = false →
    s.partialAt (.cluster d clus) a = some p →
    exec .partialEvict s = .next ((s.dropPartial (.cluster d clus) a).mergeBase p)) ∧
  (∀ (s : State) (a : Nat), s.cur = .event (.lineWriteback a []) → (s.line a 32).holder = none →
    ((s.line a 32).dir = .m → exec .lineWriteback s = .next (s.setLine a { s.line a 32 with dir := .i, sharers := 0 })) ∧
    ((s.line a 32).dir = .o → exec .lineWriteback s = .next (s.setLine a { s.line a 32 with dir := .s })) ∧
    ((s.line a 32).dir ≠ .m → (s.line a 32).dir ≠ .o → exec .lineWriteback s = .next s)) ∧
  (∀ (s : State) (a f slot : Nat) (m : LockMsg), s.cur = .event (.lockRequestArrival a f slot) →
    (s.lockMsgs.find? fun m => m.isOf false f slot && decide (m.line = a)) = some m → s.gate a m.grain true = .pass →
    s.tableRoom a = true → (s.line a m.grain).queue = [] →
    ((s.line a m.grain).holder = none → s.present f = true → Gives (exec .lockRequestArrival s) fun t => t.mem = s.mem ∧
      (t.line a 32).holder = some f ∧ (t.line a 32).queue = [] ∧ (t.line a 32).abandoned = false ∧ (t.line a 32).dir = .m ∧
      (∀ b, s.sharerBit (.lane f 0) = some b → (t.line a 32).sharers = 2 ^ b) ∧ (t.line a 32).held = (s.line a m.grain).held ∧
      t.lockMsgs = s.lockMsgs.erase m ++ [⟨true, a, m.grain, f, slot, if (s.line a m.grain).abandoned = true then .abandoned else .acquired, none⟩]) ∧
    (∀ h, (s.line a m.grain).holder = some h → (s.line a m.grain).first = none → Gives (exec .lockRequestArrival s) fun t => t.mem = s.mem ∧
      t.lockMsgs = s.lockMsgs.erase m ∧ (t.line a 32).holder = some h ∧
      ((t.line a 32).queue.map fun q => (q.fib, q.slot, q.limit)) = [(f, slot, m.limit)])) ∧
  (∀ (s : State) (a f slot : Nat) (m : LockMsg), s.cur = .event (.turnoutEntryTaken a f slot) →
    (s.tableWait.find? fun m => decide (chanOf m.line = chanOf a)) = some m → m.line = a → m.isOf false f slot = true →
    s.tableRoom a = true → s.gate a m.grain true = .pass →
    exec .turnoutEntryTaken s = .next (State.takeEntry { s with tableWait := s.tableWait.erase m } m)) ∧
  (∀ (s : State) (f slot : Nat) (m : LockMsg) (fb : Fibre) (w : Wg), s.cur = .event (.lockGrantArrival f slot) →
    (s.lockMsgs.find? fun m => m.isOf true f slot) = some m → (s.line m.line 32).acks = 0 → s.fibres.find? f = some fb → s.wgs.find? fb.wg = some w → slot < 4 →
    fb.slots.length = 4 → noWaiters s → Gives (exec .lockGrantArrival s) fun t => t.mem = s.mem ∧ t.lines = s.lines ∧ t.lockMsgs = s.lockMsgs.erase m ∧
      FibAt t f (fun y => y.slot slot = { fb.slot slot with state := .granted, status := m.status, phase := some (w.weir (fb.slot slot).weir).phase } ∧
        y.pc = fb.pc ∧ y.st = fb.st ∧ ∀ j < 4, j ≠ slot → y.slot j = fb.slot j) ∧
      WgAt t fb.wg fun g => (fb.slot slot).weir < w.weirs.length → (w.weir (fb.slot slot).weir).phase < 65536 →
        sameWeir (g.weir (fb.slot slot).weir) (countOf (w.weir (fb.slot slot).weir) 1 0 (decide (m.status ≠ .acquired)))) ∧
  (∀ (s : State) (a f slot t : Nat) (r : LockReq), s.cur = .event (.lockTimeout a f slot) → s.queuedAt a f slot = some r →
    r.limit = some t →
    (t ≤ since' (s.clkFor f) r.since → exec .lockTimeout s = .next (s.failRequest a f slot .timeout) ∧
      ((s.failRequest a f slot .timeout).line a 32).queue = (s.line a 32).queue.filter (fun q => !(decide (q.fib = f) && decide (q.slot = slot)))) ∧
    (s.guests.find? f = none → since' (s.clkFor f) r.since < t → exec .lockTimeout s = .next s)) ∧
  (∀ (s : State) (a f slot : Nat) (r : LockReq), s.cur = .event (.deadlockProbe a f slot) → s.queuedAt a f slot = some r →
    (since' (s.clkFor f) r.since < 65536 * (r.probes + 1) → exec .deadlockProbe s = .next s) ∧
    (65536 * (r.probes + 1) ≤ since' (s.clkFor f) r.since →
      let u := s.setLine a { s.line a 32 with queue := (s.line a 32).queue.map fun x => if x.seq = r.seq then { x with probes := x.probes + 1 } else x }
      (u.cycleFrom r.seq 16 (a, r) = none → exec .deadlockProbe s = .next u) ∧
      ∀ c y, u.cycleFrom r.seq 16 (a, r) = some c → youngest c = some y → exec .deadlockProbe s =
        .next ((u.failRequest y.1 y.2.fib y.2.slot .deadlock).reportDeadlock (c.map (·.1)) y.2.fib))) ∧
  (∀ (s : State) (f d look slot : Nat) (fb : Fibre) (w : Wg), s.cur = .event (.lckcanAnswer f) → s.fibres.find? f = some fb →
    s.wgs.find? fb.wg = some w → fb.await = .lckcan d look slot → look = 0 →
    (∀ m ∈ s.lockMsgs, m.isOf true f slot = false) →
    ((fb.slot slot).state = .granted ∨ (fb.slot slot).state = .held → exec .lckcanAnswer s = .next (s.setFib f
      (readyAgain s w ((Fibre.advance { fb with await := .none } 8).putReg (.s d) (.s 1))))) ∧
    ((fb.slot slot).state = .done → exec .lckcanAnswer s = .next (s.setFib f
      (readyAgain s w ((Fibre.advance { fb with await := .none } 8).putReg (.s d) (.s 2))))) ∧
    ((fb.slot slot).state = .queued → slot < 4 → fb.slots.length = 4 →
      Gives (exec .lckcanAnswer s) fun t => t.mem = s.mem ∧ FibAt t f (fun y => y.st = .ready ∧ y.sreg d = 0 ∧
        y.slot slot = { fb.slot slot with state := .done, status := .cancelled }) ∧ t.queuedAt (fb.slot slot).line f slot = none ∧
        ∀ m ∈ t.lockMsgs, m.isOf false f slot = false))

/-- R427, R430, R434 to R436, R440, R442, R443, R446, R451, R452: the events of translation and of the fabric: WBLIM_EXPIRY of each
agent, INVALIDATION_COMPLETE, ATS_INVALIDATE_TIMEOUT, ATS_TRANSLATION_REQUEST of a page of this chip, PRI_PAGE_REQUEST, MIGRATION_END over
lines without a directory entry, INVALIDATION_ACK, NALRON_PORT_DOWN with at most one line that waits, NALRON_PORT_UP with none in HOLD,
FLIT_CRC_FAIL, PAUSE_FLIT, RESUME_FLIT, LINK_FAILURE_TIMEOUT of a port of this chip with no line listed, CULVERT_LANE_FAIL and
SNOOP_FILTER_EVICT. -/
def Obligations.FabricEvents : Prop :=
  (∀ (s : State) (p : Nat) (who : Agent) (x : Stall), s.cur = .event (.wblimExpiry p who) →
    (s.part p).stalls.find? (fun x => decide (x.who = who)) = some x →
    let u := s.modPart p fun y => { y with stalls := y.stalls.filter fun z => !decide (z.who = who) }
    let due := (s.part p).wblim ≠ 0 ∧ (s.part p).wblim ≤ s.gtime - x.since
    (¬ due → exec .wblimExpiry s = .next s) ∧
    (∀ f l, due → who = .lane f l → exec .wblimExpiry s = .next (u.takeTrap f .wblock x.info 0)) ∧
    (∀ c k e, due → who = .engine c k → s.engCx c = some e → exec .wblimExpiry s =
      .next (State.failToken (u.setLcore e.w.die e.w.core { u.lcore e.w.die e.w.core with
          xwblk := ((u.lcore e.w.die e.w.core).xwblk + 1) % 2 ^ 32 })
        { token := 0, cmd := c, sector := k, cause := .wblock, addr := x.va } .wblock)) ∧
    (∀ n, due → who = .service n → exec .wblimExpiry s = .next (u.scTrap n 7 x.va)) ∧
    (∀ port rid l, due → who = .endpoint port rid → u.walk p x.va = some l → exec .wblimExpiry s =
      .next (u.notify p 0x13 (BitVec.ofNat 64 (l.pa x.va)) (BitVec.ofNat 64 (Cause.wblock.code * 65536 + rid))))) ∧
  (∀ (s : State) (p : Nat) (r : Option (Word × Nat)) (acked : List (Nat × Nat)), s.cur = .event (.invalidationComplete p acked) →
    (s.part p).xinv = some r →
    (s.staleAccrues p r ≠ [] → exec .invalidationComplete s = .next (s.startCollect (s.staleAccrues p r))) ∧
    (s.staleAccrues p r = [] → (s.oldAccess p r = true ∨ ∃ f ∈ s.atsOf p, f ∉ acked ∧ f ∉ s.atsOff) → exec .invalidationComplete s = .next s) ∧
    (s.staleAccrues p r = [] → s.oldAccess p r = false → (∀ f ∈ s.atsOf p, f ∈ acked ∨ f ∈ s.atsOff) → Gives (exec .invalidationComplete s) fun t => t.mem = s.mem ∧ t.fibres = s.fibres ∧ t.cmds = s.cmds ∧
      (∀ x, x ∈ t.tlb ↔ x ∈ s.tlb ∧ ¬ (x.part = p ∧ x.hit r = true)) ∧ (∀ q, q ≠ p → t.parts.find? q = s.parts.find? q) ∧
      t.part p = { s.part p with xinv := none, xinvSeq := ((s.part p).xinvSeq + 1) % 2 ^ 32
                                 stalls := (s.part p).stalls.map fun y =>
                                   if xinvCovers r y.va.toNat 1 = true then { y with shut := false } else y })) ∧
  (∀ (s : State) (p port rid : Nat), s.cur = .event (.atsInvalidateTimeout port rid) → s.portPart port = some p →
    ((s.part p).xinv.isSome = true → (port, rid) ∉ s.atsOff → (port, rid) ∈ s.atsFns → exec .atsInvalidateTimeout s =
      .next (State.notify { s with atsOff := (port, rid) :: s.atsOff } p 0x15 (BitVec.ofNat 64 (rid % 65536)) (BitVec.ofNat 64 port))) ∧
    ((s.part p).xinv.isNone = true ∨ (port, rid) ∈ s.atsOff ∨ (port, rid) ∉ s.atsFns → exec .atsInvalidateTimeout s = .next s)) ∧
  (∀ (s : State) (p port rid : Nat) (pasid : Option Nat) (va : Word), s.cur = .event (.atsTranslationRequest port rid pasid va) →
    s.portPart port = some p → s.carries port = true →
    (s.pasidEntry port (pasid.getD 0) = none → exec .atsTranslationRequest s = .next (s.send (.unsupported (.endpoint port rid)))) ∧
    ∀ e, s.pasidEntry port (pasid.getD 0) = some e →
      (e.testBit 2 = false ∨ (port, rid) ∈ s.atsOff ∨ canonical va = false →
        exec .atsTranslationRequest s = .next (s.send (.unsupported (.endpoint port rid)))) ∧
      (e.testBit 2 = true → (port, rid) ∉ s.atsOff → canonical va = true →
        (s.leafOf p va s.free = none → exec .atsTranslationRequest s = .next (s.drawn.send (.translation port rid 0 13 false false))) ∧
        ∀ l, s.leafOf p va s.free = some l →
          (leafCpol l.e = 2 → exec .atsTranslationRequest s = .next (s.drawn.send (.translation port rid 0 (s.leafBits l) false false))) ∧
          (leafCpol l.e ≠ 2 → s.place p (l.pa va) = .home → Gives (exec .atsTranslationRequest s) fun t => t.mem = s.mem ∧
            t.fibres = s.fibres ∧ t.parts = s.parts ∧ (port, rid) ∈ t.atsFns ∧ (∀ f, f ∈ s.atsFns → f ∈ t.atsFns) ∧
            t.out = s.out ++ [.translation port rid (alignDown (l.pa va) (2 ^ s.leafBits l)) (s.leafBits l) (ebit l.e 2)
              (ebit l.e 3 && !ebit l.e 10 && !ebit l.e 11)]))) ∧
  (∀ (s : State) (p port rid index : Nat) (pasid : Option Nat) (va : Word) (w r last : Bool),
    s.cur = .event (.priPageRequest port rid pasid va w r last index) → s.portPart port = some p → s.carries port = true →
    (s.pasidEntry port (pasid.getD 0) = none → exec .priPageRequest s = .next (s.send (.unsupported (.endpoint port rid)))) ∧
    ∀ e, s.pasidEntry port (pasid.getD 0) = some e →
      (e.testBit 1 = false → exec .priPageRequest s = .next (s.send (.prg port (pasid.getD 0) rid index 1))) ∧
      (e.testBit 1 = true →
        let u := s.notify p 0x12 ((va &&& ~~~(0xFFF : Word)) ||| BitVec.ofNat 64 (bit w * 2 + bit r))
          (BitVec.ofNat 64 (pasid.getD 0 % 2 ^ 20 * 2 ^ 44 + rid % 65536 * 65536 + bit last * 32768 + index % 512))
        exec .priPageRequest s = .next (if ringRoom (s.part p).nqsize.toNat (s.part p).nqhead (s.part p).nqtail = true then u
          else u.send (.prg port (pasid.getD 0) rid index 15)))) ∧
  (∀ (s : State) (p n : Nat), s.cur = .event (.migrationEnd p) → (s.part p).mig = some n → s.lines = [] →
    let src := (s.part p).migsrc.toNat
    let dst := (s.part p).migdst.toNat
    let mine := ∀ i < n, s.inRange p (src + 8192 * i) = true ∧ s.inRange p (dst + 8192 * i) = true
    let ended (u : State) (st : Nat) : Out := .next (State.notify (u.modPart p fun x =>
        { x with mig := none, migSt := st, migSeq := (x.migSeq + 1) % 2 ^ 32 }) p 0x14 (s.part p).migsrc
      (BitVec.ofNat 64 (((s.part p).migSeq + 1) % 2 ^ 32 * 2 ^ 32 + st * 2)))
    (¬ mine → exec .migrationEnd s = ended s 3) ∧
    (mine → Mem.wf s.mem = true → s.bad = [] → s.lost = [] → (src + 8192 * n ≤ dst ∨ dst + 8192 * n ≤ src) → ∃ u, exec .migrationEnd s = ended u 0 ∧
      u.lines = [] ∧ u.fibres = s.fibres ∧ u.wgs = s.wgs ∧ u.parts = s.parts ∧
      ∀ a, u.mem.get a = if dst ≤ a ∧ a < dst + 8192 * n then s.mem.get (src + (a - dst)) else s.mem.get a)) ∧
  (∀ (s : State) (a b : Nat) (l : Line), s.cur = .event (.invalidationAck a b) → s.lines.find? a = some l → l.acks.testBit b = true →
    s.ackTravels b = true → l.waiting = [] →
    let rest := if l.sharers.testBit b = true then l.sharers - 2 ^ b else l.sharers
    Gives (exec .invalidationAck s) fun t => t.mem = s.mem ∧ (∀ k, k ≠ a → t.lines.find? k = s.lines.find? k) ∧
      (l.acks = 2 ^ b → t.line a 32 = { l with acks := 0, sharers := rest, granted := none, hold := false
                                               dir := if rest = 0 then .i else l.dir }) ∧
      (l.acks ≠ 2 ^ b → t.line a 32 = { l with acks := l.acks - 2 ^ b, sharers := rest
                                               hold := decide (s.downPorts (l.acks - 2 ^ b) ≠ []) })) ∧
  (∀ (s : State) (k : Nat) (x : Port), PortAt s k x →
    (s.cur = .event (.nalronPortDown k) → x.en = true → x.down = false → (∀ l ∈ s.lines, l.2.acks.testBit (portBit k) = false) →
      exec .nalronPortDown s = .next (State.blackBox (s.setPort k
        { x with up := false, down := true, evt := true, paused := false, run := 0 }) (k / 2 % 8) 3 true k)) ∧
    (s.cur = .event (.nalronPortDown k) → x.en = true → x.down = false → ∀ a l, s.lines = [(a, l)] → l.acks.testBit (portBit k) = true →
      Gives (exec .nalronPortDown s) fun t => t.mem = s.mem ∧ t.lines = [(a, { l with hold := true })] ∧
        t.port k = { x with up := false, down := true, evt := true, paused := false, run := 0, since := some (x.since.getD s.gtime) }) ∧
    (s.cur = .event (.nalronPortDown k) → x.en = false ∨ x.down = true → exec .nalronPortDown s = .next s) ∧
    (∀ lanes switch, s.cur = .event (.nalronPortUp k lanes switch) → x.en = true → x.up = false → 8 ≤ lanes → lanes ≤ 16 → switch < 1024 →
      (∀ l ∈ s.lines, l.2.hold = false) → exec .nalronPortUp s = .next (State.blackBox (s.setPort k
        { x with up := true, down := false, evt := true, lanes, switch, paused := false, run := 0, since := none }) (k / 2 % 8) 3 true (k + 256))) ∧
    (∀ lanes, s.cur = .event (.flitCrcFail k lanes) → x.up = true →
      let y := { x with crcerr := min (x.crcerr + 1) 65535, replays := min (x.replays + 1) 65535, run := x.run + 1 }
      (x.run + 1 < 16 → exec .flitCrcFail s = .next (s.setPort k y)) ∧
      (16 ≤ x.run + 1 → 8 ≤ lanes → Gives (exec .flitCrcFail s) fun t =>
        t.ports = (s.ports.put k y).put k { y with run := 0, lanes := min lanes 16 } ∧ t.mem = s.mem ∧ t.lines = s.lines) ∧
      (16 ≤ x.run + 1 → lanes < 8 → (∀ l ∈ s.lines, l.2.acks.testBit (portBit k) = false) → Gives (exec .flitCrcFail s) fun t =>
        t.port k = { y with run := 0, lanes, up := false, down := true, evt := true, paused := false } ∧ t.mem = s.mem)) ∧
    (s.cur = .event (.pauseFlit k) → exec .pauseFlit s =
      .next (if x.up = true then s.setPort k { x with paused := true, run := 0 } else s)) ∧
    (s.cur = .event (.resumeFlit k) → exec .resumeFlit s =
      .next (if x.up = true then s.setPort k { x with paused := false, run := 0 } else s))) ∧
  (∀ (s : State) (k t : Nat) (chips : List Nat), s.cur = .event (.linkFailureTimeout k chips) → k < 16 → (s.port k).since = some t →
    ((s.port k).down = false ∨ s.gtime - t < 1000 * s.nlfto → exec .linkFailureTimeout s = .next s) ∧
    ((s.port k).down = true → 1000 * s.nlfto ≤ s.gtime - t → s.lines = [] → s.groups = [] →
      (chips = [] → exec .linkFailureTimeout s = .next (s.setPort k { s.port k with since := none })) ∧
      ∀ c, chips = [c] → c < 1024 → c ∉ s.severed → Gives (exec .linkFailureTimeout s) fun u => u.mem = s.mem ∧
        u.severed = c :: s.severed ∧ u.port k = { s.port k with since := none } ∧ (∀ j, j ≠ k → u.port j = s.port j) ∧
        (∀ a, c ∉ u.snoop.getD a []) ∧ ∀ j, u.window j =
          if (s.window j).en = true ∧ ((s.window j).kind = 0 ∨ (s.window j).kind = 2) ∧ (c = (s.window j).peer ∨ c = s.chip)
          then { s.window j with severed := true } else s.window j)) ∧
  (∀ (s : State) (d l e m left : Nat) (spare : Bool), s.cur = .event (.culvertLaneFail d l spare left) → d < 8 →
    ((l = 0 ∧ d % 4 ≠ 0 ∧ e = d - 1 ∧ m = 1) ∨ (l = 1 ∧ d % 4 ≠ 3 ∧ e = d + 1 ∧ m = 0) ∨ (l = 2 ∧ e = (d + 4) % 8 ∧ m = 2)) →
    (ebit (s.linkWord d l) 0 = false → exec .culvertLaneFail s = .next s) ∧
    (ebit (s.linkWord d l) 0 = true → Gives (exec .culvertLaneFail s) fun t => t.mem = s.mem ∧ t.ports = s.ports ∧
      ∀ x ∈ [(d, l), (e, m)], (t.linkWord x.1 x.2).toNat =
        min ((s.linkWord x.1 x.2).toNat / 256 % 256 + 1) 255 * 256 +
          (if spare = false ∧ left = 0 then 6 else (s.linkWord x.1 x.2).toNat % 8))) ∧
  (∀ (s : State) (a : Nat), s.cur = .event (.snoopFilterEvict a) → Gives (exec .snoopFilterEvict s) fun t => t.mem = s.mem ∧
    t.snoop = s.snoop.del a ∧
    (s.windowAt a = none → t.lines = s.lines) ∧
    ((s.windowAt a).isSome = true → (s.line a 32).holder = none → (s.line a 32).busy = false → (s.line a 32).acc = none →
      (t.line a 32).sharers = 0 ∧ ((s.line a 32).sharers ≠ 0 → (t.line a 32).dir = .i)))

/-- R353 to R355, R358, R359, R450, R455 to R458, R462 to R464, R468: the events of collectives, of I/O commands and of endpoints and root
ports: MCSR_CONTRIBUTION_ARRIVAL, MCLR_REQUEST_ARRIVAL, ROUND_COMBINED, COLLECTIVE_COMPLETE of a command that did not combine,
MEMBER_WITHDRAWAL of another chip, IOLD_COMPLETION, COMPLETION_TIMEOUT, IO_WRITE_SENT, DOORBELL_SEND, ENDPOINT_WRITE and ENDPOINT_READ of a
physical address with no line listed, INTERRUPT_WRITE, AER_EVENT, DPC_TRIGGER, ROOT_PORT_LINK_CHANGE, CONFIG_ACCESS, SLTSYNC_COMPLETE,
SCRUB_CHECK_START and SHARD_CHECK_END. -/
def Obligations.IoEvents : Prop :=
  (∀ (s : State) (chip g offset : Nat) (data : List Byte), s.cur = .event (.mcsrContributionArrival (.peer chip g offset data)) →
    chip ≠ s.chip →
    let x := s.group g
    (x.refuses chip = true → exec .mcsrContributionArrival s = .next s) ∧
    (x.refuses chip = false → (∀ r ∈ x.pending, r.lacks offset chip = false) → exec .mcsrContributionArrival s =
      .next (s.setGroup g { x with pending := x.pending ++ [{ offset, bytes := data.length, mclr := none, parts := [(chip, none, data)] }] })) ∧
    (∀ r, x.refuses chip = false → x.pending = [r] → r.lacks offset chip = true → r.bytes = data.length →
      exec .mcsrContributionArrival s =
        .next (s.setGroup g { x with pending := [{ r with parts := r.parts ++ [(chip, none, data)] }] }))) ∧
  (∀ (s : State) (cmd : Nat) (e : EngCx) (x : CollCmd), s.cur = .event (.mcsrContributionArrival (.own cmd)) →
    s.collIssued cmd false = some (e, x) → s.behind cmd e.c.wg [readRng x.spoff x.bytes] = false → allPresent e.w [(x.spoff, x.bytes)] →
    s.collBefore cmd x = false → s.chip ∉ s.severed → (s.group x.group).refuses s.chip = false →
    (∀ r ∈ (s.group x.group).pending, r.lacks (s.collOffset x) s.chip = false) →
    let data := e.w.spad.bytes x.spoff x.bytes
    exec .mcsrContributionArrival s = .next (State.setGroup (s.setCmd cmd { e.c with
        rngs := [writeRng x.stoff 32], body := .coll { x with st := .pending, src := data } }) x.group
      { s.group x.group with pending := (s.group x.group).pending ++
          [{ offset := s.collOffset x, bytes := x.bytes, mclr := none, parts := [(s.chip, some cmd, data)] }] })) ∧
  (∀ (s : State) (cmd : Nat) (inputs : List (Nat × List Byte)) (e : EngCx) (x : CollCmd),
    s.cur = .event (.mclrRequestArrival cmd inputs) → s.collIssued cmd true = some (e, x) →
    (s.chip ∈ s.severed → exec .mclrRequestArrival s = .next (s.setCmd cmd { e.c with body := .coll { x with st := .done 3 } })) ∧
    (s.chip ∉ s.severed → (s.group x.group).refuses s.chip = true →
      exec .mclrRequestArrival s = .next (s.setCmd cmd { e.c with body := .coll { x with st := .done 1 } })) ∧
    (s.chip ∉ s.severed → (s.group x.group).refuses s.chip = false → inputs.map (·.1) = (s.group x.group).others s.chip →
      (∀ p ∈ inputs, p.2.length = x.bytes) → ∀ (u : State) (b : List Byte) (l : List Nat), s.collInput e x = .done u b l →
      exec .mclrRequestArrival s = .next (State.setGroup (u.setCmd cmd { e.c with body := .coll { x with st := .pending } }) x.group
        { s.group x.group with pending := (s.group x.group).pending ++ [{
            offset := u.collOffset x, bytes := x.bytes, mclr := some u.chip
            parts := (u.chip, some cmd, b) :: inputs.map fun p => (p.1, none, p.2) }] }))) ∧
  (∀ (s : State) (g offset cmd : Nat) (r : Round) (c : Cmd) (y : CollCmd), s.cur = .event (.roundCombined g offset) →
    (s.group g).pending = [r] → r.offset = offset → r.complete (s.group g) = true → r.parts.filterMap (·.2.1) = [cmd] →
    s.cmds.find? cmd = some c → c.body = .coll y →
    let x := s.group g
    let o := combineAll x.ty (if x.ty = 3 then 32 else x.anchor) r.bytes (r.parts.map (·.2.2))
    exec .roundCombined s = .next (State.setCmd (s.setGroup g
      { x with pending := [], rounds := if r.mclr.isSome = true then x.rounds else (x.rounds + 1) % 2 ^ 32 }) cmd
      { c with body := .coll { y with st := .combined, out := o.1, flags := o.2, members := r.parts.length } })) ∧
  (∀ (anchor : Int) (n i : Nat) (ins : List (List Byte)), i < n →
    fieldLe (combineAll 2 anchor (4 * n) ins).1 (4 * i) 4 = (ins.map fun l => fieldLe l (4 * i) 4).sum % 2 ^ 32) ∧
  (∀ (s : State) (cmd k : Nat) (e : EngCx) (x : CollCmd), s.cur = .event (.collectiveComplete cmd) → s.engCx cmd = some e →
    e.c.body = .coll x → clearOf s e e.c.rngs → x.st = .done k → noWaiters s → Gives (exec .collectiveComplete s) fun t =>
      t.mem = s.mem ∧ t.cmds = s.cmds.del cmd ∧ WgAt t e.c.wg fun g =>
        g.spad = e.w.spad.putBytes x.stoff (toLe k 4 ++ toLe (if k = 0 then x.members else 0) 4 ++
          toLe (if k = 0 then x.flags else 0) 4 ++ toLe 0 4 ++ toLe x.group 4 ++ toLe 0 12) ∧
        (x.weir < e.w.weirs.length → (e.w.weir x.weir).phase < 65536 →
          sameWeir (g.weir x.weir) (countOf (e.w.weir x.weir) 1 0 (decide (k ≠ 0))))) ∧
  (∀ (s : State) (chip g : Nat), s.cur = .event (.memberWithdrawal chip g) → chip ≠ s.chip → (s.group g).pending = [] →
    exec .memberWithdrawal s = .next (s.setGroup g { s.group g with absent := (s.group g).absent ||| 2 ^ chip })) ∧
  (∀ (s : State) (cmd : Nat) (c : Cmd) (x : IoCmd) (signed : Bool) (a : Answer), s.cur = .event (.ioldCompletion cmd a) →
    s.ioEvent cmd = some (c, x) → x.kind = .load signed →
    (x.sent = false → exec .ioldCompletion s = .next s) ∧
    (x.sent = true → s.endpointWaits ((barPort x.pa).getD 32) none = false →
      (∀ v, a = .data v → s.ioUsable x.pa = true → exec .ioldCompletion s =
        .next (State.completeCmd (State.giveScalar (c.fib.elim s fun f =>
            s.learn (.fibre f) (s.writesOf (.endpoint ((barPort x.pa).getD 32)))) cmd c (extend (8 * x.size) signed (v % 2 ^ (8 * x.size)))) cmd c)) ∧
      ((∀ v, a ≠ .data v) ∨ s.ioUsable x.pa = false → exec .ioldCompletion s =
        .next (State.completeCmd (s.giveScalar cmd c (extend (8 * x.size) signed ((2 ^ 64 - 1) % 2 ^ (8 * x.size)))) cmd
          (c.failing .engine (BitVec.ofNat 64 x.pa)))))) ∧
  (∀ (s : State) (cmd : Nat) (c : Cmd) (x : IoCmd) (signed : Bool), s.cur = .event (.completionTimeout cmd) →
    s.ioEvent cmd = some (c, x) → x.kind = .load signed → x.sent = true →
    (s.gtime - x.since < 1000 * (s.rp ((barPort x.pa).getD 32)).cto → exec .completionTimeout s = .next s) ∧
    (1000 * (s.rp ((barPort x.pa).getD 32)).cto ≤ s.gtime - x.since → exec .completionTimeout s =
      .next (State.completeCmd (s.giveScalar cmd c (extend (8 * x.size) signed ((2 ^ 64 - 1) % 2 ^ (8 * x.size)))) cmd
        (c.failing .engine (BitVec.ofNat 64 x.pa))))) ∧
  (∀ (s : State) (cmd : Nat) (c : Cmd) (x : IoCmd) (sent : Bool), s.ioEvent cmd = some (c, x) →
    s.ioBehind cmd c x = false →
    let freed (u : State) : State := c.fib.elim u fun f => u.ioRelease f
    let gone (m : Msg) (views : List Nat) : Out := .next (freed (if sent = true ∧ s.ioUsable x.pa = true then
        State.completeCmd (State.send (s.learn (.endpoint ((barPort x.pa).getD 32)) views) m) cmd c
      else s.completeCmd cmd (c.failing .engine (BitVec.ofNat 64 x.pa))))
    (s.cur = .event (.ioWriteSent cmd sent) → x.kind = .store → exec .ioWriteSent s = gone (.ioWrite x.pa x.size x.data) x.views) ∧
    (∀ k, s.cur = .event (.doorbellSend cmd sent) → x.kind = .bell k →
      (s.stillHeld x.holds = true → exec .doorbellSend s = .next s) ∧
      (s.stillHeld x.holds = false → exec .doorbellSend s = gone (.doorbell x.pa x.size x.data) (s.bellViews c x).views))) ∧
  (∀ (s : State) (port rid p pa : Nat) (data : List Byte) (poisoned : Bool),
    s.cur = .event (.endpointWrite port rid (.phys pa) data poisoned) → EpOpen s port p (.phys pa) data.length →
    s.intWindow p (BitVec.ofNat 64 pa) = false → pa < 2 ^ 51 →
    (poisoned = true → exec .endpointWrite s = .next s) ∧
    (poisoned = false → (port, rid) ∈ s.atsOff → s.engShut p (.endpoint port rid) = false →
      exec .endpointWrite s = .next (s.send (.unsupported (.endpoint port rid)))) ∧
    (poisoned = false → (port, rid) ∉ s.atsOff → (s.part p).stalls = [] → s.place p pa = .home → s.tlb = [] → s.lines = [] → s.bad = [] →
      s.lost = [] → Gives (exec .endpointWrite s) fun t =>
        t.mem = s.mem.putBytes pa data ∧ t.fibres = s.fibres ∧ t.wgs = s.wgs ∧ t.out = s.out)) ∧
  (∀ (s : State) (port rid p pa size : Nat), s.cur = .event (.endpointRead port rid (.phys pa) size) →
    EpOpen s port p (.phys pa) size → pa < 2 ^ 51 →
    ((port, rid) ∈ s.atsOff → exec .endpointRead s = .next (s.send (.unsupported (.endpoint port rid)))) ∧
    ((port, rid) ∉ s.atsOff → s.place p pa = .home → s.tlb = [] → s.lines = [] →
      (s.dead pa size = false → s.past = [] → exec .endpointRead s = .next (s.send (.answer (.endpoint port rid) (s.mem.bytes pa size)))) ∧
      (s.dead pa size = true → exec .endpointRead s = .next (State.send (s.retireFrame pa (memSource pa)) (.abort (.endpoint port rid)))))) ∧
  (∀ (s : State) (port rid p size : Nat) (addr : Word), s.cur = .event (.interruptWrite port rid addr size) → s.portPart port = some p →
    s.carries port = true → s.intWindow p addr = true →
    let io (o : Nat) : Nat := ((s.part p).io.getD o 0).toNat
    let i := (addr.toNat - io 0x18) / 4
    let e := s.mem.read (io 0x20 + 16 * i) 8
    let h : Word := BitVec.ofNat 64 (s.mem.read (io 0x20 + 16 * i + 8) 8)
    let good := e.testBit 0 = true ∧ e / 2 ^ 48 ≠ 0 ∧ e / 2 ^ 32 % 65536 = rid ∧ (h.extractLsb' 38 10).toNat = s.chip ∧
      (s.part p).dies.testBit (h.extractLsb' 35 3).toNat = true ∧ size = 4 ∧ addr.toNat % 4 = 0
    (¬ good → exec .interruptWrite s = .next (s.notify p 0x21 (BitVec.ofNat 64 i) (BitVec.ofNat 64 (rid % 65536)))) ∧
    (good → s.endpointWaits port (some rid) = false → (∀ x ∈ (s.part p).stalls, x.who ≠ .endpoint port rid) →
      (∀ w k, s.ofHandle p h = some (w, k) → exec .interruptWrite s = .next (s.countWeir w k (e / 2 ^ 48) 0 false (some {
        obj := .weir w k, live := true, scope := .sys, spot := s.spotOfWg w, ids := s.covered [.endpoint port] p (.weir w k) }))) ∧
      (s.ofHandle p h = none → exec .interruptWrite s = .next (s.notify p 0x22 h (BitVec.ofNat 64 i))))) ∧
  (∀ (s : State) (port rid p : Nat) (status : Word), s.cur = .event (.aerEvent port rid status) → s.portPart port = some p →
    exec .aerEvent s = .next (if (s.rp port).en = true then s.notify p 0x20 (BitVec.ofNat 64 (port * 2 ^ 40 + rid % 65536)) status else s)) ∧
  (∀ (s : State) (port p : Nat) (status : Word), s.cur = .event (.dpcTrigger port status) → s.portPart port = some p →
    exec .dpcTrigger s = .next (if (s.rp port).en = true ∧ (s.rp port).dpc = false
      then State.notify (s.setRp port { s.rp port with dpc := true, evt := true }) p 0x25 (BitVec.ofNat 64 port) status else s)) ∧
  (∀ (s : State) (port width speed : Nat) (up cxl flit : Bool), s.cur = .event (.rootPortLinkChange port up width speed cxl flit) →
    s.rpExists port = true → (s.rp port).up ≠ up →
    (up = true → (s.rp port).en = true → 1 ≤ width → width ≤ 16 → 1 ≤ speed → speed ≤ 7 → exec .rootPortLinkChange s =
      .next (s.setRp port { s.rp port with up := true, evt := true, width, speed, cxl, flit := flit && decide (6 ≤ speed) })) ∧
    (up = false → exec .rootPortLinkChange s =
      .next (s.setRp port { s.rp port with up := false, evt := true, width := 0, speed := 0, cxl := false, flit := false }))) ∧
  (∀ (s : State) (c p pa size len : Nat) (base t : BitVec 5) (off : Int) (op : Option (BitVec 5)) (signed : Bool) (answer : Option Nat),
    s.cur = .event (.configAccess c base off size len op signed t answer) → ((s.sc c).running = true ∧ (s.sc c).await = none) →
    len = 2 ∨ len = 4 → s.scPart c = some p →
    let lv := (s.sc c).reg base
    let va := BitVec.ofNat 64 lv.cur + BitVec.ofInt 64 off
    let port := (pa - 0x000F010000000000) / 0x10000000
    let good := (size = 1 ∨ size = 2 ∨ size = 4) ∧ pa % size = 0 ∧ (s.part p).rpmask.getLsbD port = true
    s.leveeCheck c lv (if op.isSome = true then rRD else rWR) va size = none →
    s.scAddr c lv (if op.isSome = true then .load else .store) va size = .ecam pa →
    (∀ d, op = some d → (¬ good → exec .configAccess s = .next (s.scTrap c 5 va)) ∧
      (good → exec .configAccess s = .next (State.scNext (s.send (.configRead pa size)) c d (.int (extend (8 * size) signed
        ((if s.rpExists port = true ∧ (s.rp port).usable = true then answer.getD (2 ^ 64 - 1) else 2 ^ 64 - 1) % 2 ^ (8 * size)))) len))) ∧
    (op = none → (¬ good → exec .configAccess s = .next (s.scTrap c 7 va)) ∧
      (good → exec .configAccess s = .next (State.setSc
        (if s.rpExists port = true ∧ (s.rp port).usable = true then s.send (.configWrite pa size (((s.sc c).reg t).cur % 2 ^ (8 * size))) else s)
        c ((s.sc c).step len))))) ∧
  (∀ (s : State) (p n : Nat), s.cur = .event (.sltsyncComplete p) → (s.part p).slt = some n → (∀ q ∈ s.cmds, n ≤ q.1) →
    exec .sltsyncComplete s = .next (s.modPart p fun x => { x with slt := none })) ∧
  (∀ (s : State) (p i : Nat), s.cur = .event (.scrubCheckStart p i) → i < 65536 → i < ((s.part p).io.getD 0x60 0).toNat →
    s.shardDue p i = true → (∀ y ∈ (s.part p).shards, y.index ≠ i) →
    let rate := ((s.part p).io.getD 0x68 0).toNat % 2 ^ 32
    Gives (exec .scrubCheckStart s) fun t =>
      t.mem = s.mem.putBytes (s.shardAt p i + 16) (toLe (s.shardCtl p i - (if (s.shardCtl p i).testBit 1 = true then 2 else 0)) 8) ∧
      t.fibres = s.fibres ∧ (t.part p).shards = (s.part p).shards ++
        [⟨i, s.gtime + (if rate = 0 then 0 else s.mem.read (s.shardAt p i + 8) 8 / rate)⟩]) ∧
  (∀ (s : State) (p i : Nat) (y : Shard), s.cur = .event (.shardCheckEnd p i) → (s.part p).shards = [y] → y.index = i →
    (s.gtime < y.due → exec .shardCheckEnd s = .next s) ∧
    (y.due ≤ s.gtime →
      let len := s.mem.read (s.shardAt p i + 8) 8
      let r := s.engParts p .load (pagesOf len) (BitVec.ofNat 64 (s.mem.read (s.shardAt p i) 8)) len
      (∀ k a, r = .error (.fault k a) → exec .shardCheckEnd s = .next (s.shardEnds p i 3 (some (0x24, k.code)))) ∧
      ∀ l, r = .ok l → s.scGates p false l = none → (∀ q ∈ l, s.dead q.x.pa q.n = false) →
        let u := l.foldl (fun u q => u.epUsed p q) s
        let d := sha384 (l.flatMap fun q => s.mem.bytes q.x.pa q.n)
        (d = u.mem.bytes (u.shardAt p i + 0x20) 48 → exec .shardCheckEnd s = .next (u.shardEnds p i 1 none)) ∧
        (d ≠ u.mem.bytes (u.shardAt p i + 0x20) 48 →
          exec .shardCheckEnd s = .next (u.shardEnds p i 2 (some (0x23, leNat (d.take 8)))))))

/-- R388, R393, R473, R475, R485, R486, R490, R491, R493 to R495, R498, R499: the events of memory, debugging and power: ALERT_BACKOFF_END
of the one bank in refresh management, PERIODIC_REFRESH, STACK_TEMPERATURE_CHANGE, DICINV_COMPLETE, SAMPLE_TRIGGER, SAMPLE_RECORD_WRITE,
POWER_ON, MGMT_RESET_COMMAND, FW_VERIFY_DONE, FW_COMMIT_DONE, RECOVERY_IMAGE, ATTESTATION_QUOTE, POWER_LOSS, CLOCK_STEP_APPLY,
JUNCTION_LIMIT_REACHED, THERMAL_STEP_DOWN, THERMAL_STEP_UP and THERMAL_TRIP; and SERVICE_CORE_ACCESS of an ordinary access to untranslated
memory without a directory entry, to a device, and of a load from a control register. -/
def Obligations.PowerEvents : Prop :=
  (∀ (s : State) (b : BankRef), (s.cur = .event (.alertBackoffEnd b) → ∀ t, s.busyBanks = [(b, t)] →
      (s.gtime < t → exec .alertBackoffEnd s = .next s) ∧
      (t ≤ s.gtime → s.backed = [] → exec .alertBackoffEnd s = .next { s with busyBanks := [] })) ∧
    (∀ row, s.cur = .event (.periodicRefresh b row) → exec .periodicRefresh s = .next (s.rowsReset b [row]))) ∧
  (∀ (s : State) (k t : Nat), s.cur = .event (.stackTemperatureChange k t) → k < 16 → t < 256 →
    let x := s.stack k
    let u (m : Nat) : State := { s with hbms := s.hbms.put k { x with temp := t, rmode := m } }
    let boundary (m : Nat) : Nat := 75 + 10 * m
    ∃ m ≤ 3, (m = x.rmode → exec .stackTemperatureChange s = .next (u m)) ∧
      (m ≠ x.rmode → exec .stackTemperatureChange s = .next ((u m).blackBox (k / 2) 4 true (k + m * 256))) ∧
      (m < 3 → t ≤ boundary (m + 1)) ∧ (x.rmode < m → boundary m < t) ∧
      (m < x.rmode → x.rmode ≤ 3 → t + 2 ≤ boundary (m + 1)) ∧ (0 < m → m ≤ x.rmode → boundary m < t + 2)) ∧
  (∀ (s : State) (d : Nat), s.cur = .event (.dicinvComplete d) →
    let x := s.die d
    exec .dicinvComplete s = .next (if x.icBusy = true then s.setDie d { x with
        icBusy := false, icSeq := (x.icSeq + 1) % 2 ^ 32
        stale := x.stale.filter fun y => decide (y.1 < x.icLine.toNat) || decide (x.icLine.toNat + 128 ≤ y.1) } else s)) ∧
  (∀ (s : State) (d core sch : Nat), s.cur = .event (.sampleTrigger d core sch) → d < 8 → core < 24 → sch < 4 →
    let k := s.lcore d core
    let n := 2 ^ (k.smpctl.toNat / 65536 % 32)
    k.smpctl.getLsbD 0 = true → k.smpleft.find? sch = some 0 → sch ∉ k.smparm → exec .sampleTrigger s = .next (s.setLcore d core
      { k with smparm := sch :: k.smparm, smpleft := k.smpleft.put sch (n + k.smpgen.toNat % n), smpgen := Config.sampleNext k.smpgen })) ∧
  (∀ (s : State) (d core sch level : Nat) (lat : List Nat) (t : SmpTag), s.cur = .event (.sampleRecordWrite d core sch lat level) →
    let k := s.lcore d core
    let n := k.smpbase.toNat % 32
    k.smptag.find? sch = some t →
    let room := 4 ≤ n ∧ n ≤ 16 ∧ (k.smptail + 2 ^ 32 - k.smphead % 2 ^ 32) % 2 ^ 32 < 2 ^ n
    (room → exec .sampleRecordWrite s = .next (State.setLcore
      (s.poke (k.smpbase.toNat / 4096 % 2 ^ 40 * 4096 + 64 * (k.smptail % 2 ^ n)) (s.sampleBytes d core sch t lat (min level 8))) d core
      { k with smptag := k.smptag.del sch, smptail := (k.smptail + 1) % 2 ^ 32 })) ∧
    (¬ room → exec .sampleRecordWrite s =
      .next (s.setLcore d core { k with smptag := k.smptag.del sch, smpovf := k.smpovf + 1 }))) ∧
  (∀ (s : State) (bad : Bool) (digests : List (List Byte)),
    s.cur = .event (.powerOn bad digests) ∨ s.cur = .event (.mgmtResetCommand true bad digests) →
    let boot : Boot :=
      { memready := !bad, warm := false, recov := bad || !s.boot.imageOk || !accepted s.boot.image, fw := 0, imageOk := s.boot.imageOk
        image := s.boot.image, staged := s.boot.staged
        measure := digests.foldl (fun m d => sha384 (m ++ d)) (List.replicate 48 0) }
    ∃ dies, (s.cur = .event (.powerOn bad digests) → exec .powerOn s = .next { State.reset with
        sched := s.sched, cur := s.cur, free := s.free, nextId := s.nextId, chip := s.chip, out := s.out, boot, dies }) ∧
      (s.cur = .event (.mgmtResetCommand true bad digests) → exec .mgmtResetCommand s = .next { State.reset with
        sched := s.sched, cur := s.cur, free := s.free, nextId := s.nextId, chip := s.chip, out := s.out, boot, dies }) ∧
      ∀ d < 8, dies.find? d = some { State.reset.die d with bbIdx := 1, bb := [(0, BitVec.ofNat 128
        ((2 * bit bad) * 2 ^ 64 + 2 ^ 56 + 7 * 2 ^ 48 + State.reset.gtime % 2 ^ 48))] }) ∧
  (∀ (s : State) (bad : Bool) (digests : List (List Byte)), s.cur = .event (.mgmtResetCommand false bad digests) →
    s.lines = [] → s.partials = [] → s.retired = [] → s.wgs = [] → Gives (exec .mgmtResetCommand s) fun t =>
      t.mem = s.mem ∧ t.tags = s.tags ∧ t.bad = s.bad ∧ t.lost = s.lost ∧ t.gtime = s.gtime ∧ t.chip = s.chip ∧ t.groups = s.groups ∧
      t.fibres = [] ∧ t.launches = [] ∧ t.cmds = [] ∧ t.scs = State.reset.scs ∧ t.boot.warm = true ∧ t.boot.fw = 0 ∧
      t.boot.memready = (!bad) ∧ t.boot.image = s.boot.image ∧ t.boot.imageOk = s.boot.imageOk ∧
      (∀ p, s.parts.find? p ≠ none → t.part p = Part.start (s.part p).valid (s.part p).dies (s.part p).scs) ∧
      ∀ d < 8, (t.die d).temp = (s.die d).temp ∧ (t.die d).links = ((s.die d).links.mapVal fun _ w => w &&& 0xFF01) ∧
        (t.die d).clk = (s.die d).clk ∧
        (t.die d).bbIdx = ((s.die d).bbIdx + 1) % 2 ^ 32) ∧
  (∀ (s : State),
    (s.cur = .event .fwVerifyDone → exec .fwVerifyDone s =
      .next (if s.boot.fw = 1 then { s with boot := { s.boot with fw := if accepted s.boot.staged = true then 2 else 3 } } else s)) ∧
    (s.cur = .event .fwCommitDone → exec .fwCommitDone s =
      .next (if s.boot.fw = 4 then { s with boot := { s.boot with fw := 0, image := s.boot.staged, imageOk := true } } else s)) ∧
    (∀ image, s.cur = .event (.recoveryImage image) → exec .recoveryImage s =
      .next (if s.boot.recov = true ∧ accepted image = true then { s with boot := { s.boot with image, imageOk := true } } else s)) ∧
    (∀ nonce, s.cur = .event (.attestationQuote nonce) → Gives (exec .attestationQuote s) fun t =>
      ∃ a b, t = { s with out := s.out ++ [.quote (s.boot.measure ++ nonce) a b] }) ∧
    (s.cur = .event .powerLoss → Gives (exec .powerLoss s) fun t => t.mem = [] ∧ t.fibres = [] ∧ t.wgs = [] ∧ t.cmds = [] ∧
      (∀ n, (t.sc n).running = true → t.scs.find? n = none) ∧ t.boot.image = s.boot.image ∧
      (t.boot.imageOk = true ↔ s.boot.imageOk = true ∧ s.boot.fw ≠ 4))) ∧
  (∀ (s : State) (d : Nat), s.cur = .event (.clockStepApply d none) → (∀ t l, (s.die d).changes = t :: l → s.gtime < t) →
    exec .clockStepApply s = .next s) ∧
  (∀ (s : State) (d low : Nat) (rest : List Nat) (others : Option Nat), s.cur = .event (.clockStepApply d others) → d < 8 →
    ((∃ t ≤ s.gtime, (s.die d).changes = t :: rest) ∨
      (others.isSome = true ∧ (s.die d).group ≠ 0 ∧ rest = (s.die d).changes ∧ ∀ t l, rest = t :: l → s.gtime < t)) →
    let mate (e : Nat) : Prop := e < 8 ∧ (e = d ∨ ((s.die d).group ≠ 0 ∧ (s.die e).group = (s.die d).group))
    let far (o : Nat) : Prop := others = some o ∧ (s.die d).group ≠ 0
    (∀ e, mate e → low ≤ min (s.die e).cap (s.die e).limit) → (∀ o, far o → low ≤ o) →
    ((∃ e, mate e ∧ low = min (s.die e).cap (s.die e).limit) ∨ far low) →
    Gives (exec .clockStepApply s) fun u => u.mem = s.mem ∧ (u.die d).cur = low ∧ (u.die d).changes = rest ∧
      (∀ e, e ≠ d → u.die e = s.die e) ∧
      (u.die d).bbIdx = if low = (s.die d).cur then (s.die d).bbIdx else ((s.die d).bbIdx + 1) % 2 ^ 32) ∧
  (∀ (s : State) (d t : Nat), d < 8 →
    let x := s.die d
    (s.cur = .event (.junctionLimitReached d t) → 105 ≤ t → (x.hot = false ∨ x.temp < 102) → exec .junctionLimitReached s =
      .next (limitStep s d { x with temp := t, hot := true, limit := max 40 (x.cur - 1), stepAt := s.gtime })) ∧
    (s.cur = .event (.thermalStepDown d t) → x.hot = true → 102 ≤ t → 100000 ≤ s.gtime - x.stepAt → exec .thermalStepDown s =
      .next (limitStep s d { x with temp := t, limit := max 40 (x.limit - 1), stepAt := s.gtime })) ∧
    (s.cur = .event (.thermalStepUp d t) → x.limit < 80 → (x.hot = false ∨ t < 102) → t < 105 → 1000000 ≤ s.gtime - x.stepAt →
      exec .thermalStepUp s = .next (limitStep s d { x with temp := t, hot := false, limit := x.limit + 1, stepAt := s.gtime })) ∧
    (∀ bad digests, s.cur = .event (.thermalTrip d t bad digests) → 115 ≤ t → exec .thermalTrip s =
      .next (State.warmReset ((s.setDie d { x with temp := t }).blackBox d 6 true t) bad digests))) ∧
  (∀ (s : State) (d : Nat) (x : Die), x.group = 0 →
    let a := min (s.die d).cap (s.die d).limit
    let b := min x.cap x.limit
    (b = a → limitStep s d x = s.setDie d x) ∧
    (b ≠ a → (limitStep s d x).die d = { x with
        cur := b
        bbIdx := if b = x.cur then x.bbIdx else (x.bbIdx + 1) % 2 ^ 32
        bb := if b = x.cur then x.bb else x.bb.put (x.bbIdx % 256)
          (BitVec.ofNat 128 ((x.cur + 256 * b) % 2 ^ 64 * 2 ^ 64 + 2 ^ 56 + 5 * 2 ^ 48 + s.gtime % 2 ^ 48)) } ∧
      ∀ e, e ≠ d → (limitStep s d x).die e = s.die e)) ∧
  (∀ (s : State) (c len k : Nat) (base : BitVec 5) (off : Int), s.cur = .event (.serviceCoreAccess c base off len .fetch) →
    (s.sc c).ready = true → (len = 2 ∨ len = 4) → (s.sc c).pc.check rFX (BitVec.ofNat 64 (s.sc c).pc.cur).toNat 4 = some k →
    exec .serviceCoreAccess s = .next (s.scTrap c 28 (BitVec.ofNat 64 (s.sc c).pc.cur) (some k))) ∧
  (∀ (s : State) (c p len : Nat) (base : BitVec 5) (off : Int) (op : ScOp), s.cur = .event (.serviceCoreAccess c base off len op) →
    (s.sc c).ready = true → (len = 2 ∨ len = 4) → op ≠ .fetch → scForm op = true → s.scPart c = some p →
    let lv := (s.sc c).reg base
    let va := BitVec.ofNat 64 lv.cur + BitVec.ofInt 64 off
    let n := scSize op
    (∀ k ∈ s.leveeCheck c lv (scNeed op) va n, exec .serviceCoreAccess s = .next (s.scTrap c 28 va (some k))) ∧
    (s.leveeCheck c lv (scNeed op) va n = none →
      (scAtomic op = true → va.toNat % n ≠ 0 →
        exec .serviceCoreAccess s = .next (s.scTrap c (if ScOp.kind op = .load then 4 else 6) va)) ∧
      (∀ (pa : Nat) (x : Option Xl), va.toNat % n = 0 → s.scAddr c lv (ScOp.kind op) va n = .mem pa x → s.lines = [] →
        (s.sc c).translates ScKind.load = false → (s.sc c).translates ScKind.store = false →
        let held (y : Sc) (u : State) : Sc := { y with acqIds := (u.sc c).acqIds }
        let read (v : Nat) (signed : Bool) : Levee := .int (extend (8 * n) signed v)
        let plain := s.unseen (.service c) pa n = [] ∧ s.dead pa n = false
        (∀ signed d aq, op = .load n signed d aq → plain → Gives (exec .serviceCoreAccess s) fun u => u.mem = s.mem ∧
          u.fibres = s.fibres ∧ u.sc c = held (((s.sc c).setReg d (read (s.mem.read pa n) signed)).step len) u) ∧
        (∀ d, op = .fload n d → plain → Gives (exec .serviceCoreAccess s) fun u => u.mem = s.mem ∧ u.fibres = s.fibres ∧
          u.sc c = held (((s.sc c).setF d n (s.mem.read pa n)).step len) u) ∧
        (∀ t rl, op = .store n t rl → (s.part p).stalls = [] → s.bad = [] → s.lost = [] → Gives (exec .serviceCoreAccess s) fun u =>
          u.mem = s.mem.putBytes pa (toLe ((s.sc c).reg t).cur n) ∧ u.fibres = s.fibres ∧
          u.sc c = { (s.sc c).step len with relMark := false }) ∧
        (∀ t, op = .fstore n t → (s.part p).stalls = [] → s.bad = [] → s.lost = [] → Gives (exec .serviceCoreAccess s) fun u =>
          u.mem = s.mem.putBytes pa (toLe ((s.sc c).f.getD t.toNat 0) n) ∧ u.fibres = s.fibres ∧
          u.sc c = { (s.sc c).step len with relMark := false }) ∧
        (∀ d aq, op = .lr n d aq → s.dead pa n = false → Gives (exec .serviceCoreAccess s) fun u => u.mem = s.mem ∧
          u.resvs = s.resvs.put c (pa, n) ∧ u.sc c = held (((s.sc c).setReg d (read (s.mem.read pa n) true)).step len) u) ∧
        (∀ d t rl, op = .sc n d t rl → s.resvs.find? c ≠ some (pa, n) → exec .serviceCoreAccess s =
          .next { s.scNext c d (.int 1) len with resvs := s.resvs.del c }) ∧
        (∀ d t rl, op = .sc n d t rl → s.resvs.find? c = some (pa, n) → (s.part p).stalls = [] → s.bad = [] → s.lost = [] →
          Gives (exec .serviceCoreAccess s) fun u => u.mem = s.mem.putBytes pa (toLe ((s.sc c).reg t).cur n) ∧
            u.resvs = Tbl.del (unreserve s.resvs pa n) c ∧ u.sc c = { ((s.sc c).setReg d (.int 0)).step len with relMark := false }) ∧
        (∀ a signed d t aq rl, op = .amo a n signed d t aq rl → s.dead pa n = false → (s.part p).stalls = [] → s.bad = [] → s.lost = [] →
          Gives (exec .serviceCoreAccess s) fun u =>
            u.sc c = held { ((s.sc c).setReg d (read (s.mem.read pa n) true)).step len with relMark := false } u ∧
            u.mem = (match atomNew a (amoWidth n signed) (s.mem.read pa n) (((s.sc c).reg t).cur % 2 ^ (8 * n)) 0 with
              | some x => s.mem.putBytes pa (toLe x n)
              | none => s.mem))) ∧
      (∀ pa, s.scAddr c lv (ScOp.kind op) va n = .device pa → s.lines = [] →
        let own := ∃ k, barPort pa = some k ∧ (s.part p).rpmask.getLsbD k = true
        (¬ own → (scAtomic op = true → va.toNat % n = 0) → exec .serviceCoreAccess s = .next (s.scTrap c (ScOp.kind op).accessFault va)) ∧
        (∀ signed d aq, own → op = .load n signed d aq → exec .serviceCoreAccess s = .next (if s.ioUsable pa = true
          then State.scNext (s.send (.ioRead 0 pa n)).drawn c d (scInt n signed (Config.deviceRead s.free)) len
          else s.scNext c d (scInt n signed (2 ^ 64 - 1)) len)) ∧
        (∀ t rl, own → op = .store n t rl → exec .serviceCoreAccess s = .next (State.setSc
          (if s.ioUsable pa = true then s.send (.ioWrite pa n (((s.sc c).reg t).cur % 2 ^ (8 * n))) else s) c ((s.sc c).step len)))) ∧
      (∀ pa signed d aq, s.scAddr c lv .load va n = .ctl pa → op = .load n signed d aq →
        (n ≠ 8 ∨ pa % 8 ≠ 0 ∨ s.ctlReach p pa = false → exec .serviceCoreAccess s = .next (s.scTrap c 5 va)) ∧
        (n = 8 → pa % 8 = 0 → s.ctlReach p pa = true → exec .serviceCoreAccess s =
          .next (State.scNext (s.sawTail c p pa) c d (.int (BitVec.ofNat 64 (s.ctlRead pa))) len)))))
end

