-- ==== Sys2Proof/Laws/Mem.lean ====
section
/-! SUPPORT. The laws of byte memories and of tables: what a read gives after a write, and that every memory
operation keeps the canonical form. -/

namespace Sys2Proof

/-! ## Tables -/

/-- A put is read back. -/
@[simp] theorem Tbl.find?_put_self {α : Type} (t : Tbl α) (k : Nat) (v : α) : (t.put k v).find? k = some v := by
  induction t with
  | nil => simp [Tbl.put, Tbl.find?]
  | cons p t ih =>
    obtain ⟨j, w⟩ := p
    simp only [Tbl.put]
    split
    · simp [Tbl.find?]
    · split
      · simp [Tbl.find?]
      · simp only [Tbl.find?]
        rw [if_neg (by assumption), if_neg (by assumption), ih]

/-- A put leaves every other key alone. -/
theorem Tbl.find?_put_of_ne {α : Type} (t : Tbl α) {k i : Nat} (v : α) (h : i ≠ k) : (t.put k v).find? i = t.find? i := by
  induction t with
  | nil =>
    simp only [Tbl.put, Tbl.find?]
    rw [if_neg (by omega)]
    split <;> rfl
  | cons p t ih =>
    obtain ⟨j, w⟩ := p
    simp only [Tbl.put]
    split
    · subst_vars
      simp [Tbl.find?, Ne.symm h]
    · split
      · simp only [Tbl.find?]
        rw [if_neg (by omega)]
        split
        · rw [if_neg (by omega), if_pos (by omega)]
        · rfl
      · simp only [Tbl.find?, ih]

/-- What a table reads after a put. -/
theorem Tbl.find?_put {α : Type} (t : Tbl α) (k i : Nat) (v : α) :
    (t.put k v).find? i = if i = k then some v else t.find? i := by
  split
  · subst_vars; simp
  · exact Tbl.find?_put_of_ne t v (by assumption)

/-- A default read after a put. -/
theorem Tbl.getD_put {α : Type} (t : Tbl α) (k i : Nat) (v d : α) :
    (t.put k v).getD i d = if i = k then v else t.getD i d := by
  simp only [Tbl.getD, Tbl.find?_put]
  split <;> rfl

/-- A put keeps the keys strictly rising. -/
theorem Tbl.sorted_put {α : Type} (t : Tbl α) (k : Nat) (v : α) (h : t.sorted = true) : (t.put k v).sorted = true := by
  induction t with
  | nil => rfl
  | cons p t ih =>
    obtain ⟨j, w⟩ := p
    simp only [Tbl.put]
    split
    · subst_vars
      cases t with
      | nil => rfl
      | cons q t => simpa [Tbl.sorted] using h
    · split
      · simp [Tbl.sorted, h]; omega
      · cases t with
        | nil => simp [Tbl.put, Tbl.sorted]; omega
        | cons q t =>
          simp only [Tbl.sorted, Bool.and_eq_true, decide_eq_true_eq] at h
          have := ih h.2
          simp only [Tbl.put] at this ⊢
          split
          · simp_all [Tbl.sorted]
          · split
            · simp_all [Tbl.sorted]; omega
            · simp_all [Tbl.sorted]

namespace Machine

/-! ## Byte memories -/

/-- A byte put is read back. -/
@[simp] theorem Mem.get_put_self (m : Mem) (a : Nat) (v : Byte) (h : m.wf = true) : (m.put a v).get a = v := by
  induction m with
  | nil =>
    simp only [Mem.put]
    split <;> simp_all [Mem.get]
  | cons p m ih =>
    obtain ⟨b, w⟩ := p
    have hm : Mem.wf m = true := by cases m <;> simp_all [Mem.wf]
    simp only [Mem.put]
    split
    · subst_vars
      split
      · subst_vars
        cases m with
        | nil => rfl
        | cons q m =>
          simp only [Mem.wf, Bool.and_eq_true, decide_eq_true_eq] at h
          simp only [Mem.get]
          rw [if_neg (by omega), if_pos (by omega)]
      · simp [Mem.get]
    · split
      · split
        · subst_vars
          simp only [Mem.get]
          rw [if_neg (by assumption), if_pos (by assumption)]
        · simp [Mem.get]
      · simp only [Mem.get]
        rw [if_neg (by assumption), if_neg (by assumption), ih hm]

/-- A byte put leaves every other byte alone. -/
theorem Mem.get_put_of_ne (m : Mem) {a i : Nat} (v : Byte) (hm : m.wf = true) (h : i ≠ a) : (m.put a v).get i = m.get i := by
  induction m with
  | nil =>
    simp only [Mem.put]
    split
    · rfl
    · simp only [Mem.get]
      rw [if_neg (by omega)]
      split <;> rfl
  | cons p m ih =>
    obtain ⟨b, w⟩ := p
    have hw : Mem.wf m = true := by cases m <;> simp_all [Mem.wf]
    simp only [Mem.put]
    split
    · subst_vars
      split
      · simp only [Mem.get]
        rw [if_neg (Ne.symm h)]
        split
        · cases m with
          | nil => rfl
          | cons q m =>
            simp only [Mem.wf, Bool.and_eq_true, decide_eq_true_eq] at hm
            simp only [Mem.get]
            rw [if_neg (by omega), if_pos (by omega)]
        · rfl
      · simp [Mem.get, Ne.symm h]
    · split
      · split
        · rfl
        · simp only [Mem.get]
          rw [if_neg (by omega)]
          split
          · rw [if_neg (by omega), if_pos (by omega)]
          · rfl
      · simp only [Mem.get, ih hw]

/-- A byte put keeps the canonical form. -/
theorem Mem.wf_put (m : Mem) (a : Nat) (v : Byte) (h : m.wf = true) : (m.put a v).wf = true := by
  induction m with
  | nil =>
    simp only [Mem.put]
    split <;> simp_all [Mem.wf]
  | cons p m ih =>
    obtain ⟨b, w⟩ := p
    have hm : Mem.wf m = true := by cases m <;> simp_all [Mem.wf]
    simp only [Mem.put]
    split
    · subst_vars
      split
      · exact hm
      · cases m <;> simp_all [Mem.wf]
    · split
      · split
        · exact h
        · simp_all [Mem.wf]
      · cases m with
        | nil =>
          simp only [Mem.put]
          split
          · exact h
          · simp_all [Mem.wf]; omega
        | cons q m =>
          obtain ⟨d, x⟩ := q
          simp only [Mem.wf, Bool.and_eq_true, decide_eq_true_eq] at h
          have := ih hm
          simp only [Mem.put] at this ⊢
          split
          · subst_vars
            split
            · cases m with
              | nil => simp_all [Mem.wf]
              | cons r m => simp_all [Mem.wf]; omega
            · simp_all [Mem.wf]
          · split
            · split
              · simp_all [Mem.wf]
              · simp_all [Mem.wf]; omega
            · simp_all [Mem.wf]

/-- A put of bytes keeps the canonical form. -/
theorem Mem.wf_putBytes (m : Mem) (a : Nat) (l : List Byte) (h : m.wf = true) : (m.putBytes a l).wf = true := by
  induction l generalizing m a with
  | nil => exact h
  | cons v l ih => exact ih _ _ (Mem.wf_put m a v h)

/-- A write keeps the canonical form. -/
theorem Mem.wf_write (m : Mem) (a n x : Nat) (h : m.wf = true) : (m.write a n x).wf = true :=
  Mem.wf_putBytes m a _ h

/-- A byte outside the bytes put is unchanged. -/
theorem Mem.get_putBytes_of_out (m : Mem) (a i : Nat) (l : List Byte) (hm : m.wf = true) (h : i < a ∨ a + l.length ≤ i) :
    (m.putBytes a l).get i = m.get i := by
  induction l generalizing m a with
  | nil => rfl
  | cons v l ih =>
    simp only [List.length_cons] at h
    rw [Mem.putBytes, ih _ _ (Mem.wf_put m a v hm) (by omega), Mem.get_put_of_ne m v hm (by omega)]

/-- A byte among the bytes put is read back. -/
theorem Mem.get_putBytes (m : Mem) (a i : Nat) (l : List Byte) (hm : m.wf = true) (h : i < l.length) :
    (m.putBytes a l).get (a + i) = l.getD i 0 := by
  induction l generalizing m a i with
  | nil => simp at h
  | cons v l ih =>
    rw [Mem.putBytes]
    cases i with
    | zero =>
      rw [Mem.get_putBytes_of_out _ _ _ _ (Mem.wf_put m a v hm) (by omega)]
      simp [hm]
    | succ i =>
      rw [show a + (i + 1) = a + 1 + i by omega, ih _ _ i (Mem.wf_put m a v hm) (by simpa using h)]
      simp

/-- The bytes put are read back. -/
theorem Mem.bytes_putBytes (m : Mem) (a : Nat) (l : List Byte) (hm : m.wf = true) :
    (m.putBytes a l).bytes a l.length = l := by
  induction l generalizing m a with
  | nil => rfl
  | cons v l ih =>
    have hp := Mem.wf_put m a v hm
    simp only [List.length_cons, Mem.bytes, Mem.putBytes]
    rw [ih _ _ hp, Mem.get_putBytes_of_out _ _ _ _ hp (by omega)]
    simp [hm]

/-- The length of a little-endian value. -/
@[simp] theorem length_toLe (x n : Nat) : (toLe x n).length = n := by
  induction n generalizing x with
  | zero => rfl
  | succ n ih => simp [toLe, ih]

/-- Little-endian bytes stand for the value they were made from. -/
theorem leNat_toLe (x n : Nat) : leNat (toLe x n) = x % 256 ^ n := by
  induction n generalizing x with
  | zero => simp [toLe, leNat, Nat.mod_one]
  | succ n ih =>
    simp only [toLe, leNat, ih, BitVec.toNat_ofNat]
    rw [show 256 ^ (n + 1) = 256 * 256 ^ n by rw [Nat.pow_succ, Nat.mul_comm], Nat.mod_mul]

/-- A write is read back. -/
theorem Mem.read_write (m : Mem) (a n x : Nat) (hm : m.wf = true) : (m.write a n x).read a n = x % 256 ^ n := by
  have := Mem.bytes_putBytes m a (toLe x n) hm
  rw [length_toLe] at this
  rw [Mem.read, Mem.write, this, leNat_toLe]

/-- A poke keeps the canonical form of physical memory. -/
theorem State.wf_poke (s : State) (a : Nat) (l : List Byte) (h : Mem.wf s.mem = true) : Mem.wf (s.poke a l).mem = true :=
  Mem.wf_putBytes s.mem a l h

end Machine

end Sys2Proof
end

