-- ==== Sys2Proof/Laws/State.lean ====
section
/-! SUPPORT. What each named update of the state does to each field. -/

namespace Sys2Proof.Machine

/-! State.setFib -/
@[simp] theorem State.setFib_sched (s : State) (f : Nat) (x : Fibre) : (s.setFib f x).sched = s.sched := rfl
@[simp] theorem State.setFib_cur (s : State) (f : Nat) (x : Fibre) : (s.setFib f x).cur = s.cur := rfl
@[simp] theorem State.setFib_batch (s : State) (f : Nat) (x : Fibre) : (s.setFib f x).batch = s.batch := rfl
@[simp] theorem State.setFib_free (s : State) (f : Nat) (x : Fibre) : (s.setFib f x).free = s.free := rfl
@[simp] theorem State.setFib_nextId (s : State) (f : Nat) (x : Fibre) : (s.setFib f x).nextId = s.nextId := rfl
@[simp] theorem State.setFib_moment (s : State) (f : Nat) (x : Fibre) : (s.setFib f x).moment = s.moment := rfl
@[simp] theorem State.setFib_gtime (s : State) (f : Nat) (x : Fibre) : (s.setFib f x).gtime = s.gtime := rfl
@[simp] theorem State.setFib_chip (s : State) (f : Nat) (x : Fibre) : (s.setFib f x).chip = s.chip := rfl
@[simp] theorem State.setFib_mem (s : State) (f : Nat) (x : Fibre) : (s.setFib f x).mem = s.mem := rfl
@[simp] theorem State.setFib_past (s : State) (f : Nat) (x : Fibre) : (s.setFib f x).past = s.past := rfl
@[simp] theorem State.setFib_pastN (s : State) (f : Nat) (x : Fibre) : (s.setFib f x).pastN = s.pastN := rfl
@[simp] theorem State.setFib_rels (s : State) (f : Nat) (x : Fibre) : (s.setFib f x).rels = s.rels := rfl
@[simp] theorem State.setFib_tags (s : State) (f : Nat) (x : Fibre) : (s.setFib f x).tags = s.tags := rfl
@[simp] theorem State.setFib_bad (s : State) (f : Nat) (x : Fibre) : (s.setFib f x).bad = s.bad := rfl
@[simp] theorem State.setFib_lost (s : State) (f : Nat) (x : Fibre) : (s.setFib f x).lost = s.lost := rfl
@[simp] theorem State.setFib_lines (s : State) (f : Nat) (x : Fibre) : (s.setFib f x).lines = s.lines := rfl
@[simp] theorem State.setFib_partials (s : State) (f : Nat) (x : Fibre) : (s.setFib f x).partials = s.partials := rfl
@[simp] theorem State.setFib_lockMsgs (s : State) (f : Nat) (x : Fibre) : (s.setFib f x).lockMsgs = s.lockMsgs := rfl
@[simp] theorem State.setFib_guests (s : State) (f : Nat) (x : Fibre) : (s.setFib f x).guests = s.guests := rfl
@[simp] theorem State.setFib_tableWait (s : State) (f : Nat) (x : Fibre) : (s.setFib f x).tableWait = s.tableWait := rfl
@[simp] theorem State.setFib_tlb (s : State) (f : Nat) (x : Fibre) : (s.setFib f x).tlb = s.tlb := rfl
@[simp] theorem State.setFib_sets (s : State) (f : Nat) (x : Fibre) : (s.setFib f x).sets = s.sets := rfl
@[simp] theorem State.setFib_rows (s : State) (f : Nat) (x : Fibre) : (s.setFib f x).rows = s.rows := rfl
@[simp] theorem State.setFib_busyBanks (s : State) (f : Nat) (x : Fibre) : (s.setFib f x).busyBanks = s.busyBanks := rfl
@[simp] theorem State.setFib_backed (s : State) (f : Nat) (x : Fibre) : (s.setFib f x).backed = s.backed := rfl
@[simp] theorem State.setFib_hbms (s : State) (f : Nat) (x : Fibre) : (s.setFib f x).hbms = s.hbms := rfl
@[simp] theorem State.setFib_retired (s : State) (f : Nat) (x : Fibre) : (s.setFib f x).retired = s.retired := rfl
@[simp] theorem State.setFib_cores (s : State) (f : Nat) (x : Fibre) : (s.setFib f x).cores = s.cores := rfl
@[simp] theorem State.setFib_dies (s : State) (f : Nat) (x : Fibre) : (s.setFib f x).dies = s.dies := rfl
@[simp] theorem State.setFib_parts (s : State) (f : Nat) (x : Fibre) : (s.setFib f x).parts = s.parts := rfl
@[simp] theorem State.setFib_scs (s : State) (f : Nat) (x : Fibre) : (s.setFib f x).scs = s.scs := rfl
@[simp] theorem State.setFib_resvs (s : State) (f : Nat) (x : Fibre) : (s.setFib f x).resvs = s.resvs := rfl
@[simp] theorem State.setFib_launches (s : State) (f : Nat) (x : Fibre) : (s.setFib f x).launches = s.launches := rfl
@[simp] theorem State.setFib_wgs (s : State) (f : Nat) (x : Fibre) : (s.setFib f x).wgs = s.wgs := rfl
@[simp] theorem State.setFib_fibres (s : State) (f : Nat) (x : Fibre) : (s.setFib f x).fibres = s.fibres.put f x := rfl
@[simp] theorem State.setFib_cmds (s : State) (f : Nat) (x : Fibre) : (s.setFib f x).cmds = s.cmds := rfl
@[simp] theorem State.setFib_ports (s : State) (f : Nat) (x : Fibre) : (s.setFib f x).ports = s.ports := rfl
@[simp] theorem State.setFib_nlfto (s : State) (f : Nat) (x : Fibre) : (s.setFib f x).nlfto = s.nlfto := rfl
@[simp] theorem State.setFib_windows (s : State) (f : Nat) (x : Fibre) : (s.setFib f x).windows = s.windows := rfl
@[simp] theorem State.setFib_sct (s : State) (f : Nat) (x : Fibre) : (s.setFib f x).sct = s.sct := rfl
@[simp] theorem State.setFib_sctLock (s : State) (f : Nat) (x : Fibre) : (s.setFib f x).sctLock = s.sctLock := rfl
@[simp] theorem State.setFib_groups (s : State) (f : Nat) (x : Fibre) : (s.setFib f x).groups = s.groups := rfl
@[simp] theorem State.setFib_snoop (s : State) (f : Nat) (x : Fibre) : (s.setFib f x).snoop = s.snoop := rfl
@[simp] theorem State.setFib_severed (s : State) (f : Nat) (x : Fibre) : (s.setFib f x).severed = s.severed := rfl
@[simp] theorem State.setFib_rpMode (s : State) (f : Nat) (x : Fibre) : (s.setFib f x).rpMode = s.rpMode := rfl
@[simp] theorem State.setFib_rps (s : State) (f : Nat) (x : Fibre) : (s.setFib f x).rps = s.rps := rfl
@[simp] theorem State.setFib_atsOff (s : State) (f : Nat) (x : Fibre) : (s.setFib f x).atsOff = s.atsOff := rfl
@[simp] theorem State.setFib_atsFns (s : State) (f : Nat) (x : Fibre) : (s.setFib f x).atsFns = s.atsFns := rfl
@[simp] theorem State.setFib_boot (s : State) (f : Nat) (x : Fibre) : (s.setFib f x).boot = s.boot := rfl
@[simp] theorem State.setFib_out (s : State) (f : Nat) (x : Fibre) : (s.setFib f x).out = s.out := rfl

/-! State.setWg -/
@[simp] theorem State.setWg_sched (s : State) (w : Nat) (x : Wg) : (s.setWg w x).sched = s.sched := rfl
@[simp] theorem State.setWg_cur (s : State) (w : Nat) (x : Wg) : (s.setWg w x).cur = s.cur := rfl
@[simp] theorem State.setWg_batch (s : State) (w : Nat) (x : Wg) : (s.setWg w x).batch = s.batch := rfl
@[simp] theorem State.setWg_free (s : State) (w : Nat) (x : Wg) : (s.setWg w x).free = s.free := rfl
@[simp] theorem State.setWg_nextId (s : State) (w : Nat) (x : Wg) : (s.setWg w x).nextId = s.nextId := rfl
@[simp] theorem State.setWg_moment (s : State) (w : Nat) (x : Wg) : (s.setWg w x).moment = s.moment := rfl
@[simp] theorem State.setWg_gtime (s : State) (w : Nat) (x : Wg) : (s.setWg w x).gtime = s.gtime := rfl
@[simp] theorem State.setWg_chip (s : State) (w : Nat) (x : Wg) : (s.setWg w x).chip = s.chip := rfl
@[simp] theorem State.setWg_mem (s : State) (w : Nat) (x : Wg) : (s.setWg w x).mem = s.mem := rfl
@[simp] theorem State.setWg_past (s : State) (w : Nat) (x : Wg) : (s.setWg w x).past = s.past := rfl
@[simp] theorem State.setWg_pastN (s : State) (w : Nat) (x : Wg) : (s.setWg w x).pastN = s.pastN := rfl
@[simp] theorem State.setWg_rels (s : State) (w : Nat) (x : Wg) : (s.setWg w x).rels = s.rels := rfl
@[simp] theorem State.setWg_tags (s : State) (w : Nat) (x : Wg) : (s.setWg w x).tags = s.tags := rfl
@[simp] theorem State.setWg_bad (s : State) (w : Nat) (x : Wg) : (s.setWg w x).bad = s.bad := rfl
@[simp] theorem State.setWg_lost (s : State) (w : Nat) (x : Wg) : (s.setWg w x).lost = s.lost := rfl
@[simp] theorem State.setWg_lines (s : State) (w : Nat) (x : Wg) : (s.setWg w x).lines = s.lines := rfl
@[simp] theorem State.setWg_partials (s : State) (w : Nat) (x : Wg) : (s.setWg w x).partials = s.partials := rfl
@[simp] theorem State.setWg_lockMsgs (s : State) (w : Nat) (x : Wg) : (s.setWg w x).lockMsgs = s.lockMsgs := rfl
@[simp] theorem State.setWg_guests (s : State) (w : Nat) (x : Wg) : (s.setWg w x).guests = s.guests := rfl
@[simp] theorem State.setWg_tableWait (s : State) (w : Nat) (x : Wg) : (s.setWg w x).tableWait = s.tableWait := rfl
@[simp] theorem State.setWg_tlb (s : State) (w : Nat) (x : Wg) : (s.setWg w x).tlb = s.tlb := rfl
@[simp] theorem State.setWg_sets (s : State) (w : Nat) (x : Wg) : (s.setWg w x).sets = s.sets := rfl
@[simp] theorem State.setWg_rows (s : State) (w : Nat) (x : Wg) : (s.setWg w x).rows = s.rows := rfl
@[simp] theorem State.setWg_busyBanks (s : State) (w : Nat) (x : Wg) : (s.setWg w x).busyBanks = s.busyBanks := rfl
@[simp] theorem State.setWg_backed (s : State) (w : Nat) (x : Wg) : (s.setWg w x).backed = s.backed := rfl
@[simp] theorem State.setWg_hbms (s : State) (w : Nat) (x : Wg) : (s.setWg w x).hbms = s.hbms := rfl
@[simp] theorem State.setWg_retired (s : State) (w : Nat) (x : Wg) : (s.setWg w x).retired = s.retired := rfl
@[simp] theorem State.setWg_cores (s : State) (w : Nat) (x : Wg) : (s.setWg w x).cores = s.cores := rfl
@[simp] theorem State.setWg_dies (s : State) (w : Nat) (x : Wg) : (s.setWg w x).dies = s.dies := rfl
@[simp] theorem State.setWg_parts (s : State) (w : Nat) (x : Wg) : (s.setWg w x).parts = s.parts := rfl
@[simp] theorem State.setWg_scs (s : State) (w : Nat) (x : Wg) : (s.setWg w x).scs = s.scs := rfl
@[simp] theorem State.setWg_resvs (s : State) (w : Nat) (x : Wg) : (s.setWg w x).resvs = s.resvs := rfl
@[simp] theorem State.setWg_launches (s : State) (w : Nat) (x : Wg) : (s.setWg w x).launches = s.launches := rfl
@[simp] theorem State.setWg_wgs (s : State) (w : Nat) (x : Wg) : (s.setWg w x).wgs = s.wgs.put w x := rfl
@[simp] theorem State.setWg_fibres (s : State) (w : Nat) (x : Wg) : (s.setWg w x).fibres = s.fibres := rfl
@[simp] theorem State.setWg_cmds (s : State) (w : Nat) (x : Wg) : (s.setWg w x).cmds = s.cmds := rfl
@[simp] theorem State.setWg_ports (s : State) (w : Nat) (x : Wg) : (s.setWg w x).ports = s.ports := rfl
@[simp] theorem State.setWg_nlfto (s : State) (w : Nat) (x : Wg) : (s.setWg w x).nlfto = s.nlfto := rfl
@[simp] theorem State.setWg_windows (s : State) (w : Nat) (x : Wg) : (s.setWg w x).windows = s.windows := rfl
@[simp] theorem State.setWg_sct (s : State) (w : Nat) (x : Wg) : (s.setWg w x).sct = s.sct := rfl
@[simp] theorem State.setWg_sctLock (s : State) (w : Nat) (x : Wg) : (s.setWg w x).sctLock = s.sctLock := rfl
@[simp] theorem State.setWg_groups (s : State) (w : Nat) (x : Wg) : (s.setWg w x).groups = s.groups := rfl
@[simp] theorem State.setWg_snoop (s : State) (w : Nat) (x : Wg) : (s.setWg w x).snoop = s.snoop := rfl
@[simp] theorem State.setWg_severed (s : State) (w : Nat) (x : Wg) : (s.setWg w x).severed = s.severed := rfl
@[simp] theorem State.setWg_rpMode (s : State) (w : Nat) (x : Wg) : (s.setWg w x).rpMode = s.rpMode := rfl
@[simp] theorem State.setWg_rps (s : State) (w : Nat) (x : Wg) : (s.setWg w x).rps = s.rps := rfl
@[simp] theorem State.setWg_atsOff (s : State) (w : Nat) (x : Wg) : (s.setWg w x).atsOff = s.atsOff := rfl
@[simp] theorem State.setWg_atsFns (s : State) (w : Nat) (x : Wg) : (s.setWg w x).atsFns = s.atsFns := rfl
@[simp] theorem State.setWg_boot (s : State) (w : Nat) (x : Wg) : (s.setWg w x).boot = s.boot := rfl
@[simp] theorem State.setWg_out (s : State) (w : Nat) (x : Wg) : (s.setWg w x).out = s.out := rfl

/-! State.setCmd -/
@[simp] theorem State.setCmd_sched (s : State) (c : Nat) (x : Cmd) : (s.setCmd c x).sched = s.sched := rfl
@[simp] theorem State.setCmd_cur (s : State) (c : Nat) (x : Cmd) : (s.setCmd c x).cur = s.cur := rfl
@[simp] theorem State.setCmd_batch (s : State) (c : Nat) (x : Cmd) : (s.setCmd c x).batch = s.batch := rfl
@[simp] theorem State.setCmd_free (s : State) (c : Nat) (x : Cmd) : (s.setCmd c x).free = s.free := rfl
@[simp] theorem State.setCmd_nextId (s : State) (c : Nat) (x : Cmd) : (s.setCmd c x).nextId = s.nextId := rfl
@[simp] theorem State.setCmd_moment (s : State) (c : Nat) (x : Cmd) : (s.setCmd c x).moment = s.moment := rfl
@[simp] theorem State.setCmd_gtime (s : State) (c : Nat) (x : Cmd) : (s.setCmd c x).gtime = s.gtime := rfl
@[simp] theorem State.setCmd_chip (s : State) (c : Nat) (x : Cmd) : (s.setCmd c x).chip = s.chip := rfl
@[simp] theorem State.setCmd_mem (s : State) (c : Nat) (x : Cmd) : (s.setCmd c x).mem = s.mem := rfl
@[simp] theorem State.setCmd_past (s : State) (c : Nat) (x : Cmd) : (s.setCmd c x).past = s.past := rfl
@[simp] theorem State.setCmd_pastN (s : State) (c : Nat) (x : Cmd) : (s.setCmd c x).pastN = s.pastN := rfl
@[simp] theorem State.setCmd_rels (s : State) (c : Nat) (x : Cmd) : (s.setCmd c x).rels = s.rels := rfl
@[simp] theorem State.setCmd_tags (s : State) (c : Nat) (x : Cmd) : (s.setCmd c x).tags = s.tags := rfl
@[simp] theorem State.setCmd_bad (s : State) (c : Nat) (x : Cmd) : (s.setCmd c x).bad = s.bad := rfl
@[simp] theorem State.setCmd_lost (s : State) (c : Nat) (x : Cmd) : (s.setCmd c x).lost = s.lost := rfl
@[simp] theorem State.setCmd_lines (s : State) (c : Nat) (x : Cmd) : (s.setCmd c x).lines = s.lines := rfl
@[simp] theorem State.setCmd_partials (s : State) (c : Nat) (x : Cmd) : (s.setCmd c x).partials = s.partials := rfl
@[simp] theorem State.setCmd_lockMsgs (s : State) (c : Nat) (x : Cmd) : (s.setCmd c x).lockMsgs = s.lockMsgs := rfl
@[simp] theorem State.setCmd_guests (s : State) (c : Nat) (x : Cmd) : (s.setCmd c x).guests = s.guests := rfl
@[simp] theorem State.setCmd_tableWait (s : State) (c : Nat) (x : Cmd) : (s.setCmd c x).tableWait = s.tableWait := rfl
@[simp] theorem State.setCmd_tlb (s : State) (c : Nat) (x : Cmd) : (s.setCmd c x).tlb = s.tlb := rfl
@[simp] theorem State.setCmd_sets (s : State) (c : Nat) (x : Cmd) : (s.setCmd c x).sets = s.sets := rfl
@[simp] theorem State.setCmd_rows (s : State) (c : Nat) (x : Cmd) : (s.setCmd c x).rows = s.rows := rfl
@[simp] theorem State.setCmd_busyBanks (s : State) (c : Nat) (x : Cmd) : (s.setCmd c x).busyBanks = s.busyBanks := rfl
@[simp] theorem State.setCmd_backed (s : State) (c : Nat) (x : Cmd) : (s.setCmd c x).backed = s.backed := rfl
@[simp] theorem State.setCmd_hbms (s : State) (c : Nat) (x : Cmd) : (s.setCmd c x).hbms = s.hbms := rfl
@[simp] theorem State.setCmd_retired (s : State) (c : Nat) (x : Cmd) : (s.setCmd c x).retired = s.retired := rfl
@[simp] theorem State.setCmd_cores (s : State) (c : Nat) (x : Cmd) : (s.setCmd c x).cores = s.cores := rfl
@[simp] theorem State.setCmd_dies (s : State) (c : Nat) (x : Cmd) : (s.setCmd c x).dies = s.dies := rfl
@[simp] theorem State.setCmd_parts (s : State) (c : Nat) (x : Cmd) : (s.setCmd c x).parts = s.parts := rfl
@[simp] theorem State.setCmd_scs (s : State) (c : Nat) (x : Cmd) : (s.setCmd c x).scs = s.scs := rfl
@[simp] theorem State.setCmd_resvs (s : State) (c : Nat) (x : Cmd) : (s.setCmd c x).resvs = s.resvs := rfl
@[simp] theorem State.setCmd_launches (s : State) (c : Nat) (x : Cmd) : (s.setCmd c x).launches = s.launches := rfl
@[simp] theorem State.setCmd_wgs (s : State) (c : Nat) (x : Cmd) : (s.setCmd c x).wgs = s.wgs := rfl
@[simp] theorem State.setCmd_fibres (s : State) (c : Nat) (x : Cmd) : (s.setCmd c x).fibres = s.fibres := rfl
@[simp] theorem State.setCmd_cmds (s : State) (c : Nat) (x : Cmd) : (s.setCmd c x).cmds = s.cmds.put c x := rfl
@[simp] theorem State.setCmd_ports (s : State) (c : Nat) (x : Cmd) : (s.setCmd c x).ports = s.ports := rfl
@[simp] theorem State.setCmd_nlfto (s : State) (c : Nat) (x : Cmd) : (s.setCmd c x).nlfto = s.nlfto := rfl
@[simp] theorem State.setCmd_windows (s : State) (c : Nat) (x : Cmd) : (s.setCmd c x).windows = s.windows := rfl
@[simp] theorem State.setCmd_sct (s : State) (c : Nat) (x : Cmd) : (s.setCmd c x).sct = s.sct := rfl
@[simp] theorem State.setCmd_sctLock (s : State) (c : Nat) (x : Cmd) : (s.setCmd c x).sctLock = s.sctLock := rfl
@[simp] theorem State.setCmd_groups (s : State) (c : Nat) (x : Cmd) : (s.setCmd c x).groups = s.groups := rfl
@[simp] theorem State.setCmd_snoop (s : State) (c : Nat) (x : Cmd) : (s.setCmd c x).snoop = s.snoop := rfl
@[simp] theorem State.setCmd_severed (s : State) (c : Nat) (x : Cmd) : (s.setCmd c x).severed = s.severed := rfl
@[simp] theorem State.setCmd_rpMode (s : State) (c : Nat) (x : Cmd) : (s.setCmd c x).rpMode = s.rpMode := rfl
@[simp] theorem State.setCmd_rps (s : State) (c : Nat) (x : Cmd) : (s.setCmd c x).rps = s.rps := rfl
@[simp] theorem State.setCmd_atsOff (s : State) (c : Nat) (x : Cmd) : (s.setCmd c x).atsOff = s.atsOff := rfl
@[simp] theorem State.setCmd_atsFns (s : State) (c : Nat) (x : Cmd) : (s.setCmd c x).atsFns = s.atsFns := rfl
@[simp] theorem State.setCmd_boot (s : State) (c : Nat) (x : Cmd) : (s.setCmd c x).boot = s.boot := rfl
@[simp] theorem State.setCmd_out (s : State) (c : Nat) (x : Cmd) : (s.setCmd c x).out = s.out := rfl

/-! State.setLine -/
@[simp] theorem State.setLine_sched (s : State) (a : Nat) (x : Line) : (s.setLine a x).sched = s.sched := rfl
@[simp] theorem State.setLine_cur (s : State) (a : Nat) (x : Line) : (s.setLine a x).cur = s.cur := rfl
@[simp] theorem State.setLine_batch (s : State) (a : Nat) (x : Line) : (s.setLine a x).batch = s.batch := rfl
@[simp] theorem State.setLine_free (s : State) (a : Nat) (x : Line) : (s.setLine a x).free = s.free := rfl
@[simp] theorem State.setLine_nextId (s : State) (a : Nat) (x : Line) : (s.setLine a x).nextId = s.nextId := rfl
@[simp] theorem State.setLine_moment (s : State) (a : Nat) (x : Line) : (s.setLine a x).moment = s.moment := rfl
@[simp] theorem State.setLine_gtime (s : State) (a : Nat) (x : Line) : (s.setLine a x).gtime = s.gtime := rfl
@[simp] theorem State.setLine_chip (s : State) (a : Nat) (x : Line) : (s.setLine a x).chip = s.chip := rfl
@[simp] theorem State.setLine_mem (s : State) (a : Nat) (x : Line) : (s.setLine a x).mem = s.mem := rfl
@[simp] theorem State.setLine_past (s : State) (a : Nat) (x : Line) : (s.setLine a x).past = s.past := rfl
@[simp] theorem State.setLine_pastN (s : State) (a : Nat) (x : Line) : (s.setLine a x).pastN = s.pastN := rfl
@[simp] theorem State.setLine_rels (s : State) (a : Nat) (x : Line) : (s.setLine a x).rels = s.rels := rfl
@[simp] theorem State.setLine_tags (s : State) (a : Nat) (x : Line) : (s.setLine a x).tags = s.tags := rfl
@[simp] theorem State.setLine_bad (s : State) (a : Nat) (x : Line) : (s.setLine a x).bad = s.bad := rfl
@[simp] theorem State.setLine_lost (s : State) (a : Nat) (x : Line) : (s.setLine a x).lost = s.lost := rfl
@[simp] theorem State.setLine_lines (s : State) (a : Nat) (x : Line) : (s.setLine a x).lines = s.lines.put a x := rfl
@[simp] theorem State.setLine_partials (s : State) (a : Nat) (x : Line) : (s.setLine a x).partials = s.partials := rfl
@[simp] theorem State.setLine_lockMsgs (s : State) (a : Nat) (x : Line) : (s.setLine a x).lockMsgs = s.lockMsgs := rfl
@[simp] theorem State.setLine_guests (s : State) (a : Nat) (x : Line) : (s.setLine a x).guests = s.guests := rfl
@[simp] theorem State.setLine_tableWait (s : State) (a : Nat) (x : Line) : (s.setLine a x).tableWait = s.tableWait := rfl
@[simp] theorem State.setLine_tlb (s : State) (a : Nat) (x : Line) : (s.setLine a x).tlb = s.tlb := rfl
@[simp] theorem State.setLine_sets (s : State) (a : Nat) (x : Line) : (s.setLine a x).sets = s.sets := rfl
@[simp] theorem State.setLine_rows (s : State) (a : Nat) (x : Line) : (s.setLine a x).rows = s.rows := rfl
@[simp] theorem State.setLine_busyBanks (s : State) (a : Nat) (x : Line) : (s.setLine a x).busyBanks = s.busyBanks := rfl
@[simp] theorem State.setLine_backed (s : State) (a : Nat) (x : Line) : (s.setLine a x).backed = s.backed := rfl
@[simp] theorem State.setLine_hbms (s : State) (a : Nat) (x : Line) : (s.setLine a x).hbms = s.hbms := rfl
@[simp] theorem State.setLine_retired (s : State) (a : Nat) (x : Line) : (s.setLine a x).retired = s.retired := rfl
@[simp] theorem State.setLine_cores (s : State) (a : Nat) (x : Line) : (s.setLine a x).cores = s.cores := rfl
@[simp] theorem State.setLine_dies (s : State) (a : Nat) (x : Line) : (s.setLine a x).dies = s.dies := rfl
@[simp] theorem State.setLine_parts (s : State) (a : Nat) (x : Line) : (s.setLine a x).parts = s.parts := rfl
@[simp] theorem State.setLine_scs (s : State) (a : Nat) (x : Line) : (s.setLine a x).scs = s.scs := rfl
@[simp] theorem State.setLine_resvs (s : State) (a : Nat) (x : Line) : (s.setLine a x).resvs = s.resvs := rfl
@[simp] theorem State.setLine_launches (s : State) (a : Nat) (x : Line) : (s.setLine a x).launches = s.launches := rfl
@[simp] theorem State.setLine_wgs (s : State) (a : Nat) (x : Line) : (s.setLine a x).wgs = s.wgs := rfl
@[simp] theorem State.setLine_fibres (s : State) (a : Nat) (x : Line) : (s.setLine a x).fibres = s.fibres := rfl
@[simp] theorem State.setLine_cmds (s : State) (a : Nat) (x : Line) : (s.setLine a x).cmds = s.cmds := rfl
@[simp] theorem State.setLine_ports (s : State) (a : Nat) (x : Line) : (s.setLine a x).ports = s.ports := rfl
@[simp] theorem State.setLine_nlfto (s : State) (a : Nat) (x : Line) : (s.setLine a x).nlfto = s.nlfto := rfl
@[simp] theorem State.setLine_windows (s : State) (a : Nat) (x : Line) : (s.setLine a x).windows = s.windows := rfl
@[simp] theorem State.setLine_sct (s : State) (a : Nat) (x : Line) : (s.setLine a x).sct = s.sct := rfl
@[simp] theorem State.setLine_sctLock (s : State) (a : Nat) (x : Line) : (s.setLine a x).sctLock = s.sctLock := rfl
@[simp] theorem State.setLine_groups (s : State) (a : Nat) (x : Line) : (s.setLine a x).groups = s.groups := rfl
@[simp] theorem State.setLine_snoop (s : State) (a : Nat) (x : Line) : (s.setLine a x).snoop = s.snoop := rfl
@[simp] theorem State.setLine_severed (s : State) (a : Nat) (x : Line) : (s.setLine a x).severed = s.severed := rfl
@[simp] theorem State.setLine_rpMode (s : State) (a : Nat) (x : Line) : (s.setLine a x).rpMode = s.rpMode := rfl
@[simp] theorem State.setLine_rps (s : State) (a : Nat) (x : Line) : (s.setLine a x).rps = s.rps := rfl
@[simp] theorem State.setLine_atsOff (s : State) (a : Nat) (x : Line) : (s.setLine a x).atsOff = s.atsOff := rfl
@[simp] theorem State.setLine_atsFns (s : State) (a : Nat) (x : Line) : (s.setLine a x).atsFns = s.atsFns := rfl
@[simp] theorem State.setLine_boot (s : State) (a : Nat) (x : Line) : (s.setLine a x).boot = s.boot := rfl
@[simp] theorem State.setLine_out (s : State) (a : Nat) (x : Line) : (s.setLine a x).out = s.out := rfl

/-! State.setPart -/
@[simp] theorem State.setPart_sched (s : State) (p : Nat) (x : Part) : (s.setPart p x).sched = s.sched := rfl
@[simp] theorem State.setPart_cur (s : State) (p : Nat) (x : Part) : (s.setPart p x).cur = s.cur := rfl
@[simp] theorem State.setPart_batch (s : State) (p : Nat) (x : Part) : (s.setPart p x).batch = s.batch := rfl
@[simp] theorem State.setPart_free (s : State) (p : Nat) (x : Part) : (s.setPart p x).free = s.free := rfl
@[simp] theorem State.setPart_nextId (s : State) (p : Nat) (x : Part) : (s.setPart p x).nextId = s.nextId := rfl
@[simp] theorem State.setPart_moment (s : State) (p : Nat) (x : Part) : (s.setPart p x).moment = s.moment := rfl
@[simp] theorem State.setPart_gtime (s : State) (p : Nat) (x : Part) : (s.setPart p x).gtime = s.gtime := rfl
@[simp] theorem State.setPart_chip (s : State) (p : Nat) (x : Part) : (s.setPart p x).chip = s.chip := rfl
@[simp] theorem State.setPart_mem (s : State) (p : Nat) (x : Part) : (s.setPart p x).mem = s.mem := rfl
@[simp] theorem State.setPart_past (s : State) (p : Nat) (x : Part) : (s.setPart p x).past = s.past := rfl
@[simp] theorem State.setPart_pastN (s : State) (p : Nat) (x : Part) : (s.setPart p x).pastN = s.pastN := rfl
@[simp] theorem State.setPart_rels (s : State) (p : Nat) (x : Part) : (s.setPart p x).rels = s.rels := rfl
@[simp] theorem State.setPart_tags (s : State) (p : Nat) (x : Part) : (s.setPart p x).tags = s.tags := rfl
@[simp] theorem State.setPart_bad (s : State) (p : Nat) (x : Part) : (s.setPart p x).bad = s.bad := rfl
@[simp] theorem State.setPart_lost (s : State) (p : Nat) (x : Part) : (s.setPart p x).lost = s.lost := rfl
@[simp] theorem State.setPart_lines (s : State) (p : Nat) (x : Part) : (s.setPart p x).lines = s.lines := rfl
@[simp] theorem State.setPart_partials (s : State) (p : Nat) (x : Part) : (s.setPart p x).partials = s.partials := rfl
@[simp] theorem State.setPart_lockMsgs (s : State) (p : Nat) (x : Part) : (s.setPart p x).lockMsgs = s.lockMsgs := rfl
@[simp] theorem State.setPart_guests (s : State) (p : Nat) (x : Part) : (s.setPart p x).guests = s.guests := rfl
@[simp] theorem State.setPart_tableWait (s : State) (p : Nat) (x : Part) : (s.setPart p x).tableWait = s.tableWait := rfl
@[simp] theorem State.setPart_tlb (s : State) (p : Nat) (x : Part) : (s.setPart p x).tlb = s.tlb := rfl
@[simp] theorem State.setPart_sets (s : State) (p : Nat) (x : Part) : (s.setPart p x).sets = s.sets := rfl
@[simp] theorem State.setPart_rows (s : State) (p : Nat) (x : Part) : (s.setPart p x).rows = s.rows := rfl
@[simp] theorem State.setPart_busyBanks (s : State) (p : Nat) (x : Part) : (s.setPart p x).busyBanks = s.busyBanks := rfl
@[simp] theorem State.setPart_backed (s : State) (p : Nat) (x : Part) : (s.setPart p x).backed = s.backed := rfl
@[simp] theorem State.setPart_hbms (s : State) (p : Nat) (x : Part) : (s.setPart p x).hbms = s.hbms := rfl
@[simp] theorem State.setPart_retired (s : State) (p : Nat) (x : Part) : (s.setPart p x).retired = s.retired := rfl
@[simp] theorem State.setPart_cores (s : State) (p : Nat) (x : Part) : (s.setPart p x).cores = s.cores := rfl
@[simp] theorem State.setPart_dies (s : State) (p : Nat) (x : Part) : (s.setPart p x).dies = s.dies := rfl
@[simp] theorem State.setPart_parts (s : State) (p : Nat) (x : Part) : (s.setPart p x).parts = s.parts.put p x := rfl
@[simp] theorem State.setPart_scs (s : State) (p : Nat) (x : Part) : (s.setPart p x).scs = s.scs := rfl
@[simp] theorem State.setPart_resvs (s : State) (p : Nat) (x : Part) : (s.setPart p x).resvs = s.resvs := rfl
@[simp] theorem State.setPart_launches (s : State) (p : Nat) (x : Part) : (s.setPart p x).launches = s.launches := rfl
@[simp] theorem State.setPart_wgs (s : State) (p : Nat) (x : Part) : (s.setPart p x).wgs = s.wgs := rfl
@[simp] theorem State.setPart_fibres (s : State) (p : Nat) (x : Part) : (s.setPart p x).fibres = s.fibres := rfl
@[simp] theorem State.setPart_cmds (s : State) (p : Nat) (x : Part) : (s.setPart p x).cmds = s.cmds := rfl
@[simp] theorem State.setPart_ports (s : State) (p : Nat) (x : Part) : (s.setPart p x).ports = s.ports := rfl
@[simp] theorem State.setPart_nlfto (s : State) (p : Nat) (x : Part) : (s.setPart p x).nlfto = s.nlfto := rfl
@[simp] theorem State.setPart_windows (s : State) (p : Nat) (x : Part) : (s.setPart p x).windows = s.windows := rfl
@[simp] theorem State.setPart_sct (s : State) (p : Nat) (x : Part) : (s.setPart p x).sct = s.sct := rfl
@[simp] theorem State.setPart_sctLock (s : State) (p : Nat) (x : Part) : (s.setPart p x).sctLock = s.sctLock := rfl
@[simp] theorem State.setPart_groups (s : State) (p : Nat) (x : Part) : (s.setPart p x).groups = s.groups := rfl
@[simp] theorem State.setPart_snoop (s : State) (p : Nat) (x : Part) : (s.setPart p x).snoop = s.snoop := rfl
@[simp] theorem State.setPart_severed (s : State) (p : Nat) (x : Part) : (s.setPart p x).severed = s.severed := rfl
@[simp] theorem State.setPart_rpMode (s : State) (p : Nat) (x : Part) : (s.setPart p x).rpMode = s.rpMode := rfl
@[simp] theorem State.setPart_rps (s : State) (p : Nat) (x : Part) : (s.setPart p x).rps = s.rps := rfl
@[simp] theorem State.setPart_atsOff (s : State) (p : Nat) (x : Part) : (s.setPart p x).atsOff = s.atsOff := rfl
@[simp] theorem State.setPart_atsFns (s : State) (p : Nat) (x : Part) : (s.setPart p x).atsFns = s.atsFns := rfl
@[simp] theorem State.setPart_boot (s : State) (p : Nat) (x : Part) : (s.setPart p x).boot = s.boot := rfl
@[simp] theorem State.setPart_out (s : State) (p : Nat) (x : Part) : (s.setPart p x).out = s.out := rfl

/-! State.setDie -/
@[simp] theorem State.setDie_sched (s : State) (d : Nat) (x : Die) : (s.setDie d x).sched = s.sched := rfl
@[simp] theorem State.setDie_cur (s : State) (d : Nat) (x : Die) : (s.setDie d x).cur = s.cur := rfl
@[simp] theorem State.setDie_batch (s : State) (d : Nat) (x : Die) : (s.setDie d x).batch = s.batch := rfl
@[simp] theorem State.setDie_free (s : State) (d : Nat) (x : Die) : (s.setDie d x).free = s.free := rfl
@[simp] theorem State.setDie_nextId (s : State) (d : Nat) (x : Die) : (s.setDie d x).nextId = s.nextId := rfl
@[simp] theorem State.setDie_moment (s : State) (d : Nat) (x : Die) : (s.setDie d x).moment = s.moment := rfl
@[simp] theorem State.setDie_gtime (s : State) (d : Nat) (x : Die) : (s.setDie d x).gtime = s.gtime := rfl
@[simp] theorem State.setDie_chip (s : State) (d : Nat) (x : Die) : (s.setDie d x).chip = s.chip := rfl
@[simp] theorem State.setDie_mem (s : State) (d : Nat) (x : Die) : (s.setDie d x).mem = s.mem := rfl
@[simp] theorem State.setDie_past (s : State) (d : Nat) (x : Die) : (s.setDie d x).past = s.past := rfl
@[simp] theorem State.setDie_pastN (s : State) (d : Nat) (x : Die) : (s.setDie d x).pastN = s.pastN := rfl
@[simp] theorem State.setDie_rels (s : State) (d : Nat) (x : Die) : (s.setDie d x).rels = s.rels := rfl
@[simp] theorem State.setDie_tags (s : State) (d : Nat) (x : Die) : (s.setDie d x).tags = s.tags := rfl
@[simp] theorem State.setDie_bad (s : State) (d : Nat) (x : Die) : (s.setDie d x).bad = s.bad := rfl
@[simp] theorem State.setDie_lost (s : State) (d : Nat) (x : Die) : (s.setDie d x).lost = s.lost := rfl
@[simp] theorem State.setDie_lines (s : State) (d : Nat) (x : Die) : (s.setDie d x).lines = s.lines := rfl
@[simp] theorem State.setDie_partials (s : State) (d : Nat) (x : Die) : (s.setDie d x).partials = s.partials := rfl
@[simp] theorem State.setDie_lockMsgs (s : State) (d : Nat) (x : Die) : (s.setDie d x).lockMsgs = s.lockMsgs := rfl
@[simp] theorem State.setDie_guests (s : State) (d : Nat) (x : Die) : (s.setDie d x).guests = s.guests := rfl
@[simp] theorem State.setDie_tableWait (s : State) (d : Nat) (x : Die) : (s.setDie d x).tableWait = s.tableWait := rfl
@[simp] theorem State.setDie_tlb (s : State) (d : Nat) (x : Die) : (s.setDie d x).tlb = s.tlb := rfl
@[simp] theorem State.setDie_sets (s : State) (d : Nat) (x : Die) : (s.setDie d x).sets = s.sets := rfl
@[simp] theorem State.setDie_rows (s : State) (d : Nat) (x : Die) : (s.setDie d x).rows = s.rows := rfl
@[simp] theorem State.setDie_busyBanks (s : State) (d : Nat) (x : Die) : (s.setDie d x).busyBanks = s.busyBanks := rfl
@[simp] theorem State.setDie_backed (s : State) (d : Nat) (x : Die) : (s.setDie d x).backed = s.backed := rfl
@[simp] theorem State.setDie_hbms (s : State) (d : Nat) (x : Die) : (s.setDie d x).hbms = s.hbms := rfl
@[simp] theorem State.setDie_retired (s : State) (d : Nat) (x : Die) : (s.setDie d x).retired = s.retired := rfl
@[simp] theorem State.setDie_cores (s : State) (d : Nat) (x : Die) : (s.setDie d x).cores = s.cores := rfl
@[simp] theorem State.setDie_dies (s : State) (d : Nat) (x : Die) : (s.setDie d x).dies = s.dies.put d x := rfl
@[simp] theorem State.setDie_parts (s : State) (d : Nat) (x : Die) : (s.setDie d x).parts = s.parts := rfl
@[simp] theorem State.setDie_scs (s : State) (d : Nat) (x : Die) : (s.setDie d x).scs = s.scs := rfl
@[simp] theorem State.setDie_resvs (s : State) (d : Nat) (x : Die) : (s.setDie d x).resvs = s.resvs := rfl
@[simp] theorem State.setDie_launches (s : State) (d : Nat) (x : Die) : (s.setDie d x).launches = s.launches := rfl
@[simp] theorem State.setDie_wgs (s : State) (d : Nat) (x : Die) : (s.setDie d x).wgs = s.wgs := rfl
@[simp] theorem State.setDie_fibres (s : State) (d : Nat) (x : Die) : (s.setDie d x).fibres = s.fibres := rfl
@[simp] theorem State.setDie_cmds (s : State) (d : Nat) (x : Die) : (s.setDie d x).cmds = s.cmds := rfl
@[simp] theorem State.setDie_ports (s : State) (d : Nat) (x : Die) : (s.setDie d x).ports = s.ports := rfl
@[simp] theorem State.setDie_nlfto (s : State) (d : Nat) (x : Die) : (s.setDie d x).nlfto = s.nlfto := rfl
@[simp] theorem State.setDie_windows (s : State) (d : Nat) (x : Die) : (s.setDie d x).windows = s.windows := rfl
@[simp] theorem State.setDie_sct (s : State) (d : Nat) (x : Die) : (s.setDie d x).sct = s.sct := rfl
@[simp] theorem State.setDie_sctLock (s : State) (d : Nat) (x : Die) : (s.setDie d x).sctLock = s.sctLock := rfl
@[simp] theorem State.setDie_groups (s : State) (d : Nat) (x : Die) : (s.setDie d x).groups = s.groups := rfl
@[simp] theorem State.setDie_snoop (s : State) (d : Nat) (x : Die) : (s.setDie d x).snoop = s.snoop := rfl
@[simp] theorem State.setDie_severed (s : State) (d : Nat) (x : Die) : (s.setDie d x).severed = s.severed := rfl
@[simp] theorem State.setDie_rpMode (s : State) (d : Nat) (x : Die) : (s.setDie d x).rpMode = s.rpMode := rfl
@[simp] theorem State.setDie_rps (s : State) (d : Nat) (x : Die) : (s.setDie d x).rps = s.rps := rfl
@[simp] theorem State.setDie_atsOff (s : State) (d : Nat) (x : Die) : (s.setDie d x).atsOff = s.atsOff := rfl
@[simp] theorem State.setDie_atsFns (s : State) (d : Nat) (x : Die) : (s.setDie d x).atsFns = s.atsFns := rfl
@[simp] theorem State.setDie_boot (s : State) (d : Nat) (x : Die) : (s.setDie d x).boot = s.boot := rfl
@[simp] theorem State.setDie_out (s : State) (d : Nat) (x : Die) : (s.setDie d x).out = s.out := rfl

/-! State.setPcore -/
@[simp] theorem State.setPcore_sched (s : State) (d p : Nat) (x : Core) : (s.setPcore d p x).sched = s.sched := rfl
@[simp] theorem State.setPcore_cur (s : State) (d p : Nat) (x : Core) : (s.setPcore d p x).cur = s.cur := rfl
@[simp] theorem State.setPcore_batch (s : State) (d p : Nat) (x : Core) : (s.setPcore d p x).batch = s.batch := rfl
@[simp] theorem State.setPcore_free (s : State) (d p : Nat) (x : Core) : (s.setPcore d p x).free = s.free := rfl
@[simp] theorem State.setPcore_nextId (s : State) (d p : Nat) (x : Core) : (s.setPcore d p x).nextId = s.nextId := rfl
@[simp] theorem State.setPcore_moment (s : State) (d p : Nat) (x : Core) : (s.setPcore d p x).moment = s.moment := rfl
@[simp] theorem State.setPcore_gtime (s : State) (d p : Nat) (x : Core) : (s.setPcore d p x).gtime = s.gtime := rfl
@[simp] theorem State.setPcore_chip (s : State) (d p : Nat) (x : Core) : (s.setPcore d p x).chip = s.chip := rfl
@[simp] theorem State.setPcore_mem (s : State) (d p : Nat) (x : Core) : (s.setPcore d p x).mem = s.mem := rfl
@[simp] theorem State.setPcore_past (s : State) (d p : Nat) (x : Core) : (s.setPcore d p x).past = s.past := rfl
@[simp] theorem State.setPcore_pastN (s : State) (d p : Nat) (x : Core) : (s.setPcore d p x).pastN = s.pastN := rfl
@[simp] theorem State.setPcore_rels (s : State) (d p : Nat) (x : Core) : (s.setPcore d p x).rels = s.rels := rfl
@[simp] theorem State.setPcore_tags (s : State) (d p : Nat) (x : Core) : (s.setPcore d p x).tags = s.tags := rfl
@[simp] theorem State.setPcore_bad (s : State) (d p : Nat) (x : Core) : (s.setPcore d p x).bad = s.bad := rfl
@[simp] theorem State.setPcore_lost (s : State) (d p : Nat) (x : Core) : (s.setPcore d p x).lost = s.lost := rfl
@[simp] theorem State.setPcore_lines (s : State) (d p : Nat) (x : Core) : (s.setPcore d p x).lines = s.lines := rfl
@[simp] theorem State.setPcore_partials (s : State) (d p : Nat) (x : Core) : (s.setPcore d p x).partials = s.partials := rfl
@[simp] theorem State.setPcore_lockMsgs (s : State) (d p : Nat) (x : Core) : (s.setPcore d p x).lockMsgs = s.lockMsgs := rfl
@[simp] theorem State.setPcore_guests (s : State) (d p : Nat) (x : Core) : (s.setPcore d p x).guests = s.guests := rfl
@[simp] theorem State.setPcore_tableWait (s : State) (d p : Nat) (x : Core) : (s.setPcore d p x).tableWait = s.tableWait := rfl
@[simp] theorem State.setPcore_tlb (s : State) (d p : Nat) (x : Core) : (s.setPcore d p x).tlb = s.tlb := rfl
@[simp] theorem State.setPcore_sets (s : State) (d p : Nat) (x : Core) : (s.setPcore d p x).sets = s.sets := rfl
@[simp] theorem State.setPcore_rows (s : State) (d p : Nat) (x : Core) : (s.setPcore d p x).rows = s.rows := rfl
@[simp] theorem State.setPcore_busyBanks (s : State) (d p : Nat) (x : Core) : (s.setPcore d p x).busyBanks = s.busyBanks := rfl
@[simp] theorem State.setPcore_backed (s : State) (d p : Nat) (x : Core) : (s.setPcore d p x).backed = s.backed := rfl
@[simp] theorem State.setPcore_hbms (s : State) (d p : Nat) (x : Core) : (s.setPcore d p x).hbms = s.hbms := rfl
@[simp] theorem State.setPcore_retired (s : State) (d p : Nat) (x : Core) : (s.setPcore d p x).retired = s.retired := rfl
@[simp] theorem State.setPcore_cores (s : State) (d p : Nat) (x : Core) : (s.setPcore d p x).cores = s.cores.put (32 * d + p) x := rfl
@[simp] theorem State.setPcore_dies (s : State) (d p : Nat) (x : Core) : (s.setPcore d p x).dies = s.dies := rfl
@[simp] theorem State.setPcore_parts (s : State) (d p : Nat) (x : Core) : (s.setPcore d p x).parts = s.parts := rfl
@[simp] theorem State.setPcore_scs (s : State) (d p : Nat) (x : Core) : (s.setPcore d p x).scs = s.scs := rfl
@[simp] theorem State.setPcore_resvs (s : State) (d p : Nat) (x : Core) : (s.setPcore d p x).resvs = s.resvs := rfl
@[simp] theorem State.setPcore_launches (s : State) (d p : Nat) (x : Core) : (s.setPcore d p x).launches = s.launches := rfl
@[simp] theorem State.setPcore_wgs (s : State) (d p : Nat) (x : Core) : (s.setPcore d p x).wgs = s.wgs := rfl
@[simp] theorem State.setPcore_fibres (s : State) (d p : Nat) (x : Core) : (s.setPcore d p x).fibres = s.fibres := rfl
@[simp] theorem State.setPcore_cmds (s : State) (d p : Nat) (x : Core) : (s.setPcore d p x).cmds = s.cmds := rfl
@[simp] theorem State.setPcore_ports (s : State) (d p : Nat) (x : Core) : (s.setPcore d p x).ports = s.ports := rfl
@[simp] theorem State.setPcore_nlfto (s : State) (d p : Nat) (x : Core) : (s.setPcore d p x).nlfto = s.nlfto := rfl
@[simp] theorem State.setPcore_windows (s : State) (d p : Nat) (x : Core) : (s.setPcore d p x).windows = s.windows := rfl
@[simp] theorem State.setPcore_sct (s : State) (d p : Nat) (x : Core) : (s.setPcore d p x).sct = s.sct := rfl
@[simp] theorem State.setPcore_sctLock (s : State) (d p : Nat) (x : Core) : (s.setPcore d p x).sctLock = s.sctLock := rfl
@[simp] theorem State.setPcore_groups (s : State) (d p : Nat) (x : Core) : (s.setPcore d p x).groups = s.groups := rfl
@[simp] theorem State.setPcore_snoop (s : State) (d p : Nat) (x : Core) : (s.setPcore d p x).snoop = s.snoop := rfl
@[simp] theorem State.setPcore_severed (s : State) (d p : Nat) (x : Core) : (s.setPcore d p x).severed = s.severed := rfl
@[simp] theorem State.setPcore_rpMode (s : State) (d p : Nat) (x : Core) : (s.setPcore d p x).rpMode = s.rpMode := rfl
@[simp] theorem State.setPcore_rps (s : State) (d p : Nat) (x : Core) : (s.setPcore d p x).rps = s.rps := rfl
@[simp] theorem State.setPcore_atsOff (s : State) (d p : Nat) (x : Core) : (s.setPcore d p x).atsOff = s.atsOff := rfl
@[simp] theorem State.setPcore_atsFns (s : State) (d p : Nat) (x : Core) : (s.setPcore d p x).atsFns = s.atsFns := rfl
@[simp] theorem State.setPcore_boot (s : State) (d p : Nat) (x : Core) : (s.setPcore d p x).boot = s.boot := rfl
@[simp] theorem State.setPcore_out (s : State) (d p : Nat) (x : Core) : (s.setPcore d p x).out = s.out := rfl

/-! State.setSc -/
@[simp] theorem State.setSc_sched (s : State) (n : Nat) (x : Sc) : (s.setSc n x).sched = s.sched := rfl
@[simp] theorem State.setSc_cur (s : State) (n : Nat) (x : Sc) : (s.setSc n x).cur = s.cur := rfl
@[simp] theorem State.setSc_batch (s : State) (n : Nat) (x : Sc) : (s.setSc n x).batch = s.batch := rfl
@[simp] theorem State.setSc_free (s : State) (n : Nat) (x : Sc) : (s.setSc n x).free = s.free := rfl
@[simp] theorem State.setSc_nextId (s : State) (n : Nat) (x : Sc) : (s.setSc n x).nextId = s.nextId := rfl
@[simp] theorem State.setSc_moment (s : State) (n : Nat) (x : Sc) : (s.setSc n x).moment = s.moment := rfl
@[simp] theorem State.setSc_gtime (s : State) (n : Nat) (x : Sc) : (s.setSc n x).gtime = s.gtime := rfl
@[simp] theorem State.setSc_chip (s : State) (n : Nat) (x : Sc) : (s.setSc n x).chip = s.chip := rfl
@[simp] theorem State.setSc_mem (s : State) (n : Nat) (x : Sc) : (s.setSc n x).mem = s.mem := rfl
@[simp] theorem State.setSc_past (s : State) (n : Nat) (x : Sc) : (s.setSc n x).past = s.past := rfl
@[simp] theorem State.setSc_pastN (s : State) (n : Nat) (x : Sc) : (s.setSc n x).pastN = s.pastN := rfl
@[simp] theorem State.setSc_rels (s : State) (n : Nat) (x : Sc) : (s.setSc n x).rels = s.rels := rfl
@[simp] theorem State.setSc_tags (s : State) (n : Nat) (x : Sc) : (s.setSc n x).tags = s.tags := rfl
@[simp] theorem State.setSc_bad (s : State) (n : Nat) (x : Sc) : (s.setSc n x).bad = s.bad := rfl
@[simp] theorem State.setSc_lost (s : State) (n : Nat) (x : Sc) : (s.setSc n x).lost = s.lost := rfl
@[simp] theorem State.setSc_lines (s : State) (n : Nat) (x : Sc) : (s.setSc n x).lines = s.lines := rfl
@[simp] theorem State.setSc_partials (s : State) (n : Nat) (x : Sc) : (s.setSc n x).partials = s.partials := rfl
@[simp] theorem State.setSc_lockMsgs (s : State) (n : Nat) (x : Sc) : (s.setSc n x).lockMsgs = s.lockMsgs := rfl
@[simp] theorem State.setSc_guests (s : State) (n : Nat) (x : Sc) : (s.setSc n x).guests = s.guests := rfl
@[simp] theorem State.setSc_tableWait (s : State) (n : Nat) (x : Sc) : (s.setSc n x).tableWait = s.tableWait := rfl
@[simp] theorem State.setSc_tlb (s : State) (n : Nat) (x : Sc) : (s.setSc n x).tlb = s.tlb := rfl
@[simp] theorem State.setSc_sets (s : State) (n : Nat) (x : Sc) : (s.setSc n x).sets = s.sets := rfl
@[simp] theorem State.setSc_rows (s : State) (n : Nat) (x : Sc) : (s.setSc n x).rows = s.rows := rfl
@[simp] theorem State.setSc_busyBanks (s : State) (n : Nat) (x : Sc) : (s.setSc n x).busyBanks = s.busyBanks := rfl
@[simp] theorem State.setSc_backed (s : State) (n : Nat) (x : Sc) : (s.setSc n x).backed = s.backed := rfl
@[simp] theorem State.setSc_hbms (s : State) (n : Nat) (x : Sc) : (s.setSc n x).hbms = s.hbms := rfl
@[simp] theorem State.setSc_retired (s : State) (n : Nat) (x : Sc) : (s.setSc n x).retired = s.retired := rfl
@[simp] theorem State.setSc_cores (s : State) (n : Nat) (x : Sc) : (s.setSc n x).cores = s.cores := rfl
@[simp] theorem State.setSc_dies (s : State) (n : Nat) (x : Sc) : (s.setSc n x).dies = s.dies := rfl
@[simp] theorem State.setSc_parts (s : State) (n : Nat) (x : Sc) : (s.setSc n x).parts = s.parts := rfl
@[simp] theorem State.setSc_scs (s : State) (n : Nat) (x : Sc) : (s.setSc n x).scs = s.scs.put n x := rfl
@[simp] theorem State.setSc_resvs (s : State) (n : Nat) (x : Sc) : (s.setSc n x).resvs = s.resvs := rfl
@[simp] theorem State.setSc_launches (s : State) (n : Nat) (x : Sc) : (s.setSc n x).launches = s.launches := rfl
@[simp] theorem State.setSc_wgs (s : State) (n : Nat) (x : Sc) : (s.setSc n x).wgs = s.wgs := rfl
@[simp] theorem State.setSc_fibres (s : State) (n : Nat) (x : Sc) : (s.setSc n x).fibres = s.fibres := rfl
@[simp] theorem State.setSc_cmds (s : State) (n : Nat) (x : Sc) : (s.setSc n x).cmds = s.cmds := rfl
@[simp] theorem State.setSc_ports (s : State) (n : Nat) (x : Sc) : (s.setSc n x).ports = s.ports := rfl
@[simp] theorem State.setSc_nlfto (s : State) (n : Nat) (x : Sc) : (s.setSc n x).nlfto = s.nlfto := rfl
@[simp] theorem State.setSc_windows (s : State) (n : Nat) (x : Sc) : (s.setSc n x).windows = s.windows := rfl
@[simp] theorem State.setSc_sct (s : State) (n : Nat) (x : Sc) : (s.setSc n x).sct = s.sct := rfl
@[simp] theorem State.setSc_sctLock (s : State) (n : Nat) (x : Sc) : (s.setSc n x).sctLock = s.sctLock := rfl
@[simp] theorem State.setSc_groups (s : State) (n : Nat) (x : Sc) : (s.setSc n x).groups = s.groups := rfl
@[simp] theorem State.setSc_snoop (s : State) (n : Nat) (x : Sc) : (s.setSc n x).snoop = s.snoop := rfl
@[simp] theorem State.setSc_severed (s : State) (n : Nat) (x : Sc) : (s.setSc n x).severed = s.severed := rfl
@[simp] theorem State.setSc_rpMode (s : State) (n : Nat) (x : Sc) : (s.setSc n x).rpMode = s.rpMode := rfl
@[simp] theorem State.setSc_rps (s : State) (n : Nat) (x : Sc) : (s.setSc n x).rps = s.rps := rfl
@[simp] theorem State.setSc_atsOff (s : State) (n : Nat) (x : Sc) : (s.setSc n x).atsOff = s.atsOff := rfl
@[simp] theorem State.setSc_atsFns (s : State) (n : Nat) (x : Sc) : (s.setSc n x).atsFns = s.atsFns := rfl
@[simp] theorem State.setSc_boot (s : State) (n : Nat) (x : Sc) : (s.setSc n x).boot = s.boot := rfl
@[simp] theorem State.setSc_out (s : State) (n : Nat) (x : Sc) : (s.setSc n x).out = s.out := rfl

/-! State.setGroup -/
@[simp] theorem State.setGroup_sched (s : State) (g : Nat) (x : Group) : (s.setGroup g x).sched = s.sched := rfl
@[simp] theorem State.setGroup_cur (s : State) (g : Nat) (x : Group) : (s.setGroup g x).cur = s.cur := rfl
@[simp] theorem State.setGroup_batch (s : State) (g : Nat) (x : Group) : (s.setGroup g x).batch = s.batch := rfl
@[simp] theorem State.setGroup_free (s : State) (g : Nat) (x : Group) : (s.setGroup g x).free = s.free := rfl
@[simp] theorem State.setGroup_nextId (s : State) (g : Nat) (x : Group) : (s.setGroup g x).nextId = s.nextId := rfl
@[simp] theorem State.setGroup_moment (s : State) (g : Nat) (x : Group) : (s.setGroup g x).moment = s.moment := rfl
@[simp] theorem State.setGroup_gtime (s : State) (g : Nat) (x : Group) : (s.setGroup g x).gtime = s.gtime := rfl
@[simp] theorem State.setGroup_chip (s : State) (g : Nat) (x : Group) : (s.setGroup g x).chip = s.chip := rfl
@[simp] theorem State.setGroup_mem (s : State) (g : Nat) (x : Group) : (s.setGroup g x).mem = s.mem := rfl
@[simp] theorem State.setGroup_past (s : State) (g : Nat) (x : Group) : (s.setGroup g x).past = s.past := rfl
@[simp] theorem State.setGroup_pastN (s : State) (g : Nat) (x : Group) : (s.setGroup g x).pastN = s.pastN := rfl
@[simp] theorem State.setGroup_rels (s : State) (g : Nat) (x : Group) : (s.setGroup g x).rels = s.rels := rfl
@[simp] theorem State.setGroup_tags (s : State) (g : Nat) (x : Group) : (s.setGroup g x).tags = s.tags := rfl
@[simp] theorem State.setGroup_bad (s : State) (g : Nat) (x : Group) : (s.setGroup g x).bad = s.bad := rfl
@[simp] theorem State.setGroup_lost (s : State) (g : Nat) (x : Group) : (s.setGroup g x).lost = s.lost := rfl
@[simp] theorem State.setGroup_lines (s : State) (g : Nat) (x : Group) : (s.setGroup g x).lines = s.lines := rfl
@[simp] theorem State.setGroup_partials (s : State) (g : Nat) (x : Group) : (s.setGroup g x).partials = s.partials := rfl
@[simp] theorem State.setGroup_lockMsgs (s : State) (g : Nat) (x : Group) : (s.setGroup g x).lockMsgs = s.lockMsgs := rfl
@[simp] theorem State.setGroup_guests (s : State) (g : Nat) (x : Group) : (s.setGroup g x).guests = s.guests := rfl
@[simp] theorem State.setGroup_tableWait (s : State) (g : Nat) (x : Group) : (s.setGroup g x).tableWait = s.tableWait := rfl
@[simp] theorem State.setGroup_tlb (s : State) (g : Nat) (x : Group) : (s.setGroup g x).tlb = s.tlb := rfl
@[simp] theorem State.setGroup_sets (s : State) (g : Nat) (x : Group) : (s.setGroup g x).sets = s.sets := rfl
@[simp] theorem State.setGroup_rows (s : State) (g : Nat) (x : Group) : (s.setGroup g x).rows = s.rows := rfl
@[simp] theorem State.setGroup_busyBanks (s : State) (g : Nat) (x : Group) : (s.setGroup g x).busyBanks = s.busyBanks := rfl
@[simp] theorem State.setGroup_backed (s : State) (g : Nat) (x : Group) : (s.setGroup g x).backed = s.backed := rfl
@[simp] theorem State.setGroup_hbms (s : State) (g : Nat) (x : Group) : (s.setGroup g x).hbms = s.hbms := rfl
@[simp] theorem State.setGroup_retired (s : State) (g : Nat) (x : Group) : (s.setGroup g x).retired = s.retired := rfl
@[simp] theorem State.setGroup_cores (s : State) (g : Nat) (x : Group) : (s.setGroup g x).cores = s.cores := rfl
@[simp] theorem State.setGroup_dies (s : State) (g : Nat) (x : Group) : (s.setGroup g x).dies = s.dies := rfl
@[simp] theorem State.setGroup_parts (s : State) (g : Nat) (x : Group) : (s.setGroup g x).parts = s.parts := rfl
@[simp] theorem State.setGroup_scs (s : State) (g : Nat) (x : Group) : (s.setGroup g x).scs = s.scs := rfl
@[simp] theorem State.setGroup_resvs (s : State) (g : Nat) (x : Group) : (s.setGroup g x).resvs = s.resvs := rfl
@[simp] theorem State.setGroup_launches (s : State) (g : Nat) (x : Group) : (s.setGroup g x).launches = s.launches := rfl
@[simp] theorem State.setGroup_wgs (s : State) (g : Nat) (x : Group) : (s.setGroup g x).wgs = s.wgs := rfl
@[simp] theorem State.setGroup_fibres (s : State) (g : Nat) (x : Group) : (s.setGroup g x).fibres = s.fibres := rfl
@[simp] theorem State.setGroup_cmds (s : State) (g : Nat) (x : Group) : (s.setGroup g x).cmds = s.cmds := rfl
@[simp] theorem State.setGroup_ports (s : State) (g : Nat) (x : Group) : (s.setGroup g x).ports = s.ports := rfl
@[simp] theorem State.setGroup_nlfto (s : State) (g : Nat) (x : Group) : (s.setGroup g x).nlfto = s.nlfto := rfl
@[simp] theorem State.setGroup_windows (s : State) (g : Nat) (x : Group) : (s.setGroup g x).windows = s.windows := rfl
@[simp] theorem State.setGroup_sct (s : State) (g : Nat) (x : Group) : (s.setGroup g x).sct = s.sct := rfl
@[simp] theorem State.setGroup_sctLock (s : State) (g : Nat) (x : Group) : (s.setGroup g x).sctLock = s.sctLock := rfl
@[simp] theorem State.setGroup_groups (s : State) (g : Nat) (x : Group) : (s.setGroup g x).groups = s.groups.put g x := rfl
@[simp] theorem State.setGroup_snoop (s : State) (g : Nat) (x : Group) : (s.setGroup g x).snoop = s.snoop := rfl
@[simp] theorem State.setGroup_severed (s : State) (g : Nat) (x : Group) : (s.setGroup g x).severed = s.severed := rfl
@[simp] theorem State.setGroup_rpMode (s : State) (g : Nat) (x : Group) : (s.setGroup g x).rpMode = s.rpMode := rfl
@[simp] theorem State.setGroup_rps (s : State) (g : Nat) (x : Group) : (s.setGroup g x).rps = s.rps := rfl
@[simp] theorem State.setGroup_atsOff (s : State) (g : Nat) (x : Group) : (s.setGroup g x).atsOff = s.atsOff := rfl
@[simp] theorem State.setGroup_atsFns (s : State) (g : Nat) (x : Group) : (s.setGroup g x).atsFns = s.atsFns := rfl
@[simp] theorem State.setGroup_boot (s : State) (g : Nat) (x : Group) : (s.setGroup g x).boot = s.boot := rfl
@[simp] theorem State.setGroup_out (s : State) (g : Nat) (x : Group) : (s.setGroup g x).out = s.out := rfl

/-! State.setPort -/
@[simp] theorem State.setPort_sched (s : State) (k : Nat) (x : Port) : (s.setPort k x).sched = s.sched := rfl
@[simp] theorem State.setPort_cur (s : State) (k : Nat) (x : Port) : (s.setPort k x).cur = s.cur := rfl
@[simp] theorem State.setPort_batch (s : State) (k : Nat) (x : Port) : (s.setPort k x).batch = s.batch := rfl
@[simp] theorem State.setPort_free (s : State) (k : Nat) (x : Port) : (s.setPort k x).free = s.free := rfl
@[simp] theorem State.setPort_nextId (s : State) (k : Nat) (x : Port) : (s.setPort k x).nextId = s.nextId := rfl
@[simp] theorem State.setPort_moment (s : State) (k : Nat) (x : Port) : (s.setPort k x).moment = s.moment := rfl
@[simp] theorem State.setPort_gtime (s : State) (k : Nat) (x : Port) : (s.setPort k x).gtime = s.gtime := rfl
@[simp] theorem State.setPort_chip (s : State) (k : Nat) (x : Port) : (s.setPort k x).chip = s.chip := rfl
@[simp] theorem State.setPort_mem (s : State) (k : Nat) (x : Port) : (s.setPort k x).mem = s.mem := rfl
@[simp] theorem State.setPort_past (s : State) (k : Nat) (x : Port) : (s.setPort k x).past = s.past := rfl
@[simp] theorem State.setPort_pastN (s : State) (k : Nat) (x : Port) : (s.setPort k x).pastN = s.pastN := rfl
@[simp] theorem State.setPort_rels (s : State) (k : Nat) (x : Port) : (s.setPort k x).rels = s.rels := rfl
@[simp] theorem State.setPort_tags (s : State) (k : Nat) (x : Port) : (s.setPort k x).tags = s.tags := rfl
@[simp] theorem State.setPort_bad (s : State) (k : Nat) (x : Port) : (s.setPort k x).bad = s.bad := rfl
@[simp] theorem State.setPort_lost (s : State) (k : Nat) (x : Port) : (s.setPort k x).lost = s.lost := rfl
@[simp] theorem State.setPort_lines (s : State) (k : Nat) (x : Port) : (s.setPort k x).lines = s.lines := rfl
@[simp] theorem State.setPort_partials (s : State) (k : Nat) (x : Port) : (s.setPort k x).partials = s.partials := rfl
@[simp] theorem State.setPort_lockMsgs (s : State) (k : Nat) (x : Port) : (s.setPort k x).lockMsgs = s.lockMsgs := rfl
@[simp] theorem State.setPort_guests (s : State) (k : Nat) (x : Port) : (s.setPort k x).guests = s.guests := rfl
@[simp] theorem State.setPort_tableWait (s : State) (k : Nat) (x : Port) : (s.setPort k x).tableWait = s.tableWait := rfl
@[simp] theorem State.setPort_tlb (s : State) (k : Nat) (x : Port) : (s.setPort k x).tlb = s.tlb := rfl
@[simp] theorem State.setPort_sets (s : State) (k : Nat) (x : Port) : (s.setPort k x).sets = s.sets := rfl
@[simp] theorem State.setPort_rows (s : State) (k : Nat) (x : Port) : (s.setPort k x).rows = s.rows := rfl
@[simp] theorem State.setPort_busyBanks (s : State) (k : Nat) (x : Port) : (s.setPort k x).busyBanks = s.busyBanks := rfl
@[simp] theorem State.setPort_backed (s : State) (k : Nat) (x : Port) : (s.setPort k x).backed = s.backed := rfl
@[simp] theorem State.setPort_hbms (s : State) (k : Nat) (x : Port) : (s.setPort k x).hbms = s.hbms := rfl
@[simp] theorem State.setPort_retired (s : State) (k : Nat) (x : Port) : (s.setPort k x).retired = s.retired := rfl
@[simp] theorem State.setPort_cores (s : State) (k : Nat) (x : Port) : (s.setPort k x).cores = s.cores := rfl
@[simp] theorem State.setPort_dies (s : State) (k : Nat) (x : Port) : (s.setPort k x).dies = s.dies := rfl
@[simp] theorem State.setPort_parts (s : State) (k : Nat) (x : Port) : (s.setPort k x).parts = s.parts := rfl
@[simp] theorem State.setPort_scs (s : State) (k : Nat) (x : Port) : (s.setPort k x).scs = s.scs := rfl
@[simp] theorem State.setPort_resvs (s : State) (k : Nat) (x : Port) : (s.setPort k x).resvs = s.resvs := rfl
@[simp] theorem State.setPort_launches (s : State) (k : Nat) (x : Port) : (s.setPort k x).launches = s.launches := rfl
@[simp] theorem State.setPort_wgs (s : State) (k : Nat) (x : Port) : (s.setPort k x).wgs = s.wgs := rfl
@[simp] theorem State.setPort_fibres (s : State) (k : Nat) (x : Port) : (s.setPort k x).fibres = s.fibres := rfl
@[simp] theorem State.setPort_cmds (s : State) (k : Nat) (x : Port) : (s.setPort k x).cmds = s.cmds := rfl
@[simp] theorem State.setPort_ports (s : State) (k : Nat) (x : Port) : (s.setPort k x).ports = s.ports.put k x := rfl
@[simp] theorem State.setPort_nlfto (s : State) (k : Nat) (x : Port) : (s.setPort k x).nlfto = s.nlfto := rfl
@[simp] theorem State.setPort_windows (s : State) (k : Nat) (x : Port) : (s.setPort k x).windows = s.windows := rfl
@[simp] theorem State.setPort_sct (s : State) (k : Nat) (x : Port) : (s.setPort k x).sct = s.sct := rfl
@[simp] theorem State.setPort_sctLock (s : State) (k : Nat) (x : Port) : (s.setPort k x).sctLock = s.sctLock := rfl
@[simp] theorem State.setPort_groups (s : State) (k : Nat) (x : Port) : (s.setPort k x).groups = s.groups := rfl
@[simp] theorem State.setPort_snoop (s : State) (k : Nat) (x : Port) : (s.setPort k x).snoop = s.snoop := rfl
@[simp] theorem State.setPort_severed (s : State) (k : Nat) (x : Port) : (s.setPort k x).severed = s.severed := rfl
@[simp] theorem State.setPort_rpMode (s : State) (k : Nat) (x : Port) : (s.setPort k x).rpMode = s.rpMode := rfl
@[simp] theorem State.setPort_rps (s : State) (k : Nat) (x : Port) : (s.setPort k x).rps = s.rps := rfl
@[simp] theorem State.setPort_atsOff (s : State) (k : Nat) (x : Port) : (s.setPort k x).atsOff = s.atsOff := rfl
@[simp] theorem State.setPort_atsFns (s : State) (k : Nat) (x : Port) : (s.setPort k x).atsFns = s.atsFns := rfl
@[simp] theorem State.setPort_boot (s : State) (k : Nat) (x : Port) : (s.setPort k x).boot = s.boot := rfl
@[simp] theorem State.setPort_out (s : State) (k : Nat) (x : Port) : (s.setPort k x).out = s.out := rfl

/-! State.setRp -/
@[simp] theorem State.setRp_sched (s : State) (k : Nat) (x : RootPort) : (s.setRp k x).sched = s.sched := rfl
@[simp] theorem State.setRp_cur (s : State) (k : Nat) (x : RootPort) : (s.setRp k x).cur = s.cur := rfl
@[simp] theorem State.setRp_batch (s : State) (k : Nat) (x : RootPort) : (s.setRp k x).batch = s.batch := rfl
@[simp] theorem State.setRp_free (s : State) (k : Nat) (x : RootPort) : (s.setRp k x).free = s.free := rfl
@[simp] theorem State.setRp_nextId (s : State) (k : Nat) (x : RootPort) : (s.setRp k x).nextId = s.nextId := rfl
@[simp] theorem State.setRp_moment (s : State) (k : Nat) (x : RootPort) : (s.setRp k x).moment = s.moment := rfl
@[simp] theorem State.setRp_gtime (s : State) (k : Nat) (x : RootPort) : (s.setRp k x).gtime = s.gtime := rfl
@[simp] theorem State.setRp_chip (s : State) (k : Nat) (x : RootPort) : (s.setRp k x).chip = s.chip := rfl
@[simp] theorem State.setRp_mem (s : State) (k : Nat) (x : RootPort) : (s.setRp k x).mem = s.mem := rfl
@[simp] theorem State.setRp_past (s : State) (k : Nat) (x : RootPort) : (s.setRp k x).past = s.past := rfl
@[simp] theorem State.setRp_pastN (s : State) (k : Nat) (x : RootPort) : (s.setRp k x).pastN = s.pastN := rfl
@[simp] theorem State.setRp_rels (s : State) (k : Nat) (x : RootPort) : (s.setRp k x).rels = s.rels := rfl
@[simp] theorem State.setRp_tags (s : State) (k : Nat) (x : RootPort) : (s.setRp k x).tags = s.tags := rfl
@[simp] theorem State.setRp_bad (s : State) (k : Nat) (x : RootPort) : (s.setRp k x).bad = s.bad := rfl
@[simp] theorem State.setRp_lost (s : State) (k : Nat) (x : RootPort) : (s.setRp k x).lost = s.lost := rfl
@[simp] theorem State.setRp_lines (s : State) (k : Nat) (x : RootPort) : (s.setRp k x).lines = s.lines := rfl
@[simp] theorem State.setRp_partials (s : State) (k : Nat) (x : RootPort) : (s.setRp k x).partials = s.partials := rfl
@[simp] theorem State.setRp_lockMsgs (s : State) (k : Nat) (x : RootPort) : (s.setRp k x).lockMsgs = s.lockMsgs := rfl
@[simp] theorem State.setRp_guests (s : State) (k : Nat) (x : RootPort) : (s.setRp k x).guests = s.guests := rfl
@[simp] theorem State.setRp_tableWait (s : State) (k : Nat) (x : RootPort) : (s.setRp k x).tableWait = s.tableWait := rfl
@[simp] theorem State.setRp_tlb (s : State) (k : Nat) (x : RootPort) : (s.setRp k x).tlb = s.tlb := rfl
@[simp] theorem State.setRp_sets (s : State) (k : Nat) (x : RootPort) : (s.setRp k x).sets = s.sets := rfl
@[simp] theorem State.setRp_rows (s : State) (k : Nat) (x : RootPort) : (s.setRp k x).rows = s.rows := rfl
@[simp] theorem State.setRp_busyBanks (s : State) (k : Nat) (x : RootPort) : (s.setRp k x).busyBanks = s.busyBanks := rfl
@[simp] theorem State.setRp_backed (s : State) (k : Nat) (x : RootPort) : (s.setRp k x).backed = s.backed := rfl
@[simp] theorem State.setRp_hbms (s : State) (k : Nat) (x : RootPort) : (s.setRp k x).hbms = s.hbms := rfl
@[simp] theorem State.setRp_retired (s : State) (k : Nat) (x : RootPort) : (s.setRp k x).retired = s.retired := rfl
@[simp] theorem State.setRp_cores (s : State) (k : Nat) (x : RootPort) : (s.setRp k x).cores = s.cores := rfl
@[simp] theorem State.setRp_dies (s : State) (k : Nat) (x : RootPort) : (s.setRp k x).dies = s.dies := rfl
@[simp] theorem State.setRp_parts (s : State) (k : Nat) (x : RootPort) : (s.setRp k x).parts = s.parts := rfl
@[simp] theorem State.setRp_scs (s : State) (k : Nat) (x : RootPort) : (s.setRp k x).scs = s.scs := rfl
@[simp] theorem State.setRp_resvs (s : State) (k : Nat) (x : RootPort) : (s.setRp k x).resvs = s.resvs := rfl
@[simp] theorem State.setRp_launches (s : State) (k : Nat) (x : RootPort) : (s.setRp k x).launches = s.launches := rfl
@[simp] theorem State.setRp_wgs (s : State) (k : Nat) (x : RootPort) : (s.setRp k x).wgs = s.wgs := rfl
@[simp] theorem State.setRp_fibres (s : State) (k : Nat) (x : RootPort) : (s.setRp k x).fibres = s.fibres := rfl
@[simp] theorem State.setRp_cmds (s : State) (k : Nat) (x : RootPort) : (s.setRp k x).cmds = s.cmds := rfl
@[simp] theorem State.setRp_ports (s : State) (k : Nat) (x : RootPort) : (s.setRp k x).ports = s.ports := rfl
@[simp] theorem State.setRp_nlfto (s : State) (k : Nat) (x : RootPort) : (s.setRp k x).nlfto = s.nlfto := rfl
@[simp] theorem State.setRp_windows (s : State) (k : Nat) (x : RootPort) : (s.setRp k x).windows = s.windows := rfl
@[simp] theorem State.setRp_sct (s : State) (k : Nat) (x : RootPort) : (s.setRp k x).sct = s.sct := rfl
@[simp] theorem State.setRp_sctLock (s : State) (k : Nat) (x : RootPort) : (s.setRp k x).sctLock = s.sctLock := rfl
@[simp] theorem State.setRp_groups (s : State) (k : Nat) (x : RootPort) : (s.setRp k x).groups = s.groups := rfl
@[simp] theorem State.setRp_snoop (s : State) (k : Nat) (x : RootPort) : (s.setRp k x).snoop = s.snoop := rfl
@[simp] theorem State.setRp_severed (s : State) (k : Nat) (x : RootPort) : (s.setRp k x).severed = s.severed := rfl
@[simp] theorem State.setRp_rpMode (s : State) (k : Nat) (x : RootPort) : (s.setRp k x).rpMode = s.rpMode := rfl
@[simp] theorem State.setRp_rps (s : State) (k : Nat) (x : RootPort) : (s.setRp k x).rps = s.rps.put k x := rfl
@[simp] theorem State.setRp_atsOff (s : State) (k : Nat) (x : RootPort) : (s.setRp k x).atsOff = s.atsOff := rfl
@[simp] theorem State.setRp_atsFns (s : State) (k : Nat) (x : RootPort) : (s.setRp k x).atsFns = s.atsFns := rfl
@[simp] theorem State.setRp_boot (s : State) (k : Nat) (x : RootPort) : (s.setRp k x).boot = s.boot := rfl
@[simp] theorem State.setRp_out (s : State) (k : Nat) (x : RootPort) : (s.setRp k x).out = s.out := rfl

/-! State.named -/
@[simp] theorem State.named_sched (s : State) : s.named.sched = s.sched := rfl
@[simp] theorem State.named_cur (s : State) : s.named.cur = s.cur := rfl
@[simp] theorem State.named_batch (s : State) : s.named.batch = s.batch := rfl
@[simp] theorem State.named_free (s : State) : s.named.free = s.free := rfl
@[simp] theorem State.named_nextId (s : State) : s.named.nextId = s.nextId + 1 := rfl
@[simp] theorem State.named_moment (s : State) : s.named.moment = s.moment := rfl
@[simp] theorem State.named_gtime (s : State) : s.named.gtime = s.gtime := rfl
@[simp] theorem State.named_chip (s : State) : s.named.chip = s.chip := rfl
@[simp] theorem State.named_mem (s : State) : s.named.mem = s.mem := rfl
@[simp] theorem State.named_past (s : State) : s.named.past = s.past := rfl
@[simp] theorem State.named_pastN (s : State) : s.named.pastN = s.pastN := rfl
@[simp] theorem State.named_rels (s : State) : s.named.rels = s.rels := rfl
@[simp] theorem State.named_tags (s : State) : s.named.tags = s.tags := rfl
@[simp] theorem State.named_bad (s : State) : s.named.bad = s.bad := rfl
@[simp] theorem State.named_lost (s : State) : s.named.lost = s.lost := rfl
@[simp] theorem State.named_lines (s : State) : s.named.lines = s.lines := rfl
@[simp] theorem State.named_partials (s : State) : s.named.partials = s.partials := rfl
@[simp] theorem State.named_lockMsgs (s : State) : s.named.lockMsgs = s.lockMsgs := rfl
@[simp] theorem State.named_guests (s : State) : s.named.guests = s.guests := rfl
@[simp] theorem State.named_tableWait (s : State) : s.named.tableWait = s.tableWait := rfl
@[simp] theorem State.named_tlb (s : State) : s.named.tlb = s.tlb := rfl
@[simp] theorem State.named_sets (s : State) : s.named.sets = s.sets := rfl
@[simp] theorem State.named_rows (s : State) : s.named.rows = s.rows := rfl
@[simp] theorem State.named_busyBanks (s : State) : s.named.busyBanks = s.busyBanks := rfl
@[simp] theorem State.named_backed (s : State) : s.named.backed = s.backed := rfl
@[simp] theorem State.named_hbms (s : State) : s.named.hbms = s.hbms := rfl
@[simp] theorem State.named_retired (s : State) : s.named.retired = s.retired := rfl
@[simp] theorem State.named_cores (s : State) : s.named.cores = s.cores := rfl
@[simp] theorem State.named_dies (s : State) : s.named.dies = s.dies := rfl
@[simp] theorem State.named_parts (s : State) : s.named.parts = s.parts := rfl
@[simp] theorem State.named_scs (s : State) : s.named.scs = s.scs := rfl
@[simp] theorem State.named_resvs (s : State) : s.named.resvs = s.resvs := rfl
@[simp] theorem State.named_launches (s : State) : s.named.launches = s.launches := rfl
@[simp] theorem State.named_wgs (s : State) : s.named.wgs = s.wgs := rfl
@[simp] theorem State.named_fibres (s : State) : s.named.fibres = s.fibres := rfl
@[simp] theorem State.named_cmds (s : State) : s.named.cmds = s.cmds := rfl
@[simp] theorem State.named_ports (s : State) : s.named.ports = s.ports := rfl
@[simp] theorem State.named_nlfto (s : State) : s.named.nlfto = s.nlfto := rfl
@[simp] theorem State.named_windows (s : State) : s.named.windows = s.windows := rfl
@[simp] theorem State.named_sct (s : State) : s.named.sct = s.sct := rfl
@[simp] theorem State.named_sctLock (s : State) : s.named.sctLock = s.sctLock := rfl
@[simp] theorem State.named_groups (s : State) : s.named.groups = s.groups := rfl
@[simp] theorem State.named_snoop (s : State) : s.named.snoop = s.snoop := rfl
@[simp] theorem State.named_severed (s : State) : s.named.severed = s.severed := rfl
@[simp] theorem State.named_rpMode (s : State) : s.named.rpMode = s.rpMode := rfl
@[simp] theorem State.named_rps (s : State) : s.named.rps = s.rps := rfl
@[simp] theorem State.named_atsOff (s : State) : s.named.atsOff = s.atsOff := rfl
@[simp] theorem State.named_atsFns (s : State) : s.named.atsFns = s.atsFns := rfl
@[simp] theorem State.named_boot (s : State) : s.named.boot = s.boot := rfl
@[simp] theorem State.named_out (s : State) : s.named.out = s.out := rfl

/-! State.drawn -/
@[simp] theorem State.drawn_sched (s : State) : s.drawn.sched = s.sched := rfl
@[simp] theorem State.drawn_cur (s : State) : s.drawn.cur = s.cur := rfl
@[simp] theorem State.drawn_batch (s : State) : s.drawn.batch = s.batch := rfl
@[simp] theorem State.drawn_free (s : State) : s.drawn.free = s.free + 1 := rfl
@[simp] theorem State.drawn_nextId (s : State) : s.drawn.nextId = s.nextId := rfl
@[simp] theorem State.drawn_moment (s : State) : s.drawn.moment = s.moment := rfl
@[simp] theorem State.drawn_gtime (s : State) : s.drawn.gtime = s.gtime := rfl
@[simp] theorem State.drawn_chip (s : State) : s.drawn.chip = s.chip := rfl
@[simp] theorem State.drawn_mem (s : State) : s.drawn.mem = s.mem := rfl
@[simp] theorem State.drawn_past (s : State) : s.drawn.past = s.past := rfl
@[simp] theorem State.drawn_pastN (s : State) : s.drawn.pastN = s.pastN := rfl
@[simp] theorem State.drawn_rels (s : State) : s.drawn.rels = s.rels := rfl
@[simp] theorem State.drawn_tags (s : State) : s.drawn.tags = s.tags := rfl
@[simp] theorem State.drawn_bad (s : State) : s.drawn.bad = s.bad := rfl
@[simp] theorem State.drawn_lost (s : State) : s.drawn.lost = s.lost := rfl
@[simp] theorem State.drawn_lines (s : State) : s.drawn.lines = s.lines := rfl
@[simp] theorem State.drawn_partials (s : State) : s.drawn.partials = s.partials := rfl
@[simp] theorem State.drawn_lockMsgs (s : State) : s.drawn.lockMsgs = s.lockMsgs := rfl
@[simp] theorem State.drawn_guests (s : State) : s.drawn.guests = s.guests := rfl
@[simp] theorem State.drawn_tableWait (s : State) : s.drawn.tableWait = s.tableWait := rfl
@[simp] theorem State.drawn_tlb (s : State) : s.drawn.tlb = s.tlb := rfl
@[simp] theorem State.drawn_sets (s : State) : s.drawn.sets = s.sets := rfl
@[simp] theorem State.drawn_rows (s : State) : s.drawn.rows = s.rows := rfl
@[simp] theorem State.drawn_busyBanks (s : State) : s.drawn.busyBanks = s.busyBanks := rfl
@[simp] theorem State.drawn_backed (s : State) : s.drawn.backed = s.backed := rfl
@[simp] theorem State.drawn_hbms (s : State) : s.drawn.hbms = s.hbms := rfl
@[simp] theorem State.drawn_retired (s : State) : s.drawn.retired = s.retired := rfl
@[simp] theorem State.drawn_cores (s : State) : s.drawn.cores = s.cores := rfl
@[simp] theorem State.drawn_dies (s : State) : s.drawn.dies = s.dies := rfl
@[simp] theorem State.drawn_parts (s : State) : s.drawn.parts = s.parts := rfl
@[simp] theorem State.drawn_scs (s : State) : s.drawn.scs = s.scs := rfl
@[simp] theorem State.drawn_resvs (s : State) : s.drawn.resvs = s.resvs := rfl
@[simp] theorem State.drawn_launches (s : State) : s.drawn.launches = s.launches := rfl
@[simp] theorem State.drawn_wgs (s : State) : s.drawn.wgs = s.wgs := rfl
@[simp] theorem State.drawn_fibres (s : State) : s.drawn.fibres = s.fibres := rfl
@[simp] theorem State.drawn_cmds (s : State) : s.drawn.cmds = s.cmds := rfl
@[simp] theorem State.drawn_ports (s : State) : s.drawn.ports = s.ports := rfl
@[simp] theorem State.drawn_nlfto (s : State) : s.drawn.nlfto = s.nlfto := rfl
@[simp] theorem State.drawn_windows (s : State) : s.drawn.windows = s.windows := rfl
@[simp] theorem State.drawn_sct (s : State) : s.drawn.sct = s.sct := rfl
@[simp] theorem State.drawn_sctLock (s : State) : s.drawn.sctLock = s.sctLock := rfl
@[simp] theorem State.drawn_groups (s : State) : s.drawn.groups = s.groups := rfl
@[simp] theorem State.drawn_snoop (s : State) : s.drawn.snoop = s.snoop := rfl
@[simp] theorem State.drawn_severed (s : State) : s.drawn.severed = s.severed := rfl
@[simp] theorem State.drawn_rpMode (s : State) : s.drawn.rpMode = s.rpMode := rfl
@[simp] theorem State.drawn_rps (s : State) : s.drawn.rps = s.rps := rfl
@[simp] theorem State.drawn_atsOff (s : State) : s.drawn.atsOff = s.atsOff := rfl
@[simp] theorem State.drawn_atsFns (s : State) : s.drawn.atsFns = s.atsFns := rfl
@[simp] theorem State.drawn_boot (s : State) : s.drawn.boot = s.boot := rfl
@[simp] theorem State.drawn_out (s : State) : s.drawn.out = s.out := rfl

/-! State.send -/
@[simp] theorem State.send_sched (s : State) (m : Msg) : (s.send m).sched = s.sched := rfl
@[simp] theorem State.send_cur (s : State) (m : Msg) : (s.send m).cur = s.cur := rfl
@[simp] theorem State.send_batch (s : State) (m : Msg) : (s.send m).batch = s.batch := rfl
@[simp] theorem State.send_free (s : State) (m : Msg) : (s.send m).free = s.free := rfl
@[simp] theorem State.send_nextId (s : State) (m : Msg) : (s.send m).nextId = s.nextId := rfl
@[simp] theorem State.send_moment (s : State) (m : Msg) : (s.send m).moment = s.moment := rfl
@[simp] theorem State.send_gtime (s : State) (m : Msg) : (s.send m).gtime = s.gtime := rfl
@[simp] theorem State.send_chip (s : State) (m : Msg) : (s.send m).chip = s.chip := rfl
@[simp] theorem State.send_mem (s : State) (m : Msg) : (s.send m).mem = s.mem := rfl
@[simp] theorem State.send_past (s : State) (m : Msg) : (s.send m).past = s.past := rfl
@[simp] theorem State.send_pastN (s : State) (m : Msg) : (s.send m).pastN = s.pastN := rfl
@[simp] theorem State.send_rels (s : State) (m : Msg) : (s.send m).rels = s.rels := rfl
@[simp] theorem State.send_tags (s : State) (m : Msg) : (s.send m).tags = s.tags := rfl
@[simp] theorem State.send_bad (s : State) (m : Msg) : (s.send m).bad = s.bad := rfl
@[simp] theorem State.send_lost (s : State) (m : Msg) : (s.send m).lost = s.lost := rfl
@[simp] theorem State.send_lines (s : State) (m : Msg) : (s.send m).lines = s.lines := rfl
@[simp] theorem State.send_partials (s : State) (m : Msg) : (s.send m).partials = s.partials := rfl
@[simp] theorem State.send_lockMsgs (s : State) (m : Msg) : (s.send m).lockMsgs = s.lockMsgs := rfl
@[simp] theorem State.send_guests (s : State) (m : Msg) : (s.send m).guests = s.guests := rfl
@[simp] theorem State.send_tableWait (s : State) (m : Msg) : (s.send m).tableWait = s.tableWait := rfl
@[simp] theorem State.send_tlb (s : State) (m : Msg) : (s.send m).tlb = s.tlb := rfl
@[simp] theorem State.send_sets (s : State) (m : Msg) : (s.send m).sets = s.sets := rfl
@[simp] theorem State.send_rows (s : State) (m : Msg) : (s.send m).rows = s.rows := rfl
@[simp] theorem State.send_busyBanks (s : State) (m : Msg) : (s.send m).busyBanks = s.busyBanks := rfl
@[simp] theorem State.send_backed (s : State) (m : Msg) : (s.send m).backed = s.backed := rfl
@[simp] theorem State.send_hbms (s : State) (m : Msg) : (s.send m).hbms = s.hbms := rfl
@[simp] theorem State.send_retired (s : State) (m : Msg) : (s.send m).retired = s.retired := rfl
@[simp] theorem State.send_cores (s : State) (m : Msg) : (s.send m).cores = s.cores := rfl
@[simp] theorem State.send_dies (s : State) (m : Msg) : (s.send m).dies = s.dies := rfl
@[simp] theorem State.send_parts (s : State) (m : Msg) : (s.send m).parts = s.parts := rfl
@[simp] theorem State.send_scs (s : State) (m : Msg) : (s.send m).scs = s.scs := rfl
@[simp] theorem State.send_resvs (s : State) (m : Msg) : (s.send m).resvs = s.resvs := rfl
@[simp] theorem State.send_launches (s : State) (m : Msg) : (s.send m).launches = s.launches := rfl
@[simp] theorem State.send_wgs (s : State) (m : Msg) : (s.send m).wgs = s.wgs := rfl
@[simp] theorem State.send_fibres (s : State) (m : Msg) : (s.send m).fibres = s.fibres := rfl
@[simp] theorem State.send_cmds (s : State) (m : Msg) : (s.send m).cmds = s.cmds := rfl
@[simp] theorem State.send_ports (s : State) (m : Msg) : (s.send m).ports = s.ports := rfl
@[simp] theorem State.send_nlfto (s : State) (m : Msg) : (s.send m).nlfto = s.nlfto := rfl
@[simp] theorem State.send_windows (s : State) (m : Msg) : (s.send m).windows = s.windows := rfl
@[simp] theorem State.send_sct (s : State) (m : Msg) : (s.send m).sct = s.sct := rfl
@[simp] theorem State.send_sctLock (s : State) (m : Msg) : (s.send m).sctLock = s.sctLock := rfl
@[simp] theorem State.send_groups (s : State) (m : Msg) : (s.send m).groups = s.groups := rfl
@[simp] theorem State.send_snoop (s : State) (m : Msg) : (s.send m).snoop = s.snoop := rfl
@[simp] theorem State.send_severed (s : State) (m : Msg) : (s.send m).severed = s.severed := rfl
@[simp] theorem State.send_rpMode (s : State) (m : Msg) : (s.send m).rpMode = s.rpMode := rfl
@[simp] theorem State.send_rps (s : State) (m : Msg) : (s.send m).rps = s.rps := rfl
@[simp] theorem State.send_atsOff (s : State) (m : Msg) : (s.send m).atsOff = s.atsOff := rfl
@[simp] theorem State.send_atsFns (s : State) (m : Msg) : (s.send m).atsFns = s.atsFns := rfl
@[simp] theorem State.send_boot (s : State) (m : Msg) : (s.send m).boot = s.boot := rfl
@[simp] theorem State.send_out (s : State) (m : Msg) : (s.send m).out = s.out ++ [m] := rfl

/-! State.put -/
@[simp] theorem State.put_sched (s : State) (a : Nat) (l : List Byte) : (s.put a l).sched = s.sched := rfl
@[simp] theorem State.put_cur (s : State) (a : Nat) (l : List Byte) : (s.put a l).cur = s.cur := rfl
@[simp] theorem State.put_batch (s : State) (a : Nat) (l : List Byte) : (s.put a l).batch = s.batch := rfl
@[simp] theorem State.put_free (s : State) (a : Nat) (l : List Byte) : (s.put a l).free = s.free := rfl
@[simp] theorem State.put_nextId (s : State) (a : Nat) (l : List Byte) : (s.put a l).nextId = s.nextId := rfl
@[simp] theorem State.put_moment (s : State) (a : Nat) (l : List Byte) : (s.put a l).moment = s.moment := rfl
@[simp] theorem State.put_gtime (s : State) (a : Nat) (l : List Byte) : (s.put a l).gtime = s.gtime := rfl
@[simp] theorem State.put_chip (s : State) (a : Nat) (l : List Byte) : (s.put a l).chip = s.chip := rfl
@[simp] theorem State.put_mem (s : State) (a : Nat) (l : List Byte) : (s.put a l).mem = s.mem.putBytes a l := rfl
@[simp] theorem State.put_past (s : State) (a : Nat) (l : List Byte) : (s.put a l).past = s.past := rfl
@[simp] theorem State.put_pastN (s : State) (a : Nat) (l : List Byte) : (s.put a l).pastN = s.pastN := rfl
@[simp] theorem State.put_rels (s : State) (a : Nat) (l : List Byte) : (s.put a l).rels = s.rels := rfl
@[simp] theorem State.put_tags (s : State) (a : Nat) (l : List Byte) : (s.put a l).tags = untag s.tags a l.length := rfl
@[simp] theorem State.put_bad (s : State) (a : Nat) (l : List Byte) : (s.put a l).bad = s.bad := rfl
@[simp] theorem State.put_lost (s : State) (a : Nat) (l : List Byte) : (s.put a l).lost = s.lost := rfl
@[simp] theorem State.put_lines (s : State) (a : Nat) (l : List Byte) : (s.put a l).lines = s.lines := rfl
@[simp] theorem State.put_partials (s : State) (a : Nat) (l : List Byte) : (s.put a l).partials = s.partials := rfl
@[simp] theorem State.put_lockMsgs (s : State) (a : Nat) (l : List Byte) : (s.put a l).lockMsgs = s.lockMsgs := rfl
@[simp] theorem State.put_guests (s : State) (a : Nat) (l : List Byte) : (s.put a l).guests = s.guests := rfl
@[simp] theorem State.put_tableWait (s : State) (a : Nat) (l : List Byte) : (s.put a l).tableWait = s.tableWait := rfl
@[simp] theorem State.put_tlb (s : State) (a : Nat) (l : List Byte) : (s.put a l).tlb = s.tlb := rfl
@[simp] theorem State.put_sets (s : State) (a : Nat) (l : List Byte) : (s.put a l).sets = s.sets := rfl
@[simp] theorem State.put_rows (s : State) (a : Nat) (l : List Byte) : (s.put a l).rows = s.rows := rfl
@[simp] theorem State.put_busyBanks (s : State) (a : Nat) (l : List Byte) : (s.put a l).busyBanks = s.busyBanks := rfl
@[simp] theorem State.put_backed (s : State) (a : Nat) (l : List Byte) : (s.put a l).backed = s.backed := rfl
@[simp] theorem State.put_hbms (s : State) (a : Nat) (l : List Byte) : (s.put a l).hbms = s.hbms := rfl
@[simp] theorem State.put_retired (s : State) (a : Nat) (l : List Byte) : (s.put a l).retired = s.retired := rfl
@[simp] theorem State.put_cores (s : State) (a : Nat) (l : List Byte) : (s.put a l).cores = s.cores := rfl
@[simp] theorem State.put_dies (s : State) (a : Nat) (l : List Byte) : (s.put a l).dies = s.dies := rfl
@[simp] theorem State.put_parts (s : State) (a : Nat) (l : List Byte) : (s.put a l).parts = s.parts := rfl
@[simp] theorem State.put_scs (s : State) (a : Nat) (l : List Byte) : (s.put a l).scs = s.scs := rfl
@[simp] theorem State.put_resvs (s : State) (a : Nat) (l : List Byte) : (s.put a l).resvs = unreserve s.resvs a l.length := rfl
@[simp] theorem State.put_launches (s : State) (a : Nat) (l : List Byte) : (s.put a l).launches = s.launches := rfl
@[simp] theorem State.put_wgs (s : State) (a : Nat) (l : List Byte) : (s.put a l).wgs = s.wgs := rfl
@[simp] theorem State.put_fibres (s : State) (a : Nat) (l : List Byte) : (s.put a l).fibres = s.fibres := rfl
@[simp] theorem State.put_cmds (s : State) (a : Nat) (l : List Byte) : (s.put a l).cmds = s.cmds := rfl
@[simp] theorem State.put_ports (s : State) (a : Nat) (l : List Byte) : (s.put a l).ports = s.ports := rfl
@[simp] theorem State.put_nlfto (s : State) (a : Nat) (l : List Byte) : (s.put a l).nlfto = s.nlfto := rfl
@[simp] theorem State.put_windows (s : State) (a : Nat) (l : List Byte) : (s.put a l).windows = s.windows := rfl
@[simp] theorem State.put_sct (s : State) (a : Nat) (l : List Byte) : (s.put a l).sct = s.sct := rfl
@[simp] theorem State.put_sctLock (s : State) (a : Nat) (l : List Byte) : (s.put a l).sctLock = s.sctLock := rfl
@[simp] theorem State.put_groups (s : State) (a : Nat) (l : List Byte) : (s.put a l).groups = s.groups := rfl
@[simp] theorem State.put_snoop (s : State) (a : Nat) (l : List Byte) : (s.put a l).snoop = s.snoop := rfl
@[simp] theorem State.put_severed (s : State) (a : Nat) (l : List Byte) : (s.put a l).severed = s.severed := rfl
@[simp] theorem State.put_rpMode (s : State) (a : Nat) (l : List Byte) : (s.put a l).rpMode = s.rpMode := rfl
@[simp] theorem State.put_rps (s : State) (a : Nat) (l : List Byte) : (s.put a l).rps = s.rps := rfl
@[simp] theorem State.put_atsOff (s : State) (a : Nat) (l : List Byte) : (s.put a l).atsOff = s.atsOff := rfl
@[simp] theorem State.put_atsFns (s : State) (a : Nat) (l : List Byte) : (s.put a l).atsFns = s.atsFns := rfl
@[simp] theorem State.put_boot (s : State) (a : Nat) (l : List Byte) : (s.put a l).boot = s.boot := rfl
@[simp] theorem State.put_out (s : State) (a : Nat) (l : List Byte) : (s.put a l).out = s.out := rfl

/-! State.poke -/
@[simp] theorem State.poke_sched (s : State) (a : Nat) (l : List Byte) : (s.poke a l).sched = s.sched := rfl
@[simp] theorem State.poke_cur (s : State) (a : Nat) (l : List Byte) : (s.poke a l).cur = s.cur := rfl
@[simp] theorem State.poke_batch (s : State) (a : Nat) (l : List Byte) : (s.poke a l).batch = s.batch := rfl
@[simp] theorem State.poke_free (s : State) (a : Nat) (l : List Byte) : (s.poke a l).free = s.free := rfl
@[simp] theorem State.poke_nextId (s : State) (a : Nat) (l : List Byte) : (s.poke a l).nextId = s.nextId := rfl
@[simp] theorem State.poke_moment (s : State) (a : Nat) (l : List Byte) : (s.poke a l).moment = s.moment := rfl
@[simp] theorem State.poke_gtime (s : State) (a : Nat) (l : List Byte) : (s.poke a l).gtime = s.gtime := rfl
@[simp] theorem State.poke_chip (s : State) (a : Nat) (l : List Byte) : (s.poke a l).chip = s.chip := rfl
@[simp] theorem State.poke_mem (s : State) (a : Nat) (l : List Byte) : (s.poke a l).mem = s.mem.putBytes a l := rfl
@[simp] theorem State.poke_past (s : State) (a : Nat) (l : List Byte) : (s.poke a l).past = s.past.filter fun r => !r.meets a l.length := rfl
@[simp] theorem State.poke_pastN (s : State) (a : Nat) (l : List Byte) : (s.poke a l).pastN = s.pastN := rfl
@[simp] theorem State.poke_rels (s : State) (a : Nat) (l : List Byte) : (s.poke a l).rels = relsAfter s.rels a l.length false := rfl
@[simp] theorem State.poke_tags (s : State) (a : Nat) (l : List Byte) : (s.poke a l).tags = untag s.tags a l.length := rfl
@[simp] theorem State.poke_bad (s : State) (a : Nat) (l : List Byte) : (s.poke a l).bad = s.bad := rfl
@[simp] theorem State.poke_lost (s : State) (a : Nat) (l : List Byte) : (s.poke a l).lost = s.lost := rfl
@[simp] theorem State.poke_lines (s : State) (a : Nat) (l : List Byte) : (s.poke a l).lines = s.lines := rfl
@[simp] theorem State.poke_partials (s : State) (a : Nat) (l : List Byte) : (s.poke a l).partials = s.partials := rfl
@[simp] theorem State.poke_lockMsgs (s : State) (a : Nat) (l : List Byte) : (s.poke a l).lockMsgs = s.lockMsgs := rfl
@[simp] theorem State.poke_guests (s : State) (a : Nat) (l : List Byte) : (s.poke a l).guests = s.guests := rfl
@[simp] theorem State.poke_tableWait (s : State) (a : Nat) (l : List Byte) : (s.poke a l).tableWait = s.tableWait := rfl
@[simp] theorem State.poke_tlb (s : State) (a : Nat) (l : List Byte) : (s.poke a l).tlb = s.tlb := rfl
@[simp] theorem State.poke_sets (s : State) (a : Nat) (l : List Byte) : (s.poke a l).sets = s.sets := rfl
@[simp] theorem State.poke_rows (s : State) (a : Nat) (l : List Byte) : (s.poke a l).rows = s.rows := rfl
@[simp] theorem State.poke_busyBanks (s : State) (a : Nat) (l : List Byte) : (s.poke a l).busyBanks = s.busyBanks := rfl
@[simp] theorem State.poke_backed (s : State) (a : Nat) (l : List Byte) : (s.poke a l).backed = s.backed := rfl
@[simp] theorem State.poke_hbms (s : State) (a : Nat) (l : List Byte) : (s.poke a l).hbms = s.hbms := rfl
@[simp] theorem State.poke_retired (s : State) (a : Nat) (l : List Byte) : (s.poke a l).retired = s.retired := rfl
@[simp] theorem State.poke_cores (s : State) (a : Nat) (l : List Byte) : (s.poke a l).cores = s.cores := rfl
@[simp] theorem State.poke_dies (s : State) (a : Nat) (l : List Byte) : (s.poke a l).dies = s.dies := rfl
@[simp] theorem State.poke_parts (s : State) (a : Nat) (l : List Byte) : (s.poke a l).parts = s.parts := rfl
@[simp] theorem State.poke_scs (s : State) (a : Nat) (l : List Byte) : (s.poke a l).scs = s.scs := rfl
@[simp] theorem State.poke_resvs (s : State) (a : Nat) (l : List Byte) : (s.poke a l).resvs = unreserve s.resvs a l.length := rfl
@[simp] theorem State.poke_launches (s : State) (a : Nat) (l : List Byte) : (s.poke a l).launches = s.launches := rfl
@[simp] theorem State.poke_wgs (s : State) (a : Nat) (l : List Byte) : (s.poke a l).wgs = s.wgs := rfl
@[simp] theorem State.poke_fibres (s : State) (a : Nat) (l : List Byte) : (s.poke a l).fibres = s.fibres := rfl
@[simp] theorem State.poke_cmds (s : State) (a : Nat) (l : List Byte) : (s.poke a l).cmds = s.cmds := rfl
@[simp] theorem State.poke_ports (s : State) (a : Nat) (l : List Byte) : (s.poke a l).ports = s.ports := rfl
@[simp] theorem State.poke_nlfto (s : State) (a : Nat) (l : List Byte) : (s.poke a l).nlfto = s.nlfto := rfl
@[simp] theorem State.poke_windows (s : State) (a : Nat) (l : List Byte) : (s.poke a l).windows = s.windows := rfl
@[simp] theorem State.poke_sct (s : State) (a : Nat) (l : List Byte) : (s.poke a l).sct = s.sct := rfl
@[simp] theorem State.poke_sctLock (s : State) (a : Nat) (l : List Byte) : (s.poke a l).sctLock = s.sctLock := rfl
@[simp] theorem State.poke_groups (s : State) (a : Nat) (l : List Byte) : (s.poke a l).groups = s.groups := rfl
@[simp] theorem State.poke_snoop (s : State) (a : Nat) (l : List Byte) : (s.poke a l).snoop = s.snoop := rfl
@[simp] theorem State.poke_severed (s : State) (a : Nat) (l : List Byte) : (s.poke a l).severed = s.severed := rfl
@[simp] theorem State.poke_rpMode (s : State) (a : Nat) (l : List Byte) : (s.poke a l).rpMode = s.rpMode := rfl
@[simp] theorem State.poke_rps (s : State) (a : Nat) (l : List Byte) : (s.poke a l).rps = s.rps := rfl
@[simp] theorem State.poke_atsOff (s : State) (a : Nat) (l : List Byte) : (s.poke a l).atsOff = s.atsOff := rfl
@[simp] theorem State.poke_atsFns (s : State) (a : Nat) (l : List Byte) : (s.poke a l).atsFns = s.atsFns := rfl
@[simp] theorem State.poke_boot (s : State) (a : Nat) (l : List Byte) : (s.poke a l).boot = s.boot := rfl
@[simp] theorem State.poke_out (s : State) (a : Nat) (l : List Byte) : (s.poke a l).out = s.out := rfl

/-! State.merged -/
@[simp] theorem State.merged_sched (s : State) (a : Nat) (l : List Byte) : (s.merged a l).sched = s.sched := rfl
@[simp] theorem State.merged_cur (s : State) (a : Nat) (l : List Byte) : (s.merged a l).cur = s.cur := rfl
@[simp] theorem State.merged_batch (s : State) (a : Nat) (l : List Byte) : (s.merged a l).batch = s.batch := rfl
@[simp] theorem State.merged_free (s : State) (a : Nat) (l : List Byte) : (s.merged a l).free = s.free := rfl
@[simp] theorem State.merged_nextId (s : State) (a : Nat) (l : List Byte) : (s.merged a l).nextId = s.nextId := rfl
@[simp] theorem State.merged_moment (s : State) (a : Nat) (l : List Byte) : (s.merged a l).moment = s.moment := rfl
@[simp] theorem State.merged_gtime (s : State) (a : Nat) (l : List Byte) : (s.merged a l).gtime = s.gtime := rfl
@[simp] theorem State.merged_chip (s : State) (a : Nat) (l : List Byte) : (s.merged a l).chip = s.chip := rfl
@[simp] theorem State.merged_mem (s : State) (a : Nat) (l : List Byte) : (s.merged a l).mem = s.mem.putBytes a l := rfl
@[simp] theorem State.merged_past (s : State) (a : Nat) (l : List Byte) : (s.merged a l).past = s.past.filter fun r => !r.meets a l.length := rfl
@[simp] theorem State.merged_pastN (s : State) (a : Nat) (l : List Byte) : (s.merged a l).pastN = s.pastN := rfl
@[simp] theorem State.merged_rels (s : State) (a : Nat) (l : List Byte) : (s.merged a l).rels = relsAfter s.rels a l.length true := rfl
@[simp] theorem State.merged_tags (s : State) (a : Nat) (l : List Byte) : (s.merged a l).tags = untag s.tags a l.length := rfl
@[simp] theorem State.merged_bad (s : State) (a : Nat) (l : List Byte) : (s.merged a l).bad = s.bad := rfl
@[simp] theorem State.merged_lost (s : State) (a : Nat) (l : List Byte) : (s.merged a l).lost = s.lost := rfl
@[simp] theorem State.merged_lines (s : State) (a : Nat) (l : List Byte) : (s.merged a l).lines = s.lines := rfl
@[simp] theorem State.merged_partials (s : State) (a : Nat) (l : List Byte) : (s.merged a l).partials = s.partials := rfl
@[simp] theorem State.merged_lockMsgs (s : State) (a : Nat) (l : List Byte) : (s.merged a l).lockMsgs = s.lockMsgs := rfl
@[simp] theorem State.merged_guests (s : State) (a : Nat) (l : List Byte) : (s.merged a l).guests = s.guests := rfl
@[simp] theorem State.merged_tableWait (s : State) (a : Nat) (l : List Byte) : (s.merged a l).tableWait = s.tableWait := rfl
@[simp] theorem State.merged_tlb (s : State) (a : Nat) (l : List Byte) : (s.merged a l).tlb = s.tlb := rfl
@[simp] theorem State.merged_sets (s : State) (a : Nat) (l : List Byte) : (s.merged a l).sets = s.sets := rfl
@[simp] theorem State.merged_rows (s : State) (a : Nat) (l : List Byte) : (s.merged a l).rows = s.rows := rfl
@[simp] theorem State.merged_busyBanks (s : State) (a : Nat) (l : List Byte) : (s.merged a l).busyBanks = s.busyBanks := rfl
@[simp] theorem State.merged_backed (s : State) (a : Nat) (l : List Byte) : (s.merged a l).backed = s.backed := rfl
@[simp] theorem State.merged_hbms (s : State) (a : Nat) (l : List Byte) : (s.merged a l).hbms = s.hbms := rfl
@[simp] theorem State.merged_retired (s : State) (a : Nat) (l : List Byte) : (s.merged a l).retired = s.retired := rfl
@[simp] theorem State.merged_cores (s : State) (a : Nat) (l : List Byte) : (s.merged a l).cores = s.cores := rfl
@[simp] theorem State.merged_dies (s : State) (a : Nat) (l : List Byte) : (s.merged a l).dies = s.dies := rfl
@[simp] theorem State.merged_parts (s : State) (a : Nat) (l : List Byte) : (s.merged a l).parts = s.parts := rfl
@[simp] theorem State.merged_scs (s : State) (a : Nat) (l : List Byte) : (s.merged a l).scs = s.scs := rfl
@[simp] theorem State.merged_resvs (s : State) (a : Nat) (l : List Byte) : (s.merged a l).resvs = unreserve s.resvs a l.length := rfl
@[simp] theorem State.merged_launches (s : State) (a : Nat) (l : List Byte) : (s.merged a l).launches = s.launches := rfl
@[simp] theorem State.merged_wgs (s : State) (a : Nat) (l : List Byte) : (s.merged a l).wgs = s.wgs := rfl
@[simp] theorem State.merged_fibres (s : State) (a : Nat) (l : List Byte) : (s.merged a l).fibres = s.fibres := rfl
@[simp] theorem State.merged_cmds (s : State) (a : Nat) (l : List Byte) : (s.merged a l).cmds = s.cmds := rfl
@[simp] theorem State.merged_ports (s : State) (a : Nat) (l : List Byte) : (s.merged a l).ports = s.ports := rfl
@[simp] theorem State.merged_nlfto (s : State) (a : Nat) (l : List Byte) : (s.merged a l).nlfto = s.nlfto := rfl
@[simp] theorem State.merged_windows (s : State) (a : Nat) (l : List Byte) : (s.merged a l).windows = s.windows := rfl
@[simp] theorem State.merged_sct (s : State) (a : Nat) (l : List Byte) : (s.merged a l).sct = s.sct := rfl
@[simp] theorem State.merged_sctLock (s : State) (a : Nat) (l : List Byte) : (s.merged a l).sctLock = s.sctLock := rfl
@[simp] theorem State.merged_groups (s : State) (a : Nat) (l : List Byte) : (s.merged a l).groups = s.groups := rfl
@[simp] theorem State.merged_snoop (s : State) (a : Nat) (l : List Byte) : (s.merged a l).snoop = s.snoop := rfl
@[simp] theorem State.merged_severed (s : State) (a : Nat) (l : List Byte) : (s.merged a l).severed = s.severed := rfl
@[simp] theorem State.merged_rpMode (s : State) (a : Nat) (l : List Byte) : (s.merged a l).rpMode = s.rpMode := rfl
@[simp] theorem State.merged_rps (s : State) (a : Nat) (l : List Byte) : (s.merged a l).rps = s.rps := rfl
@[simp] theorem State.merged_atsOff (s : State) (a : Nat) (l : List Byte) : (s.merged a l).atsOff = s.atsOff := rfl
@[simp] theorem State.merged_atsFns (s : State) (a : Nat) (l : List Byte) : (s.merged a l).atsFns = s.atsFns := rfl
@[simp] theorem State.merged_boot (s : State) (a : Nat) (l : List Byte) : (s.merged a l).boot = s.boot := rfl
@[simp] theorem State.merged_out (s : State) (a : Nat) (l : List Byte) : (s.merged a l).out = s.out := rfl

end Sys2Proof.Machine
end

