-- ==== Sys2Proof/Tests/Slice0.lean ====
section
/-! SUPPORT. Tests of the model: words written out from the encodings of spec/ and what they decode to, an ill-formed term for each
check of WellFormed, small steps on small states, and a witness for the hypotheses of each statement. -/

namespace Sys2Proof.Tests

open Sys2Proof Sys2Proof.Machine Sys2Proof.Claims

/-! ## Small states -/

/-- A small state: one launch, one workgroup of one fibre of eight lanes, the fibre at an instruction of word `word`. -/
def small (fb : Fibre) (w : Wg) (word : Word) : State :=
  { State.reset.mapped with
    cur := .fibre 1 word 0, nextId := 2, launches := [(0, placedLaunch)], wgs := [(0, w)], fibres := [(1, fb)] }

/-- The fibre, at the last instruction of its block, with the scalar registers `r` and all of V0 to V7 written. -/
def fib (r : List (Nat × Word)) : Fibre :=
  { Fibre.start 0 0 8 0x10008 0 0 0x1000 with
    blkEnd := 0x10010, m := [(0, 0xFF), (1, 1)], s := r, v := (List.range 8).map fun k => (k, .aff (BitVec.ofNat 32 k) 4) }

/-- The context of the step. -/
def cxOf (fb : Fibre) (w : Wg) (word : Word) : Cx :=
  { s := small fb w word, f := 1, fb, w, l := placedLaunch, word, ext := 0 }

/-- The workgroup. -/
def wg : Wg := placedWg 0
/-- The state and the context with the scalar registers `r`. -/
def sr (r : List (Nat × Word)) : State := small (fib r) wg 0
def cr (r : List (Nat × Word)) : Cx := cxOf (fib r) wg 0

/-! ## Witnesses: what a fibre issues -/

theorem witness_ScalarArithmetic_1 : let o : SOp := { d := 63, a := 0, b := .imm (-1), ty := .i32, sf := true, look := 15 }
    ∃ f, arith (.sadd o) = some (o, f) ∧ Ready (sr []) (cr []) (sDst o.d :: sSrc o.a :: SSrc.opnds o.b) :=
  ⟨_, rfl, rfl, by decide⟩
theorem witness_ScalarArithmetic_2 : let o : SUn := { d := 0, a := 63, ty := .n64, sf := false, look := 0 }
    ∃ f, arithOne (.sclz o) = some (o, f) ∧ Ready (sr []) (cr []) [sDst o.d, sSrc o.a] :=
  ⟨_, rfl, rfl, by decide⟩
theorem witness_ScalarMoves_1 : Ready (sr []) (cr []) [sDst 5] := ⟨rfl, by decide⟩
theorem witness_ScalarMoves_2 : ∃ r, scalarForm (cr []) (.sgetsr { d := 5, sel := .wf5, look := 1 }) = some r ∧ Ready (sr []) (cr []) r.ops :=
  ⟨_, rfl, rfl, by decide⟩
theorem witness_ScalarMoves_3 : ∃ ops d x, maskForm (cr []) (.kandn { d := 15, a := 0, b := 1 }) = some (ops, d, x) ∧
    Ready (sr []) (cr []) ops := ⟨_, _, _, rfl, rfl, by decide⟩
theorem witness_ScalarMoves_4 : Ready (sr [(4, 0xF)]) (cr [(4, 0xF)]) [sSrc 4] := ⟨rfl, by decide⟩
theorem witness_Compares_1 : let o : ScmpOp := { a := 1, b := .reg 2, ty := .n64 }
    ∃ fl, compareOp (.scmp o) = some o ∧
      compareFlags (sArg (cr []) o.ty.width o.a) (sArgB (cr []) o.ty.width o.b) (.scmp o) = some fl ∧
      Ready (sr []) (cr []) (sSrc o.a :: SSrc.opnds o.b) := ⟨_, rfl, rfl, rfl, by decide⟩
theorem witness_Compares_2 : ∃ fl, compareFlags (0 : BitVec 1) 1 (.scmp { a := 1, b := .reg 2, ty := .n64 }) = some fl ∧
    condSays (0 : BitVec 1) 1 .gt = some true := ⟨_, rfl, by decide⟩
/-- A header at the fibre's own block: the target of the branches below. -/
def looped (r : List (Nat × Word)) (loops : List LoopEntry) (word : Word) : State :=
  State.poke (small { fib r with loops } wg word) 0x10010 (toLe 0xFC1000000850A500 8)
def loopedCx (r : List (Nat × Word)) (loops : List LoopEntry) (word : Word) : Cx :=
  { cxOf { fib r with loops } wg word with s := looped r loops word }
theorem witness_Branches : let i : Instr := .b { cond := .always, off := .short 1 }
    branchForm (loopedCx [] [] 0) i = some ([], true, 0x10010) ∧ Ready (looped [] [] 0) (loopedCx [] [] 0) [] ∧
      (looped [] [] 0).badTarget wg 0x10010 = false := ⟨rfl, ⟨rfl, by decide⟩, by decide⟩
theorem witness_BranchChecks_1 : let i : Instr := .bri { a := 3 }
    branchForm (cr [(3, 0x20000)]) i = some ([sSrc 3], true, 0x20000) ∧ Ready (sr [(3, 0x20000)]) (cr [(3, 0x20000)]) [sSrc 3] ∧
      (sr [(3, 0x20000)]).badTarget wg 0x20000 = true := ⟨rfl, ⟨rfl, by decide⟩, by decide⟩
theorem witness_BranchChecks_2 : let fb := { fib [] with blkEnd := 0x10018 }
    closingForm (.call { off := .short 1 }) = some [sDst 63] ∧ Ready (small fb wg 0) (cxOf fb wg 0) [sDst 63] ∧
      after (cxOf fb wg 0) ≠ fb.blkEnd := ⟨rfl, ⟨rfl, by decide⟩, by decide⟩
theorem witness_Calls_1 : callForm (loopedCx [] [] 0) (.call { off := .short 1 }) = some ([sDst 63], 0x10010) ∧
    Ready (looped [] [] 0) (loopedCx [] [] 0) [sDst 63] ∧ after (loopedCx [] [] 0) = 0x10010 ∧
    (looped [] [] 0).badTarget wg 0x10010 = false := ⟨rfl, ⟨rfl, by decide⟩, by decide, by decide⟩
theorem witness_Calls_2 : Ready (looped [(63, 0x10014)] [] 0) (loopedCx [(63, 0x10014)] [] 0) [sSrc 63] ∧
    (((loopedCx [(63, 0x10014)] [] 0).fb.sreg 63).toNat % 8 = 4) ∧ (looped [(63, 0x10014)] [] 0).badTarget wg (0x10014 - 4) = false :=
  ⟨⟨rfl, by decide⟩, by decide, by decide⟩
theorem witness_Calls_3 : Ready (looped [(63, 0x10010)] [] 0) (loopedCx [(63, 0x10010)] [] 0) [sSrc 63] ∧
    (looped [(63, 0x10010)] [] 0).badTarget wg 0x10010 = false := ⟨⟨rfl, by decide⟩, by decide⟩
/-- Four loop entries. -/
def four : List LoopEntry := List.replicate 4 ⟨0x10000, 0x10018, 2⟩
theorem witness_Loops_1 : Ready (looped [] four 0) (loopedCx [] four 0) (LoopCountOpnds (.imm 1 1)) ∧
    after (loopedCx [] four 0) = 0x10010 ∧ loopSays (loopedCx [] four 0) (.imm 1 1) = (1, 0x10010) ∧ four.length = 4 :=
  ⟨⟨rfl, by decide⟩, by decide, by decide, rfl⟩
theorem witness_Loops_2 : Ready (looped [] [] 0) (loopedCx [] [] 0) (LoopCountOpnds (.imm 0 1)) ∧
    after (loopedCx [] [] 0) = 0x10010 ∧ loopSays (loopedCx [] [] 0) (.imm 0 1) = (0, 0x10010) ∧
    (looped [] [] 0).badTarget wg 0x10010 = false := ⟨⟨rfl, by decide⟩, by decide, by decide, by decide⟩
theorem witness_Loops_3 : Ready (looped [] (four.drop 1) 0) (loopedCx [] (four.drop 1) 0) (LoopCountOpnds (.imm 1 1)) ∧
    after (loopedCx [] (four.drop 1) 0) = 0x10010 ∧ loopSays (loopedCx [] (four.drop 1) 0) (.imm 1 1) = (1, 0x10010) ∧
    (four.drop 1).length < 4 := ⟨⟨rfl, by decide⟩, by decide, by decide, by decide⟩
theorem witness_TrapInstructions : trapForm (cr []) (.trap { n := 255 }) = some (.trapi, 255) ∧ Ready (sr []) (cr []) [] :=
  ⟨rfl, rfl, by decide⟩

/-! ## Witnesses: vector forms -/

/-- Operands of a class V form. -/
def vop (ty : Ty) (m : BitVec 4) : VOp := { d := 1, a := 2, b := .vec 4, c := 6, m, ty, rnd := .rne, sat := false, look := 0 }
theorem witness_VectorInteger : ∃ r, vecInteger (cr []) (.vadd (vop .i64 0)) = some r ∧ Ready (sr []) (cr []) r.ops :=
  ⟨_, rfl, rfl, by decide⟩
theorem witness_VectorFloat : ∃ r, vecFloat (cr []) (.vfadd (vop .f32 0)) = some r ∧ Ready (sr []) (cr []) r.ops :=
  ⟨_, rfl, rfl, by decide⟩
theorem witness_VectorLanes : ∃ r, vecLanes (cr []) (.vscan (vop .i32 0)) = some r ∧ Ready (sr []) (cr []) r.ops :=
  ⟨_, rfl, rfl, by decide⟩
theorem witness_VectorTests : ∃ t, vecTest (cr []) (.vcmp (vop .i32 0)) = some (vop .i32 0, t) ∧ Ready (sr []) (cr [])
    (mDst ((vop .i32 0).d.setWidth 4) :: vSrc 2 (regsOf 32) :: VSrc.opnds (.vec 4) (regsOf 32) ++ [mSrc 0]) :=
  ⟨_, rfl, rfl, by decide⟩
theorem witness_VectorSingles_1 : Ready (sr []) (cr []) (vDst 1 1 :: sSrc 2 :: VSrc.opnds (.vec 4) 1) := ⟨rfl, by decide⟩
theorem witness_VectorSingles_2 : Ready (sr []) (cr []) (sDst 1 :: vSrc 2 1 :: VSrc.opnds (.vec 4) 1) := ⟨rfl, by decide⟩
theorem witness_VectorSingles_3 : Ready (sr []) (cr []) [vSrc 2 1, mSrc 0] := ⟨rfl, by decide⟩
theorem witness_VectorSingles_4 : Ready (sr []) (cr []) [mDst 1, vSrc 2 1, vDst 6 1, mSrc 0] := ⟨rfl, by decide⟩
theorem witness_VectorSingles_5 : Ready (sr []) (cr []) [sDst 1, vSrc 2 1, mSrc 0] := ⟨rfl, by decide⟩

/-! ## Witnesses: memory -/

/-- A launch whose kernel has the number of weirs `nw` and the flags `fl`. -/
def other (nw fl : Nat) : Launch :=
  { placedLaunch with kernel := { placedLaunch.kernel with nw }, record := placedLaunch.record.set 8 (BitVec.ofNat 8 fl) }
def smallOf (l : Launch) (r : List (Nat × Word)) : State := { sr r with launches := [(0, l)] }
def cxOfL (l : Launch) (r : List (Nat × Word)) : Cx := { cr r with s := smallOf l r, l }
/-- A VERSIONED launch. -/
def ver : Launch := other 64 4

/-- Operands of a per-lane access of 4 bytes, at Sb plus 4 to 32. -/
def mop : MemV := { d := 1, a := 4, b := 5, disp := .imm 0, w := .n32, m := 0, look := 0 }
theorem witness_ScratchpadLoads : ∃ r, loadForm (cr [(5, 0)]) (.vlds mop) = some r ∧ r.space = .spad ∧ Ready (sr [(5, 0)]) (cr [(5, 0)]) r.ops ∧
    SpadOpen (cr [(5, 0)]) r.size r.accs true false :=
  ⟨_, rfl, rfl, ⟨rfl, by decide⟩, by decide, by decide, by decide, by decide, by decide⟩
theorem witness_ScratchpadStores_1 : ∃ r, storeForm (cr [(5, 0xFFDC)]) (.vsts mop) = some r ∧ r.space = .spad ∧
    Ready (sr [(5, 0xFFDC)]) (cr [(5, 0xFFDC)]) r.ops ∧ SpadOpen (cr [(5, 0xFFDC)]) r.size r.accs false true :=
  ⟨_, rfl, rfl, ⟨rfl, by decide⟩, by decide, by decide, by decide, by decide, by decide⟩
theorem witness_ScratchpadStores_2 : ∃ r a, storeForm (cr [(5, 2)]) (.vsts mop) = some r ∧ r.space = .spad ∧ Ready (sr [(5, 2)]) (cr [(5, 2)]) r.ops ∧
    r.accs.find? (fun a => decide (a.info.toNat % r.size ≠ 0)) = some a := ⟨_, _, rfl, rfl, ⟨rfl, by decide⟩, rfl⟩
theorem witness_ScratchpadStores_3 : ∃ r a, loadForm (cr [(5, 0xFFE4)]) (.vlds mop) = some r ∧ r.space = .spad ∧
    Ready (sr [(5, 0xFFE4)]) (cr [(5, 0xFFE4)]) r.ops ∧ (∀ a ∈ r.accs, a.info.toNat % r.size = 0) ∧
    r.accs.find? (fun a => decide (a.info.toInt < 0 ∨ ((cr [(5, 0xFFE4)]).l.kernel.spad : Int) < a.info.toInt + r.size)) = some a :=
  ⟨_, _, rfl, rfl, ⟨rfl, by decide⟩, by decide, rfl⟩
/-- Its lowest lane alone. -/
def mop1 : MemV := { mop with m := 1 }
/-- Registers for global accesses: S5 a page of memory that nothing has written. -/
def gr : List (Nat × Word) := [(5, 0x8000)]
theorem witness_GlobalLoads_1 : ∃ r ys, loadForm (cr gr) (.vldg mop1) = some r ∧ r.space = .global ∧ Ready (sr gr) (cr gr) r.ops ∧
    (cr gr).issued.translate .load r.size r.accs = .ok ys ∧ (cr gr).issued.gates false ys = none ∧ (sr gr).deadAcc r.size ys = none :=
  ⟨_, _, rfl, rfl, ⟨rfl, by decide⟩, rfl, by decide, by decide⟩
theorem witness_GlobalLoads_2 : Ready (sr gr) (cr gr) [vSrc 4 1, sSrc 5, mSrc 0] := ⟨rfl, by decide⟩
theorem witness_GlobalStores_1 : ∃ r ys, storeForm (cr gr) (.vstg mop) = some r ∧ r.space = .global ∧ Ready (sr gr) (cr gr) r.ops ∧
    StoreOpen (cr gr) r.size r.accs ys := ⟨_, _, rfl, rfl, ⟨rfl, by decide⟩, rfl, rfl, rfl, by decide⟩
theorem witness_GlobalStores_2 : ∃ r ys, storeForm (cxOfL ver gr) (.vstg mop) = some r ∧ Ready (smallOf ver gr) (cxOfL ver gr) r.ops ∧
    (cxOfL ver gr).versioned = true ∧ (cxOfL ver gr).issued.translate (.store r.size) r.size r.accs = .ok ys ∧
    (cxOfL ver gr).issued.gates false ys = none ∧ ∀ y ∈ ys, (smallOf ver gr).versionFull wg y.x.pa = false :=
  ⟨_, _, rfl, ⟨rfl, by decide⟩, by decide, rfl, rfl, by decide⟩
theorem witness_PrivateMemory_1 : ∃ r ys, loadForm (cr [(5, 0)]) (.vldp mop1) = some r ∧ r.space = .priv ∧ Ready (sr [(5, 0)]) (cr [(5, 0)]) r.ops ∧
    (cr [(5, 0)]).issued.privTranslate .load r.size r.accs = .ok ys ∧ (cr [(5, 0)]).issued.gates false ys = none ∧
    (sr [(5, 0)]).deadAcc (min r.size 4) ys = none := ⟨_, _, rfl, rfl, ⟨rfl, by decide⟩, rfl, by decide, by decide⟩
theorem witness_PrivateMemory_2 : ∃ r ys, storeForm (cr [(5, 0)]) (.vstp mop) = some r ∧ r.space = .priv ∧ Ready (sr [(5, 0)]) (cr [(5, 0)]) r.ops ∧
    (cr [(5, 0)]).issued.privTranslate (.store (min r.size 4)) r.size r.accs = .ok ys ∧ (cr [(5, 0)]).issued.gates true ys = none ∧
    ∀ y ∈ ys, (sr [(5, 0)]).refuses y.x.pa (min r.size 4) = false := ⟨_, _, rfl, rfl, ⟨rfl, by decide⟩, rfl, rfl, by decide⟩
/-- Operands of an atomic. -/
def aop : AtomOp := { d := 1, a := 4, b := 5, c := 6, w := .n32, ord := .rlx, scope := .wg, m := 0, look := 1 }
theorem witness_LocalAtomics : atlForm (.atlCas aop) = some (.cas, aop) ∧ Ready (sr [(5, 0)]) (cr [(5, 0)]) (atomOpnds .cas aop) ∧
    SpadOpen (cr [(5, 0)]) 4 (atomAccs (cr [(5, 0)]) 0 5 4) true true ∧ (sr [(5, 0)]).writesOut 1 = false :=
  ⟨rfl, ⟨rfl, by decide⟩, ⟨by decide, by decide, by decide, by decide, by decide⟩, by decide⟩
theorem witness_GlobalAtomics_1 : ∃ ys, atgForm (.atgCas aop) = some (.cas, aop) ∧ Ready (sr gr) (cr gr) (atomOpnds .cas aop) ∧
    (cr gr).versioned = false ∧ (cr gr).issued.translate .atomic 4 (atomAccs (cr gr) 0 5 4) = .ok ys ∧
    (cr gr).issued.gates (AtomOpr.writes .cas && !(cr gr).versioned) ys = none ∧ (sr gr).writesOut 1 = false ∧
    ∀ y ∈ ys, (sr gr).heldAway 1 y = false ∧ (sr gr).dead y.x.pa 4 = false :=
  ⟨_, rfl, ⟨rfl, by decide⟩, by decide, rfl, rfl, by decide, by decide⟩
theorem witness_GlobalAtomics_2 : ∃ ys, Ready (smallOf ver gr) (cxOfL ver gr) (atomOpnds .cas aop) ∧ (cxOfL ver gr).versioned = true ∧
    (cxOfL ver gr).issued.translate .atomic 4 (atomAccs (cxOfL ver gr) 0 5 4) = .ok ys ∧
    (cxOfL ver gr).issued.gates (AtomOpr.writes .cas && !(cxOfL ver gr).versioned) ys = none ∧ (smallOf ver gr).writesOut 1 = false ∧
    ∀ y ∈ ys, (smallOf ver gr).heldAway 1 y = false ∧ (smallOf ver gr).dead y.x.pa 4 = false ∧ (smallOf ver gr).versionFull wg y.x.pa = false :=
  ⟨_, ⟨rfl, by decide⟩, by decide, rfl, rfl, by decide, by decide⟩
theorem witness_FarUpdates_1 : ∃ ys, redgForm (.redgAdd aop) = some (.add, aop) ∧ Ready (sr gr) (cr gr) (redgOpnds aop) ∧
    (cr gr).versioned = false ∧ ys ≠ [] ∧ (cr gr).issued.translate .atomic 4 (atomAccs (cr gr) 0 5 4) = .ok ys ∧ (sr gr).writesOut 1 = false ∧
    ∀ y ∈ ys, (sr gr).ownWrite 1 y.x.line = false ∧ (sr gr).heldAway 1 y = false ∧ (sr gr).pageAccrues 0 (some (wg.die, wg.core)) y.x = [] :=
  ⟨_, rfl, ⟨rfl, by decide⟩, by decide, List.cons_ne_nil _ _, rfl, by decide, by decide⟩
theorem witness_FarUpdates_2 : ∃ ys, Ready (smallOf ver gr) (cxOfL ver gr) (redgOpnds aop) ∧ (cxOfL ver gr).versioned = true ∧
    (cxOfL ver gr).issued.translate .atomic 4 (atomAccs (cxOfL ver gr) 0 5 4) = .ok ys ∧ (cxOfL ver gr).issued.gates false ys = none ∧
    ∀ y ∈ ys, (smallOf ver gr).versionFull wg y.x.pa = false := ⟨_, ⟨rfl, by decide⟩, by decide, rfl, rfl, by decide⟩
/-- Operands of an accrue update. -/
def acop : AcrOp := { d := 1, a := 4, b := 5, scale := 0, w := .n32, scope := .wg, m := 0 }
theorem witness_FarUpdates_3 : ∃ ys, acrForm (.acrIadd32 acop) = some (.iadd32, acop) ∧ Ready (sr gr) (cr gr) (acrOpnds acop) ∧
    (cr gr).versioned = false ∧ ys ≠ [] ∧ (cr gr).issued.translate .accrue AcrTag.iadd32.size (atomAccs (cr gr) 0 5 4) = .ok ys ∧
    (sr gr).writesOut 1 = false ∧ ∀ y ∈ ys, (sr gr).ownWrite 1 y.x.line = false ∧ (sr gr).heldAway 1 y = false ∧
      (sr gr).pageAccrues 0 (some (wg.die, wg.core)) y.x = [] :=
  ⟨_, rfl, ⟨rfl, by decide⟩, by decide, List.cons_ne_nil _ _, rfl, by decide, by decide⟩
theorem witness_FarUpdates_4 : Ready (smallOf ver gr) (cxOfL ver gr) (acrOpnds acop) ∧ (cxOfL ver gr).versioned = true ∧
    activeLanes (cxOfL ver gr) acop.m ≠ [] := ⟨⟨rfl, by decide⟩, by decide, by decide⟩

/-! ## Witnesses: fibres, weirs and locks -/

theorem witness_NopYieldFend : Ready (sr []) (cr []) [] ∧ lockFree (fib []) ∧ noTargets (sr []) :=
  ⟨⟨rfl, by decide⟩, by unfold lockFree; decide, by unfold noTargets; decide⟩
theorem witness_Spawn : Ready (looped [] [] 0) (loopedCx [] [] 0) [mSrc 0] ∧
    (looped [] [] 0).badTarget wg (branchTo (loopedCx [] [] 0) (.short 1)) = false ∧ (fib []).pend = [] ∧ (fib []).st ≠ .ended ∧ 1 ≠ (looped [] [] 0).nextId ∧
    laneSet (loopedCx [] [] 0) 0 ≠ 0 ∧ gangLive (loopedCx [] [] 0) < 16 := by
  refine ⟨⟨rfl, by decide⟩, ?_, ?_, ?_, ?_, ?_, ?_⟩ <;> decide
theorem witness_Spawn_none : Ready (looped [] [] 0) (loopedCx [] [] 0) [mSrc 2] ∧ laneSet (loopedCx [] [] 0) 2 = 0 := by
  refine ⟨⟨rfl, by decide⟩, ?_⟩; decide
/-- A state with a call ring of 16 records. -/
def ringed (r : List (Nat × Word)) : State := (sr r).modPart 0 fun p => { p with io := [(0x30, 0x40000), (0x38, 4)] }
def ringedCx (r : List (Nat × Word)) : Cx := { cr r with s := ringed r }
theorem witness_VectorCalls_1 : Ready (sr [(2, 64)]) (cr [(2, 64)]) [sSrc 2, sSrc 3, vSrc 2 1, vSrc 3 1] ∧ 64 ≤ ((cr [(2, 64)]).fb.sreg 2).toNat :=
  ⟨⟨rfl, by decide⟩, by decide⟩
theorem witness_VectorCalls_4 : Ready (ringed [(2, 63)]) (ringedCx [(2, 63)]) [sSrc 2, sSrc 3, vSrc 2 1, vSrc 3 1] ∧
    ((ringedCx [(2, 63)]).fb.sreg 2).toNat < (ringedCx [(2, 63)]).l.kernel.nw ∧ callReg (ringed [(2, 63)]) 0 0x38 = 4 ∧
    (callReg (ringed [(2, 63)]) 0 0x48 + 2 ^ 32 - callReg (ringed [(2, 63)]) 0 0x40 % 2 ^ 32) % 2 ^ 32 < 2 ^ 4 ∧
    (ringed [(2, 63)]).writesOut 1 = false := ⟨⟨rfl, by decide⟩, by decide, by decide, by decide, by decide⟩
theorem witness_VectorCalls_2 : Ready (smallOf (other 63 0) [(2, 63)]) (cxOfL (other 63 0) [(2, 63)]) [sSrc 2, sSrc 3, vSrc 2 1, vSrc 3 1] ∧
    (cxOfL (other 63 0) [(2, 63)]).l.kernel.nw ≤ ((cr [(2, 63)]).fb.sreg 2).toNat := ⟨⟨rfl, by decide⟩, by decide⟩
theorem witness_VectorCalls_3 : Ready (smallOf ver [(2, 63)]) (cxOfL ver [(2, 63)]) [sSrc 2, sSrc 3, vSrc 2 1, vSrc 3 1] ∧
    (cxOfL ver [(2, 63)]).versioned = true := ⟨⟨rfl, by decide⟩, by decide⟩
theorem witness_Launches_1 : Ready (smallOf ver [(5, 0x8000)]) (cxOfL ver [(5, 0x8000)]) [sSrc 5, sDst 6] ∧ (fib []).await = .none ∧
    (cxOfL ver [(5, 0x8000)]).versioned = true := ⟨⟨rfl, by decide⟩, rfl, by decide⟩
theorem witness_Launches_2 : Ready (sr [(5, 0x8020)]) (cr [(5, 0x8020)]) [sSrc 5, sDst 6] ∧ (cr [(5, 0x8020)]).versioned = false ∧
    ((cr [(5, 0x8020)]).fb.sreg 5).toNat % 256 ≠ 0 := ⟨⟨rfl, by decide⟩, by decide, by decide⟩
theorem witness_Launches_3 : ∃ x, Ready (sr gr) (cr gr) [sSrc 5, sDst 6] ∧ (cr gr).versioned = false ∧ ((cr gr).fb.sreg 5).toNat % 256 = 0 ∧
    (sr gr).xlate 0 .load 0x8000 (sr gr).free = .ok x ∧ (sr gr).dead x.pa 256 = false ∧ (sr gr).writesOut 1 = false ∧ (sr gr).postAccrues 0 0x8000 = [] :=
  ⟨_, ⟨rfl, by decide⟩, by decide, by decide, rfl, by decide, by decide, by decide⟩
theorem witness_WeirCount : ({ Weir.start with phase := 65535, expa := 1 } : Weir).phase < 65536 := by decide
/-- Registers of a lock: its line in S5, weir 63 in S6. -/
def lr : List (Nat × Word) := [(5, 0x8000), (6, 63)]
theorem witness_Locks_1 : ∃ y, Ready (sr lr) (cr lr) [sDst 7, sSrc 5, sSrc 6] ∧ (cr lr).versioned = false ∧
    ((cr lr).fb.sreg 6).toNat / 64 % 4 = 0 ∧ ((cr lr).fb.sreg 6).toNat / 2 ^ 32 = 0 ∧ ((cr lr).fb.sreg 6).toNat % 64 < (cr lr).l.kernel.nw ∧
    lockAt (cr lr) .lock 0x8000 y ∧ (sr lr).pageAccrues 0 none y.x = [] ∧ (∀ j < 4, ((fib lr).slot j).busy = true → ((fib lr).slot j).line ≠ y.x.line) ∧ lowestFree (fib lr) 0 ∧
    (fib lr).slots.length = 4 :=
  ⟨_, ⟨rfl, by decide⟩, by decide, by decide, by decide, by decide, rfl, by decide, by decide, by unfold lowestFree; decide, by decide⟩
/-- The fibre with slot 3 in state `st` for the line at 0x8000. -/
def slotFib (st : SlotState) (k : LockStatus) : Fibre :=
  { fib lr with slots := (List.replicate 4 LockSlot.empty).set 3 { LockSlot.empty with state := st, status := k, line := 0x8000, scope := .wg, req := 1 } }
theorem witness_Locks_2 : ∃ y, Ready (small (slotFib .done .acquired) wg 0) (cxOf (slotFib .done .acquired) wg 0) [sDst 7, sSrc 5] ∧
    lockAt (cxOf (slotFib .done .acquired) wg 0) .unlock 0x8000 y ∧ ((slotFib .done .acquired).slot 3).state ≠ .empty ∧
    ((slotFib .done .acquired).slot 3).line = y.x.line ∧ (∀ j < 4, j ≠ 3 → ((slotFib .done .acquired).slot j).state = .empty) ∧
    ((slotFib .done .acquired).slot 3).state = .done ∧ ((slotFib .done .acquired).slot 3).status = .acquired :=
  ⟨_, ⟨rfl, by decide⟩, rfl, by decide, by decide, by decide, by decide, by decide⟩
theorem witness_Locks_3 : ∃ y, Ready (small (slotFib .queued .acquired) wg 0) (cxOf (slotFib .queued .acquired) wg 0) [sDst 7, sSrc 5] ∧
    lockAt (cxOf (slotFib .queued .acquired) wg 0) .unlock 0x8000 y ∧ ((slotFib .queued .acquired).slot 3).line = y.x.line ∧
    ((slotFib .queued .acquired).slot 3).state = .queued := ⟨_, ⟨rfl, by decide⟩, rfl, by decide, by decide⟩
theorem witness_Locks_4 : ∃ y, Ready (sr lr) (cr lr) [sSrc 5] ∧ lockAt (cr lr) .unlock 0x8000 y ∧ ∀ j < 4, ¬ holdsLine ((fib lr).slot j) y.x.line :=
  ⟨_, ⟨rfl, by decide⟩, rfl, by unfold holdsLine; decide⟩
theorem witness_Locks_5 : ∃ y, Ready (small (slotFib .held .acquired) wg 0) (cxOf (slotFib .held .acquired) wg 0) [sSrc 5] ∧
    lockAt (cxOf (slotFib .held .acquired) wg 0) .unlock 0x8000 y ∧ holdsLine ((slotFib .held .acquired).slot 3) y.x.line ∧
    (∀ j < 3, ¬ holdsLine ((slotFib .held .acquired).slot j) y.x.line) ∧ ((slotFib .held .acquired).slot 3).scope = .wg ∧
    (small (slotFib .held .acquired) wg 0).writesOut 1 = false ∧ (slotFib .held .acquired).slots.length = 4 ∧
    ((small (slotFib .held .acquired) wg 0).line y.x.line 32).held = [] :=
  ⟨_, ⟨rfl, by decide⟩, rfl, by unfold holdsLine; decide, by unfold holdsLine; decide, by decide, by decide, by decide, by decide⟩
/-- Registers of a BIND: the largest region, and a weir. -/
def br : List (Nat × Word) := [(5, 0x8000), (6, 0x10000000000)]
theorem witness_Bindings_1 : bindForm (cr br) (.bindWeir { a := 5, b := 6, w := 63 }) =
      some ([sSrc 5, sSrc 6], 0x8000, 0x10000000000, 0, false, some 63, .weir 63) ∧ Ready (sr br) (cr br) [sSrc 5, sSrc 6] ∧
    Bindable (cr br) 0x8000 0x10000000000 0 false (some 63) :=
  ⟨rfl, ⟨rfl, by decide⟩, ⟨by decide, by decide, by decide, by decide, by decide, by decide⟩⟩
theorem witness_Bindings_2 : Ready (sr br) (cr br) [sSrc 5] ∧ ∀ x ∈ (cr br).w.binds, x.base ≠ (cr br).fb.sreg 5 := ⟨⟨rfl, by decide⟩, by decide⟩
/-- The workgroup with one binding. -/
def bound : Wg := { wg with binds := [{ base := 0x8000, len := 32, obj := .weir 63 }] }
theorem witness_Bindings_3 : Ready (small (fib br) bound 0) (cxOf (fib br) bound 0) [sSrc 5] ∧ (∃ x ∈ bound.binds, x.base = (fib br).sreg 5) ∧
    (small (fib br) bound 0).regionOut 1 0 { base := 0x8000, len := 32, obj := .weir 63 } = false := ⟨⟨rfl, by decide⟩, by decide, by decide⟩
theorem witness_Fences_1 : let fb := { fib [] with acqSeen := [(.sys, 7)], pend := [⟨7, [], 1, .await⟩] }
    fenceForm (.fenceAr { scope := .sys }) = some (true, true, .sys) ∧ Ready (small fb wg 0) (cxOf fb wg 0) [] ∧ readOut (cxOf fb wg 0) .sys :=
  ⟨rfl, ⟨rfl, by decide⟩, by unfold readOut; decide⟩
theorem witness_Fences_2 : fenceForm (.fenceAr { scope := .wg }) = some (true, true, .wg) ∧ Ready (sr []) (cr []) [] ∧ ¬ readOut (cr []) .wg :=
  ⟨rfl, ⟨rfl, by decide⟩, by unfold readOut; decide⟩
theorem witness_WeirRegisters_1 : weirNamed (.wqryLo { d := 5, w := 63, look := 0 }) = some ([sDst 5], 63) ∧
    Ready (smallOf (other 63 0) []) (cxOfL (other 63 0) []) [sDst 5] ∧ (other 63 0).kernel.nw ≤ 63 := ⟨rfl, ⟨rfl, by decide⟩, by decide⟩
theorem witness_WeirRegisters_2 : Ready (sr [(5, 0x2000000000000)]) (cr [(5, 0x2000000000000)]) [sSrc 5] ∧ 63 < placedLaunch.kernel.nw ∧
    2 ^ 49 ≤ ((cr [(5, 0x2000000000000)]).fb.sreg 5).toNat := ⟨⟨rfl, by decide⟩, by decide, by decide⟩
theorem witness_WeirRegisters_3 : Ready (sr [(5, 0x1FFFFFFFFFFFF)]) (cr [(5, 0x1FFFFFFFFFFFF)]) [sSrc 5] ∧
    ((cr [(5, 0x1FFFFFFFFFFFF)]).fb.sreg 5).toNat < 2 ^ 49 := ⟨⟨rfl, by decide⟩, by decide⟩
theorem witness_WeirRegisters_4 : ∃ v, queryForm (cr []) (.wqryHi { d := 5, w := 63, look := 0 }) = some ({ d := 5, w := 63, look := 0 }, v) ∧
    Ready (sr []) (cr []) [sDst 5] ∧ 63 < placedLaunch.kernel.nw := ⟨_, rfl, ⟨rfl, by decide⟩, by decide⟩
/-- The workgroup with weir 63 under OVTRAP, `arr` of one arrival in. -/
def armed (arr : Nat) : Wg := { wg with weirs := wg.weirs.set 63 { Weir.start with phase := 65535, expa := 1, arr, ovtrap := true } }
/-- Operands of WARR and WWAIT on weir 63. -/
def wop : WarrOp := { d := 5, w := 63, scope := .wg, m := 0, look := 0 }
def wwop : WwaitOp := { d := 5, a := 6, b := 7, w := 63, scope := .wg, look := 0 }
theorem witness_Arrivals_1 : warrForm (cxOf (fib []) (armed 1) 0) (.warr wop) = some ([sDst 5], wop, 1) ∧
    Ready (small (fib []) (armed 1) 0) (cxOf (fib []) (armed 1) 0) [sDst 5] ∧ 63 < (armed 1).weirs.length ∧ ((armed 1).weir 63).phase < 65536 ∧
    ((armed 1).weir 63).ovtrap = true ∧ ((armed 1).weir 63).excess 1 0 = true :=
  ⟨rfl, ⟨rfl, by decide⟩, by decide, by decide, by decide, by decide⟩
theorem witness_Arrivals_2 : Ready (small (fib []) (armed 0) 0) (cxOf (fib []) (armed 0) 0) [sDst 5] ∧
    ¬ (((armed 0).weir 63).ovtrap = true ∧ ((armed 0).weir 63).excess 1 0 = true) ∧ (small (fib []) (armed 0) 0).writesOut 1 = false :=
  ⟨⟨rfl, by decide⟩, by decide, by decide⟩
theorem witness_Arrivals_3 : farForm (cr [(5, 0)]) (.warrFar { a := 5, scope := .wg, m := 0 }) = some ([sSrc 5], 0, 1, .wg) ∧
    Ready (sr [(5, 0)]) (cr [(5, 0)]) [sSrc 5] ∧ (cr [(5, 0)]).versioned = false ∧ (sr [(5, 0)]).writesOut 1 = false :=
  ⟨rfl, ⟨rfl, by decide⟩, by decide, by decide⟩
theorem witness_WeirWaits_1 : Ready (sr [(6, 0), (7, 0x100000000)]) (cr [(6, 0), (7, 0x100000000)]) [sDst 5, sSrc 6, sSrc 7] ∧
    2 ^ 32 ≤ ((cr [(6, 0), (7, 0x100000000)]).fb.sreg 7).toNat := ⟨⟨rfl, by decide⟩, by decide⟩
theorem witness_WeirWaits_2 : Ready (sr [(6, 0), (7, 0xFFFFFFFF)]) (cr [(6, 0), (7, 0xFFFFFFFF)]) [sDst 5, sSrc 6, sSrc 7] ∧
    ((cr [(6, 0), (7, 0xFFFFFFFF)]).fb.sreg 7).toNat < 2 ^ 32 ∧ hasReached ((wg.weir 63).phase) 0 :=
  ⟨⟨rfl, by decide⟩, by decide, by unfold hasReached; decide⟩
theorem witness_WeirWaits_3 : Ready (sr [(6, 0x8001), (7, 0)]) (cr [(6, 0x8001), (7, 0)]) [sDst 5, sSrc 6, sSrc 7] ∧
    ((cr [(6, 0x8001), (7, 0)]).fb.sreg 7).toNat < 2 ^ 32 ∧ hasReached ((wg.weir 63).phase) 0x8001 :=
  ⟨⟨rfl, by decide⟩, by decide, by unfold hasReached; decide⟩
theorem witness_WeirWaits_4 : Ready (sr [(6, 0x8000), (7, 0)]) (cr [(6, 0x8000), (7, 0)]) [sDst 5, sSrc 6, sSrc 7] ∧ ¬ hasReached ((wg.weir 63).phase) 0x8000 :=
  ⟨⟨rfl, by decide⟩, by unfold hasReached; decide⟩
/-- A state with one command of the fibre in OCA. -/
def busy (fb : Fibre) : State :=
  { small fb wg 0 with cmds := [(0, { wg := 0, fib := some 1, ctr := some .oca, rngs := [], body := .warrFar 0 1 none, back := none, dst := 0, err := none, since := 0, binds := [] })] }
def busyCx (fb : Fibre) : Cx := { cxOf fb wg 0 with s := busy fb }
theorem witness_CounterWaits_1 : Ready (busy (fib [])) (busyCx (fib [])) [] ∧ (busy (fib [])).oc 1 (fib []) .oca ≤ 1 ∧ (∀ e ∈ (fib []).errs, e.ctr ≠ .oca) :=
  ⟨⟨rfl, by decide⟩, by decide, by decide⟩
theorem witness_CounterWaits_2 : Ready (busy (fib [])) (busyCx (fib [])) [] ∧ 0 < (busy (fib [])).oc 1 (fib []) .oca ∧ ((busy (fib [])).cmds.map (·.1)).Nodup :=
  ⟨⟨rfl, by decide⟩, by decide, by decide⟩
theorem witness_CounterWaits_3 : let fb := { fib [] with errs := [⟨.oca, 5, 0, .engine, 0⟩] }
    Ready (small fb wg 0) (cxOf fb wg 0) [] ∧ fb.errs.map (·.ctr) = [.oca] ∧ (small fb wg 0).oc 1 fb .oca ≤ 0 ∧ ∀ p ∈ (small fb wg 0).cmds, p.1 ≠ 5 :=
  ⟨⟨rfl, by decide⟩, by decide, by decide, by decide⟩
/-! ## Witnesses: steps, decoding and traps -/

/-- The fibre scheduled, with the words of `code` at its pc. -/
def coded (fb : Fibre) (code : Nat) (who : Who) : State :=
  { State.poke (small fb wg 0) 0x10008 (toLe code 16) with sched := [⟨0, [], who, none⟩] }
/-- The same once its batch has begun. -/
def turned (fb : Fibre) (code : Nat) : State := (({ coded fb code (.fibre 1) with sched := [] } : State).elapse 0 []).turn 1 none
/-- The state of its issue. -/
def standing (fb : Fibre) (code : Nat) : State :=
  let u := turned fb code
  { u with batch := { u.batch with rest := [] } }
/-- The fibre as its turn leaves it. -/
def chosenFib (fb : Fibre) (code : Nat) : Fibre := ((turned fb code).fibres.getD 1 fb)
theorem witness_StepRunsDecoded_1 : let x := chosenFib (fib []) 0x0C00000000000000
    let t := (standing (fib []) 0x0C00000000000000).setFib 1 x
    begun (coded (fib []) 0x0C00000000000000 (.fibre 1)) (turned (fib []) 0x0C00000000000000) ∧
    (turned (fib []) 0x0C00000000000000).batch.rest = [1] ∧ Stands (standing (fib []) 0x0C00000000000000) 1 x wg placedLaunch t ∧
    (t.fetch wg x.pc).1 = .word 0x0C00000000000000 ∧ ∃ d, decode 0x0C00000000000000 0 = .ok d ∧ noHalt d x :=
  ⟨.inr (.inl ⟨_, _, 1, rfl, rfl, rfl, rfl⟩), by decide, ⟨_, rfl, rfl, rfl, by decide, by decide, .inl ⟨by decide, rfl, rfl⟩⟩, by decide,
    _, rfl, fun h => absurd h (by decide)⟩
/-- A long SLI. -/
def longWords : Nat := 0x00010000000000001410500000000460
/-- The fibre with two words left in its block. -/
def longFib : Fibre := { fib [] with blkEnd := 0x10018 }
theorem witness_StepRunsDecoded_2 : let x := chosenFib longFib longWords
    let t := (standing longFib longWords).setFib 1 x
    Stands (standing longFib longWords) 1 x wg placedLaunch t ∧
    (t.fetch wg 0x10008).1 = .word 0x1410500000000460 ∧ x.pc + 8 ≠ x.blkEnd ∧
    ((t.fetch wg 0x10008).2.fetch wg 0x10010).1 = .word 0x0001000000000000 ∧
    (∃ e, decode 0x1410500000000460 1 = .ok e ∧ e.i ≠ .bkpt) ∧ ∃ d, decode 0x1410500000000460 0x0001000000000000 = .ok d ∧ noHalt d x :=
  ⟨⟨_, rfl, rfl, rfl, by decide, by decide, .inl ⟨by decide, rfl, rfl⟩⟩, by decide, by decide, by decide, ⟨_, rfl, by decide⟩, _, rfl,
    fun h => absurd h (by decide)⟩
/-- The word that a service core fetches. -/
def fetched (r : Except State (State × BitVec 32)) : Option (BitVec 32) :=
  match r with
  | .ok p => some p.2
  | .error _ => none
set_option maxRecDepth 20000 in
theorem witness_StepRunsDecoded_3 : let s := ({ State.reset.withFetchWord 32 0x30C5855B with sched := [] } : State).elapse 0 []
    (State.reset.withFetchWord 32 0x30C5855B).sched = [⟨0, [], .service 0, none⟩] ∧ (State.reset.withFetchWord 32 0x30C5855B).batch.rest = [] ∧
      (s.sc 0).running = true ∧ (s.sc 0).await = none ∧ (s.sc 0).irq = none ∧
      fetched (s.scFetch 0) = some 0x30C5855B ∧ ∃ i, decodeLv 0x30C5855B = .ok i :=
  ⟨by decide, by decide, by decide, by decide, by decide, by decide, _, rfl⟩
theorem witness_StepRunsDecoded_4 : ((State.reset.elapse 0 []).sc 15).running = false ∧ ((State.reset.elapse 0 []).sc 15).await = none := by decide
theorem witness_StepRunsDecoded_5 : (coded (fib []) 0 (.event .powerLoss)).sched = [⟨0, [], .event .powerLoss, none⟩] ∧
    (coded (fib []) 0 (.event .powerLoss)).batch.rest = [] := ⟨rfl, rfl⟩
theorem witness_StepRunsDecoded_6 : let s := { coded (fib []) 0x0C00000000000000 (.fibre 1) with sched := [] }
    s.sched = [] ∧ s.batch.rest = [] ∧ s.choose = some 1 := ⟨rfl, rfl, by decide⟩
/-- The step answers a next state. -/
def ran (r : Out) : Bool :=
  match r with
  | .next _ => true
  | _ => false
set_option maxRecDepth 20000 in
theorem witness_StepKeepsMemoryCanonical : (State.reset.withFetchWord 32 0x30C5855B).Inv ∧ ran (step (State.reset.withFetchWord 32 0x30C5855B)) = true :=
  ⟨by unfold State.Inv; decide, by decide⟩
theorem witness_DecodeOfEncode_1 : let i : Instr := .sli { d := 63, imm := .long (-1), ty := .n64, sf := true, look := 15 }
    ∃ w x, i.wf = true ∧ encode i true = some [w, x] := ⟨_, _, by decide, rfl⟩
theorem witness_DecodeOfEncode_2 : let i : Instr := .lvNarrow { d := 31, s := 31, t := 31 }
    ∃ w, i.wf = true ∧ encodeLv i = some w := ⟨_, by decide, rfl⟩
theorem witness_EncodeOfDecode_1 : ∃ d, decode 0x1410500000000460 0x0001000000000000 = .ok d ∧ d.i ≠ .bkpt := ⟨_, rfl, by decide⟩
theorem witness_EncodeOfDecode_2 : ∃ i, decodeLv 0x30C5855B = .ok i := ⟨_, rfl⟩
theorem witness_TrapEntry_1 : (sr []).cx = some (cr []) ∧ ((sr []).part 0).pendRecs = [] ∧ ((sr []).part 0).waitFibs = [] ∧ (sr []).faultRoom 0 = false :=
  ⟨rfl, by decide, by decide, by decide⟩
/-- A state with a fault ring of 16 records. -/
def roomy : State := (sr []).modPart 0 fun p => { p with fqbase := 0x40000, fqsize := 4 }
set_option maxRecDepth 20000 in
theorem witness_TrapEntry_2 : roomy.cx = some { cr [] with s := roomy } ∧ (roomy.part 0).pendRecs = [] ∧ (roomy.part 0).waitFibs = [] ∧
    roomy.faultRoom 0 = true := ⟨rfl, by decide, by decide, by decide⟩
/-- An addition of S0 and S17 into S1. -/
def addI : Instr := .sadd { d := 1, a := 0, b := .reg 17, ty := .n64, sf := false, look := 0 }
theorem witness_OperandChecks_1 : let l := { placedLaunch with kernel := { placedLaunch.kernel with ns := 17 } }
    (smallOf l []).cx = some (cxOfL l []) ∧ ∃ ops, opsOf (cxOfL l []) addI = some ops ∧ ∃ o ∈ ops, o.beyond (cxOfL l []).counts = true :=
  ⟨rfl, _, rfl, by decide⟩
theorem witness_OperandChecks_2 : let fb := { fib [] with wins := [(.s 0, 1)] }
    ∃ ops, opsOf (cxOf fb wg 0) addI = some ops ∧ (∀ o ∈ ops, o.beyond (cxOf fb wg 0).counts = false) ∧
      ∃ o ∈ ops, o.inWindow fb = true ∨ o.invalidIn fb = true := ⟨_, rfl, by decide, by decide⟩
theorem witness_OperandChecks_3 : let fb := { fib [] with pend := [⟨7, [(.s 17, .s 0)], 1, .await⟩] }
    ∃ ops, opsOf (cxOf fb wg 0) addI = some ops ∧
      (∀ o ∈ ops, o.beyond (cxOf fb wg 0).counts = false ∧ o.inWindow fb = false ∧ o.invalidIn fb = false) ∧
      (∃ o ∈ ops, ∃ r ∈ o.refs, (fb.pendingOn r).isSome = true) ∧ ∀ q ∈ fb.pend, ∀ a, q.st ≠ .poison a :=
  ⟨_, rfl, by decide, by decide, by simp⟩
theorem witness_ResultsWritten : (sr []).cx = some (cr []) ∧ (cr []).stopSite = false := ⟨rfl, by decide⟩

/-! ## Witnesses: engine commands -/

/-- Registers of a copy of one row, 32 bytes, to the last sector of the scratchpad. -/
def cpr : List (Nat × Word) := [(4, 0x8000), (5, 0x000000200000FFE0)]
/-- Operands of a copy. -/
def cop : FlcopyOp := { a := 4, opt := .none, out := false, mc := false, cred := some 63, dg := none, final := false }
theorem witness_FlumeCopies : copyForm (.flcopy1d cop) = some (cop, 1, 2) ∧ Ready (sr cpr) (cr cpr) (copyOpnds cop 2) ∧ CopyFits (cr cpr) cop 1 ∧
    boardFree (cr cpr) ∧ (∀ q ∈ (sr cpr).cmds, q.1 < (sr cpr).nextId) := by
  refine ⟨rfl, ⟨rfl, by decide⟩, ⟨by decide, by decide, by decide, by decide, by decide, by decide, fun h => absurd h (by decide), ?_, by decide, by decide⟩, ?_, by decide⟩
  · unfold fits; decide
  · unfold boardFree; decide
/-- The fibre with `n` copies in its open batch, number `b`. -/
def batched (n b : Nat) : Fibre := { fib [] with openN := n, batch := b }
theorem witness_FlumeBatches_1 : Ready (small (batched 0 0) wg 0) (cxOf (batched 0 0) wg 0) [] := ⟨rfl, by decide⟩
theorem witness_FlumeBatches_2 : Ready (small (batched 1 0) wg 0) (cxOf (batched 1 0) wg 0) [] ∧ (small (batched 1 0) wg 0).oc 1 (batched 1 0) .ocf < 63 :=
  ⟨⟨rfl, by decide⟩, by decide⟩
theorem witness_FlumeBatches_5 : (cr []).l.nstage ≤ wg.stage + 1 := by decide
/-- Registers of a gather of one row of 4 bytes from a table of two. -/
def gsr : List (Nat × Word) := [(4, 0x8000), (5, 0x0000000200000004), (6, 0x0000000400000000), (7, 0x0000000100000100), (8, 4), (9, 0x200)]
theorem witness_GatherScatter : Ready (sr gsr) (cr gsr) [block 4 6] ∧ GsFits (cr gsr) 4 := by
  refine ⟨⟨rfl, by decide⟩, by decide, by decide, by decide, by decide, by decide, ?_, ?_, by decide, by decide⟩
  · unfold fits; decide
  · unfold disjointAt; decide
/-- Operands of MXLOADB and MXMUL, rows at S4, and a fibre with tile T0 mapped. -/
def mxo : MxOp := { t := 0, a := 4, scale := none, mac := 3, bank := true, fmt := .i8 }
def tiled (r : List (Nat × Word)) : Fibre := { fib r with tiles := [(0, 15)] }
def mxw : Wg := { wg with tiles := [(15, ⟨.live, 0, []⟩)] }
def mxs (r : List (Nat × Word)) : State := small (tiled r) mxw 0
def mxc (r : List (Nat × Word)) : Cx := cxOf (tiled r) mxw 0
theorem witness_MatrixCommands_1 : let r : List (Nat × Word) := [(4, 0x0000008000000000)]
    Ready (mxs r) (mxc r) (sSrc 4 :: scaleOpnds none ++ [macSrc 3]) ∧ (mxc r).acquiring = false ∧
      rowsFit (mxc r) (regLo (mxc r) 4) (regHi (mxc r) 4) (mxBytes .i8 128) (mxK .i8) :=
  ⟨⟨rfl, by decide⟩, by decide, by unfold rowsFit fits; decide⟩
theorem witness_MatrixCommands_2 : let r : List (Nat × Word) := [(4, 0x0000010000000000)]
    Ready (mxs r) (mxc r) (tileSrc 0 :: sSrc 4 :: scaleOpnds none ++ [macSrc 3]) ∧ (mxc r).acquiring = false ∧
      rowsFit (mxc r) (regLo (mxc r) 4) (regHi (mxc r) 4) (mxBytes .i8 256) 16 :=
  ⟨⟨rfl, by decide⟩, by decide, by unfold rowsFit fits; decide⟩
/-- Registers and operands of MXLOOP. -/
def mlr : List (Nat × Word) := [(4, 0x0000010000000000), (5, 0), (6, 0x0000008000002000), (7, 0), (8, 0)]
def mlo (n : BitVec 58) : MxloopOp := { t := 0, a := 4, count := .long n, mac := 3, bank := false, fmt := .i8, ascale := false }
theorem witness_MatrixCommands_3 : Ready (mxs mlr) (mxc mlr) (tileSrc 0 :: block 4 5 :: regOrLongOpnds (mlo 0).count ++ [macSrc 3]) ∧
    (regOrImm (mxc mlr) (mlo 0).count).toNat = 0 ∧ 65535 < (regOrImm (mxc mlr) (mlo 65536).count).toNat := ⟨⟨rfl, by decide⟩, by decide, by decide⟩
theorem witness_MatrixCommands_4 : (regOrImm (mxc mlr) (mlo 1).count).toNat = 1 ∧ (mxc mlr).acquiring = false ∧
    ∀ y ∈ (mxLoopOf (mxc mlr) (mlo 1) 1).checks placedLaunch.kernel.spad, y.bad = false := ⟨by decide, by decide, by decide⟩
theorem witness_MatrixCommands_5 : let r : List (Nat × Word) := [(4, 0x0000040000000000)]
    Ready (mxs r) (mxc r) [tileSrc 0, sSrc 4] ∧ rowsFit (mxc r) (regLo (mxc r) 4) (regHi (mxc r) 4) (16 * Ty.width .f32) 16 :=
  ⟨⟨rfl, by decide⟩, by unfold rowsFit fits; decide⟩
theorem witness_MatrixCommands_6 : Ready (mxs []) (mxc []) [tileSrc 0] := ⟨rfl, by decide⟩
theorem witness_MatrixCommands_7 : Ready (mxs []) (mxc []) [sDst 5, tileSrc 0] ∧ (tiled []).await = .none := ⟨⟨rfl, by decide⟩, rfl⟩
theorem witness_MatrixTiles_1 : Ready (sr []) (cr []) (regOrLongOpnds (.long 512)) ∧ 511 < (regOrImm (cr []) (.long 512)).toInt := ⟨⟨rfl, by decide⟩, by decide⟩
theorem witness_MatrixTiles_2 : Ready (sr []) (cr []) (regOrLongOpnds (.long 511)) ∧ (regOrImm (cr []) (.long 511)).toInt = 511 ∧
    ∃ w ∈ (cr []).issued.s.wgs.find? 0, freeOf w placedLaunch.kernel.nt ≠ [] := ⟨⟨rfl, by decide⟩, by decide, _, rfl, by decide⟩
/-- The workgroup with all 16 tiles live. -/
def fullWg : Wg := { wg with tiles := tabulate 16 fun k => (k, ⟨.live, 0, []⟩) }
theorem witness_MatrixTiles_3 : Ready (small (fib []) fullWg 0) (cxOf (fib []) fullWg 0) (regOrLongOpnds (.long 0)) ∧
    freeOf fullWg placedLaunch.kernel.nt = [] ∧ anyRetiring fullWg placedLaunch.kernel.nt = false := ⟨⟨rfl, by decide⟩, by decide, by decide⟩
theorem witness_MatrixTiles_4 : Ready (mxs []) (mxc []) [] ∧ (tiled []).tiles.sorted = true := ⟨⟨rfl, by decide⟩, by decide⟩

/-! ## Witnesses: collectives and I/O -/

/-- The state with the 8 GiB page at 0x200000000 mapped by the leaf `e`, window 0 a multicast-reduce window and root port 0 owned. -/
def paged (fb : Fibre) (e : Nat) : State :=
  ({ small fb wg 0 with windows := [(0, { Window.start with en := true, kind := 1, base := 0x200000, size := 8, ty := 1 })] }.poke 0x6008
    (toLe e 8)).modPart 0 fun p => { p with rpmask := 1 }
def pagedCx (fb : Fibre) (e : Nat) : Cx := { cxOf fb wg 0 with s := paged fb e }
/-- Registers of a collective of 32 bytes: the window at S4, the region at 0, the status sector the last of the scratchpad. -/
def collr : List (Nat × Word) := [(4, 0x200000000), (5, 0x2000000000), (6, 0xFFE0)]
def collo : McOp := { a := 4, w := 63, ty := .f32, scope := .sys }
theorem witness_Collectives : ∃ l k, Ready (paged (fib collr) 0x000800000000000F) (pagedCx (fib collr) 0x000800000000000F) [block 4 3] ∧
    CollFits (pagedCx (fib collr) 0x000800000000000F) collo (collWork (pagedCx (fib collr) 0x000800000000000F) collo true) ∧
    (pagedCx (fib collr) 0x000800000000000F).issued.collPages (collWork (pagedCx (fib collr) 0x000800000000000F) collo true)
      (pageStarts 2 0x200000000 32) none [] = .ok (l, k) := by
  refine ⟨_, _, ⟨rfl, by decide⟩, ⟨by decide, by decide, by decide, by decide, by decide, by decide, ?_, by decide, by decide⟩, rfl⟩
  unfold fits disjointAt; decide
/-- Registers of an I/O access at S5, and its operands. -/
def ior : List (Nat × Word) := [(4, 0xFFFFFFFF), (5, 0x200000FFC)]
def ioo : IoOp := { d := 4, a := 5, disp := .imm 0, w := .n32, look := 0, wg := true }
theorem witness_IoCommands_1 : ∃ x, Ready (paged (fib ior) 0x800700000000000F) (pagedCx (fib ior) 0x800700000000000F) [sSrc 4, sSrc 5] ∧
    IoOpen (pagedCx (fib ior) 0x800700000000000F) ioo true x ∧ (paged (fib ior) 0x800700000000000F).sluiceAt 0 x.pa 4 = none :=
  ⟨_, ⟨rfl, by decide⟩, ⟨by decide, by decide, by decide, rfl, ⟨0, by decide, by decide⟩, by decide, by decide⟩, by decide⟩
theorem witness_IoCommands_3 : ∃ x, Ready (paged (fib ior) 0x800700000000000F) (pagedCx (fib ior) 0x800700000000000F) [sDst 4, sSrc 5] ∧
    IoOpen (pagedCx (fib ior) 0x800700000000000F) ioo false x ∧ (fib ior).await = .none :=
  ⟨_, ⟨rfl, by decide⟩, ⟨by decide, by decide, by decide, rfl, ⟨0, by decide, by decide⟩, by decide, by decide⟩, rfl⟩
/-- The state with one sluice entry, for a doorbell at the last word of the page. -/
def sluiced : State :=
  (((paged (fib ior) 0x800700000000000F).poke 0x48000 (toLe 1 8)).poke 0x48008 (toLe 0x0007000000000FFC 8)).modPart 0 fun p =>
    { p with io := [(0, 0x48000), (8, 1)] }
def sluicedCx : Cx := { cxOf (fib ior) wg 0 with s := sluiced }
theorem witness_IoCommands_2 : ∃ x e, Ready sluiced sluicedCx [sSrc 4, sSrc 5] ∧ IoOpen sluicedCx ioo true x ∧ sluiced.sluiceAt 0 x.pa 4 = some e :=
  ⟨_, _, ⟨rfl, by decide⟩, ⟨by decide, by decide, by decide, rfl, ⟨0, by decide, by decide⟩, by decide, by decide⟩, rfl⟩
/-! ## Witnesses: levees and service cores -/

/-- A levee of all rights but LVR and LVW and of lock 0 whose span begins at `cur`, of 262,143 granules of 2^gr bytes. -/
def lev (gr cur : Nat) : Levee := ⟨BitVec.ofNat 128 (0xFF * 2 ^ 120 + gr * 2 ^ 102 + 262143 * 2 ^ 64 + cur), true⟩
/-- Service core 0 with levees in x1 and x2, taking the step. -/
def lvs (a b : Levee) : State := { State.reset.mapped with cur := .service 0, scs := [(0, { Sc.start true with x := [(1, a), (2, b)] })] }
theorem witness_Levees_1 : let s := lvs (lev 0 0x1000) (lev 0 0x2000)
    LvAt s 0 1 2 (fieldsOf (lev 0 0x1000)) (fieldsOf (lev 0 0x2000)) ∧ (fieldsOf (lev 0 0x1000)).tag = true ∧ (fieldsOf (lev 0 0x1000)).lock = 0 :=
  ⟨⟨rfl, rfl, rfl⟩, by decide, by decide⟩
theorem witness_Levees_2 : let a : Levee := ⟨(lev 0 0x1000).val ||| BitVec.ofNat 128 (4095 * 2 ^ 108), true⟩
    LvAt (lvs a a) 0 1 2 (fieldsOf a) (fieldsOf a) ∧ (fieldsOf a).tag = true ∧ (fieldsOf a).lock = 4095 := ⟨⟨rfl, rfl, rfl⟩, by decide, by decide⟩
theorem witness_Levees_3 : let a := fieldsOf (lev 0 0x1000)
    grainFor a 262143 0 ∧ narrowFits a 262143 0 ∧ grainFor a 262144 1 ∧ ¬ narrowFits a 262144 1 := by
  unfold grainFor narrowFits; decide
/-- A key whose span holds the lock numbers from `cur` on. -/
def key (cur : Nat) : Levee := ⟨BitVec.ofNat 128 (0x80 * 2 ^ 120 + 4096 * 2 ^ 64 + cur), true⟩
theorem witness_Levees_4 : keyServes (fieldsOf (key 4095)) 4095 ∧ keyServes (fieldsOf (key 4096)) 4096 ∧ ¬ keyServes (fieldsOf (lev 0 1)) 262144 ∧
    keyServes (fieldsOf (lev 0 0)) 0 := by unfold keyServes; decide
theorem witness_Levees_5 : LvAt (lvs (lev 0 0x1000) (key 1)) 0 1 1 (fieldsOf (lev 0 0x1000)) (fieldsOf (lev 0 0x1000)) := ⟨rfl, rfl, rfl⟩
/-- A levee over the first gigabytes of memory, with its cursor at `a`. -/
def whole (a : Nat) : Levee := ⟨BitVec.ofNat 128 (0xFF * 2 ^ 120 + 20 * 2 ^ 102 + (a / 2 ^ 20) * 2 ^ 82 + 262143 * 2 ^ 64 + a), true⟩
theorem witness_Levees_6 : let s := lvs (whole 0x8010) (lev 0 0)
    ∃ u l, s.leveeCheck 0 (whole 0x8010) rRD 0x8010 16 = none ∧ s.scAddr 0 (whole 0x8010) .load 0x8010 16 = .mem 0x8010 none ∧
      s.scRead 0 (whole 0x8010) .load true 0x8010 16 = .done u l := ⟨_, _, by decide, by decide, rfl⟩
theorem witness_Levees_7 : let s := lvs (whole 0x8018) (lev 0 0)
    s.leveeCheck 0 (whole 0x8018) (rWR + rLVW) 0x8018 16 = none ∧ (0x8018 : Word).toNat % 16 ≠ 0 ∧
      s.leveeCheck 0 (lev 0 0x1000) rRD 0x40FF0 16 = some 4 := by decide
/-- The state with the first GiB of memory tagged. -/
def tagged (a b : Levee) : State := (lvs a b).modPart 0 fun p => { p with tagsize := 1, ttbase := 0x100000 }
theorem witness_Levees_8 : let s := tagged (whole 0x8010) (lev 0 0)
    ∃ u l, s.leveeCheck 0 (whole 0x8010) (rWR + rLVW) 0x8010 16 = none ∧ s.scAddr 0 (whole 0x8010) .store 0x8010 16 = .mem 0x8010 none ∧
      s.inTagged 0 0x8010 = true ∧ s.inTagged 0 0x40000000 = false ∧ s.lines = [] ∧ (s.sc 0).translates .store = false ∧
      s.scWrite 0 (whole 0x8010) false false 0x8010 (toLe (lev 0 0).val.toNat 16) = .done u l :=
  ⟨_, _, by decide, by decide, by decide, by decide, by decide, by decide, rfl⟩

/-! ## Witnesses: events of fibres and workgroups -/

/-- A state in which an event takes the step. -/
def at' (e : Event) (s : State) : State := { s with cur := .event e }
/-- The small state with fibre `fb` and workgroup `w`, every die at cycle `clk`. -/
def aged (fb : Fibre) (w : Wg) (clk : Nat) : State := { small fb w 0 with dies := (List.range 8).map fun d => (d, { Die.start with clk }) }
theorem witness_FibreEvents_1 : let fb := { fib [] with st := .held, heldAt := some 0 }
    (aged fb wg 256).fibres.find? 1 = some fb ∧ (aged fb wg 256).wgs.find? fb.wg = some wg ∧ (wg.gangOf fb.num).isSome = true ∧
      256 ≤ since' ((aged fb wg 256).clk wg.die) 0 ∧ since' ((aged fb wg 255).clk wg.die) 0 < 256 := ⟨rfl, rfl, by decide, by decide, by decide⟩
theorem witness_FibreEvents_2 : let fb := { fib [] with pend := [⟨7, [(.s 3, .s 1)], 0, .ready⟩] }
    (small fb wg 0).fibres.find? 1 = some fb ∧ (fb.pend.find? fun q => q.id == 7) = some ⟨7, [(.s 3, .s 1)], 0, .ready⟩ := ⟨rfl, by decide⟩
theorem witness_FibreEvents_3 : let fb := { fib [] with await := .launch 63 7 }
    (small fb wg 0).fibres.find? 1 = some fb ∧ (small fb wg 0).wgs.find? fb.wg = some wg ∧ fb.await = .launch 63 7 := ⟨rfl, rfl, rfl⟩
/-- A wait for weir 63 with a deadline, and its fibre. -/
def waits (look : Nat) : WaitRec := { d := 5, look, weir := 63, target := 0, scope := .wg, deadline := some 10 }
def waiting (look : Nat) : Fibre := { fib [] with st := .waiting, await := .weir (waits look) }
theorem witness_FibreEvents_4 : (small (waiting 1) wg 0).fibres.find? 1 = some (waiting 1) ∧ (aged (waiting 1) wg 10).clk wg.die ≤ 10 ∧
    10 < (aged (waiting 1) wg 11).clk wg.die ∧ (waits 0).look = 0 ∧ (waits 1).look ≠ 0 ∧ (wg.gangOf (waiting 1).num).isSome = true := ⟨rfl, by decide, by decide, rfl, by decide, by decide⟩
/-- The workgroup with its gang saved, woken by phase 1 of weir 63. -/
def saved : Wg := { wg with gangs := [none], weirs := wg.weirs.set 63 { Weir.start with wakes := [⟨0, 1, none⟩] } }
theorem witness_FibreEvents_5 : (saved.gangOf (waiting 0).num).isNone = true ∧ ∃ y ∈ saved.weirs, ∃ r ∈ y.wakes, r.gang = saved.gangIx (waiting 0).num := by decide
/-- A launch with a handler. -/
def handled (fl : Nat) : Launch :=
  { placedLaunch with record := (placedLaunch.record.set 8 (BitVec.ofNat 8 fl)).set 0x61 1 }
/-- The fibre stopped at a trap. -/
def stopped (k : Cause) (x : Word) : Fibre := { fib [] with st := .stopped, stop := some (.trap { cause := k, info := x, upc := 0x10008, word := 0, more := 0 }) }
theorem witness_FibreEvents_6 : (handled 0).field 0x60 8 ≠ 0 ∧ placedLaunch.field 0x60 8 = 0 ∧ (fib []).upcalls.length < 4 ∧ (fib []).st ≠ .ended := by decide
theorem witness_FibreEvents_7 : let fb := stopped .trapi 255
    Trapped (small fb wg 0) 1 fb { cause := .trapi, info := 255, upc := 0x10008, word := 0, more := 0 } wg placedLaunch ∧ fb.handler = false ∧
      placedLaunch.flag 2 = false ∧ ver.flag 2 = true ∧ (small fb wg 0).acrOut 0 = false ∧ fb.pend = [] :=
  ⟨⟨rfl, rfl, rfl, ⟨rfl, rfl⟩, by decide, by decide⟩, by decide, by decide, by decide, by decide, rfl⟩
/-- The state with one command of body `b`. -/
def withCmd (b : CmdBody) : State := { sr [] with cmds := [(0, { wg := 0, fib := some 1, ctr := some .oca, rngs := [], body := b, back := none, dst := 0, err := none, since := 0, binds := [] })] }
/-- The handle of weir 0 of the workgroup. -/
def hand : Word := (sr []).handle wg 0
theorem witness_FibreEvents_8 : let s := withCmd (.warrFar hand 1 none)
    (s.engCx 0).isSome = true ∧ (hand.extractLsb' 38 10).toNat = s.chip ∧ s.ofHandle 0 hand = some (0, 0) ∧ s.ofHandle 0 (hand ||| 63) = some (0, 63) ∧
      ((hand ||| 0x8000000000).extractLsb' 38 10).toNat ≠ s.chip ∧ s.ofHandle 0 (hand ||| 0x40000000) = none := by decide
/-! ## Witnesses: events of workgroups -/

/-- A launch of `c2` workgroups a team, `c3` teams a share and `c4` shares, of the flags `fl`, multicast where `mc`; none has started. -/
def shaped (c2 c3 c4 fl : Nat) (mc : Bool) : Launch :=
  { placedLaunch with
    kernel := { placedLaunch.kernel with mcast := mc }, started := []
    record := toLe 0 8 ++ toLe fl 8 ++ toLe 0x00102010 4 ++ [3, 0, 2, 2, 3, 0].map (BitVec.ofNat 8) ++ toLe 0 6
      ++ toLe 1 8 ++ toLe c2 8 ++ toLe c3 8 ++ toLe c4 8 ++ toLe 1 8 ++ toLe 0 8 ++ toLe 0x1000 4 ++ toLe 0x200000 4 ++ toLe 0 160 }
/-- Partition 0 with dies 0 and 1, queue 0 enabled, cores 0 and 1 of die 0 online, and the launches `ls`. -/
def ground (ls : Tbl Launch) : State :=
  let s := { (State.reset.mapped.modPart 0 fun p => { p with dies := 3 }) with launches := ls }
  (((s.setQueue 0 0 { s.queue 0 0 with en := true }).setLcore 0 0 { s.lcore 0 0 with online := true }).setLcore 0 1 { s.lcore 0 1 with online := true })
theorem witness_WorkgroupEvents_1 : let s := { sr [] with fibres := [] }
    s.wgs.find? 0 = some wg ∧ s.launchOf wg = some placedLaunch ∧ s.fibresOf 0 = [] ∧ s.unreported 0 = [] ∧ wg.version = none ∧ s.lines = [] ∧ s.cmds = [] ∧
      placedLaunch.ended.length + 1 = placedLaunch.total ∧ placedLaunch.field 0x78 8 = 0 ∧ (shaped 2 1 1 0 false).ended.length + 1 ≠ (shaped 2 1 1 0 false).total :=
  ⟨rfl, rfl, rfl, rfl, rfl, rfl, rfl, by decide, by decide, by decide⟩
/-- A placement of the workgroup `index` on core `k` of die 0. -/
def onCore (index k : Nat) : Placement := ⟨index, 0, k, [63], 0x100000, List.range 16⟩
theorem witness_WorkgroupEvents_2 : let l := shaped 2 1 1 0 false
    let s := ground [(0, l)]
    s.pendingAt l 0 0 = some 0 ∧ 0 ∈ s.diesOf l.part ∧ ((coresOf (clusOf 0)).find? fun k => s.placeable 0 l 0 0 k []) = some 0 ∧
      s.recallFirst l 0 0 = false ∧ s.outranked 0 l 0 0 = false ∧ s.placementOk l (onCore 0 0) = true ∧ l.sched = [] := by decide
theorem witness_WorkgroupEvents_3 : let l := shaped 2 1 1 0 true
    let s := ground [(0, l)]
    s.shareReady 0 l 0 = true ∧ s.shareDie l 0 ∈ s.diesOf l.part ∧ ([onCore 0 0, onCore 1 1].map fun p => (p.index, p.core)) = ((List.range (l.count 3)).flatMap fun f3 =>
      (s.teamCores 0 l (s.shareDie l 0) 0 f3).mapIdx fun f2 k => (l.indexOf f2 f3 0, k)) ∧
      (∀ p ∈ [onCore 0 0, onCore 1 1], p.die = s.shareDie l 0 ∧ s.placementOk l p = true) ∧
      ∀ c < l.count 3, s.recallFirst l (s.shareDie l 0) c = false ∧ s.outranked 0 l (s.shareDie l 0) c = false := by decide
theorem witness_WorkgroupEvents_4 : let l := { shaped 1 1 8 0 false with started := [0, 16, 32, 48] }
    let s := ground [(0, l)]
    s.served l = true ∧ l.flag 0 = false ∧ 0 ∈ s.diesOf l.part ∧ (∀ c < 6, s.nextAt l 0 c = none) ∧
      upperHalf (mostUnits (((s.diesOf l.part).filter (· != 0)).map fun x => (x, s.freshShares l x))) = [6, 7] := by decide
theorem witness_WorkgroupEvents_5 : let l := { shaped 1 3 1 0 false with started := [0] }
    let s := ground [(0, l)]
    s.served l = true ∧ l.flag 0 = false ∧ 0 ∈ s.diesOf l.part ∧ l.kernel.mcast = false ∧ s.nextAt l 0 5 = none ∧
      upperHalf (mostUnits (((List.range 6).filter (· != 5)).map fun x => (x, s.freshTeams l 0 x))) ≠ [] := by decide
/-- Launch 0 on core 0 with the workgroup `w` and fibre `fb`, and launch 1, of higher priority, pending; no other core is online. -/
def contended (l : Launch) (w : Wg) (fb : Fibre) : State :=
  let g := ground [(0, l), (1, { shaped 1 1 1 0 false with queue := 1 })]
  let s := { (g.setLcore 0 1 { g.lcore 0 1 with online := false }) with cur := .fibre 1 0 0, nextId := 2, wgs := [(0, w)], fibres := [(1, fb)] }
  s.setQueue 0 1 { s.queue 0 1 with en := true, prio := 1 }
/-- What is wanted, and the victims, in `contended`. -/
def wantedIn (s : State) : Option (Wanted × Option (Nat × List Victim)) :=
  (s.wanted 1 { shaped 1 1 1 0 false with queue := 1 } 0 0 0).map fun x => (x, if s.hasRoom x 0 s.leaving = false then s.prefixOf x 0 s.leaving else none)
/-- The actions on the victims that the furrow finds. -/
def found (s : State) : List (Nat × Action) :=
  match wantedIn s with
  | some (_, some (_, vs)) => vs.map fun v => (v.id, v.act)
  | _ => []
/-- Launch 0 with workgroup 0, which uses no weir, tile or engine, and launch 2 with workgroup 2, on core 0, below the pending launch 1. -/
def pair : State :=
  let l := { shaped 1 1 1 0x10 false with started := [0], kernel := { placedLaunch.kernel with nw := 0, nt := 0, nmac := 0, nv := 8, spad := 0 } }
  let s := contended l { wg with ptile := [], born := 1 } (fib [])
  { s with launches := s.launches.put 2 { shaped 1 1 1 0x20 false with started := [0] }, wgs := s.wgs.put 2 { placedWg 2 with gangs := [some 1] }
           fibres := s.fibres.put 3 { fib [] with wg := 2 } }
theorem witness_WorkgroupEvents_6 : found (contended { shaped 1 1 1 0x30 false with started := [0] } wg (fib [])) = [(0, .flush)] ∧
    found (contended { shaped 1 1 1 0x20 false with started := [0] } wg (fib [])) = [(0, .save)] ∧
    found (contended { shaped 1 1 1 0x10 false with started := [0] } wg (waiting 1)) = [(0, .swap 0)] ∧ wg.saving = [] ∧
    (contended { shaped 1 1 1 0x30 false with started := [0] } wg (fib [])).acrOut 0 = false ∧ found pair = [(0, .drain), (2, .save)] := by decide
theorem witness_WorkgroupEvents_7 : let w := { wg with saving := [0] }
    (small (waiting 1) w 0).wgs.find? 0 = some w ∧ (small (waiting 1) w 0).launchOf w = some placedLaunch ∧ (w.gangs.getD 0 none).isSome = true ∧
      (small (waiting 1) w 0).gangQuiet 0 w 0 = true := ⟨rfl, rfl, rfl, by decide⟩
/-- The ground with workgroup 0 saved and recalled. -/
def away : Wg := { wg with gangs := [none], recalled := [(0, 3)] }
theorem witness_WorkgroupEvents_8 : let l := { shaped 1 1 1 0 false with started := [0] }
    let s := { ground [(0, l)] with cur := .event (.restore 0 1 [(0, 63)] (List.range 16)), nextId := 2, wgs := [(0, away)], fibres := [(1, waiting 1)] }
    (∀ g ∈ [(0, 63)], ∃ r ∈ away.recalled, r.1 = g.1) ∧ clusOf 1 = clusOf away.core ∧ s.restorable away 1 1 = true ∧ s.higherPending l 0 0 = false ∧
      (∀ r ∈ s.recalls 0 0, r.1 = 0 ∧ r.2.2.1 ∈ [0]) ∧ picks [63] 1 64 (s.gangsOn 0 1) = true ∧ away.resident = false ∧
      picks (List.range 16) 16 32 (s.tilesOn 0 1) = true := by decide
/-! ## Witnesses: stores to registers -/

/-- Service core 0, taking event `e`, with a levee of every right over every address in x1. -/
def ruled (e : Event) : State := (at' e (lvs .root .root)).modPart 0 fun p => { p with rpmask := 0x80000000 }
/-- A store of service core 0 through x1. -/
def by1 (addr : Nat) : CtlBy := ⟨0, 1, BitVec.ofNat 64 addr, 4⟩
/-- The event `e c` stores to the register at `addr` as instruction `i`, and every check passes. -/
def OpenAt (e : CtlBy → Event) (i : Instr) (addr : Nat) : Prop :=
  (regStore (ruled (e (by1 addr))) (e (by1 addr))).map (fun x => (x.1, x.2.1, x.2.2.1)) = some (i, by1 addr, addr) ∧ CtlOpen (ruled (e (by1 addr))) (by1 addr) addr 0
theorem witness_RegisterStores_1 : OpenAt (.lqpostWrite · 0 63 0x8000) .lqpostWrite (lqBase 0 63 + 8) := ⟨rfl, ⟨⟨rfl, rfl⟩, rfl, rfl, rfl, by decide⟩⟩
theorem witness_RegisterStores_2 : OpenAt (.fqheadWrite · 0 5) .fqheadWrite (partBase 0 + 0x10) := ⟨rfl, ⟨⟨rfl, rfl⟩, rfl, rfl, rfl, by decide⟩⟩
theorem witness_RegisterStores_3 : OpenAt (.npctlRetrain · 15 7 3) .npctlRetrain (svcBase + 0x9000 + 0x40 * 15) := ⟨rfl, ⟨⟨rfl, rfl⟩, rfl, rfl, rfl, by decide⟩⟩
theorem witness_RegisterStores_4 : OpenAt (.hotrst · 31 3) .hotrst (svcBase + 0xC000 + 0x40 * 31) := ⟨rfl, ⟨⟨rfl, rfl⟩, rfl, rfl, rfl, by decide⟩⟩
theorem witness_RegisterStores_5 : OpenAt (.partitionTableWrite · 7 7 0) .partitionTableWrite (svcBase + 64 * 7 + 8 * 7) := ⟨rfl, ⟨⟨rfl, rfl⟩, rfl, rfl, rfl, by decide⟩⟩
theorem witness_RegisterStores_6 : OpenAt (.dspareWrite · 0 0x1F1F) .dspareWrite (dieBase 0 + 8) := ⟨rfl, ⟨⟨rfl, rfl⟩, rfl, rfl, rfl, by decide⟩⟩
theorem witness_RegisterStores_7 : OpenAt (.dbgHalt · 0 25 63) .dbgHalt (coreBase 0 25 + 0x2000) := ⟨rfl, ⟨⟨rfl, rfl⟩, rfl, rfl, rfl, by decide⟩⟩
theorem witness_RegisterStores_8 : OpenAt (.pcmdKill · 0 25 63) .pcmdKill (coreBase 0 25 + 0x100) := ⟨rfl, ⟨⟨rfl, rfl⟩, rfl, rfl, rfl, by decide⟩⟩
theorem witness_RegisterStores_9 : OpenAt (.controlRegisterWrite · (partBase 0 + 0x18) 7) .controlRegisterWrite (partBase 0 + 0x18) :=
  ⟨rfl, ⟨⟨rfl, rfl⟩, rfl, rfl, rfl, by decide⟩⟩
theorem witness_RegisterStores_10 : let s := at' (.fqheadWrite (by1 (partBase 0 + 0x14)) 0 5) (lvs (lev 0 0x1000) .root)
    (s.sc 0).running = true ∧ (s.sc 0).await = none ∧ s.leveeCheck 0 ((s.sc 0).reg 1) rWR (by1 (partBase 0 + 0x14)).va 8 = some 4 ∧
      (ruled .powerLoss).scAddr 0 .root .store (by1 (partBase 0 + 0x14)).va 8 = .ctl (partBase 0 + 0x14) ∧ (partBase 0 + 0x14) % 8 ≠ 0 := by decide
/-- The service core with window 63 onto a switch, of 1 GiB at the end of the window space. -/
def windowed (e : Event) : State := { ruled e with windows := [(63, { (ruled e).window 63 with en := true, kind := 3, part := 0, base := 0x3BFFFF, size := 1 })] }
/-- An address in that window. -/
def byW (o : Nat) : CtlBy := by1 (0x3BFFFF * 2 ^ 30 + o)
/-- The store at offset `o` reaches the switch. -/
def OpenW (e : CtlBy → Event) (o : Nat) : Prop := SwitchOpen (windowed (e (byW o))) (byW o) 63 o
theorem witness_RegisterStores_11 : OpenW (.gctlWrite · 63 255 0) (0x200 * 255) ∧ ((windowed .powerLoss).group 255).valid = false ∧
    ((windowed .powerLoss).group 255).pending = [] := ⟨⟨⟨rfl, rfl⟩, rfl, rfl, rfl⟩, rfl, rfl⟩
theorem witness_RegisterStores_12 : OpenW (.groupAbsentClear · 63 255 15 0) (0x200 * 255 + 0x100 + 8 * 15) := ⟨⟨rfl, rfl⟩, rfl, rfl, rfl⟩
/-! ## Witnesses: events of the engines -/

/-- The state with command 0 of body `b`, workgroup `w` and its fibre, die 0 at cycle `clk`. -/
def eng (w : Wg) (clk : Nat) (b : CmdBody) : State :=
  { small (tiled []) w 0 with
    dies := [(0, { Die.start with clk })]
    cmds := [(0, { wg := 0, fib := some 1, ctr := some .ocf, rngs := [], body := b, back := none, dst := 3, err := none, since := 0, binds := [] })] }
/-- Its context. -/
def ecOf (w : Wg) (b : CmdBody) : EngCx :=
  { cmd := 0, c := { wg := 0, fib := some 1, ctr := some .ocf, rngs := [], body := b, back := none, dst := 3, err := none, since := 0, binds := [] }, w, l := placedLaunch }
/-- A copy of one row of 32 bytes to the last sector of the scratchpad, or from it. -/
def cpy (out acc : Bool) : FlCopy :=
  { gaddr := 0x8000, spoff := 0xFFE0, rowb := 32, nrows := 1, sstr := 0, gstr := 0, npl := 1, pstr := 0, gpstr := 0, out, mc := none, cred := none
    dg := none, fin := none, batch := 0, fill := false, accepted := acc, left := [0], seen := [], kept := [], data := [], failed := [] }
/-- What one try gives: done, a fault or a failure. -/
def tried : EngOut → Nat
  | .done _ _ _ => 1
  | .fault _ _ => 2
  | .fail _ _ _ => 3
  | .wait _ => 0
/-- The copy's global address moved. -/
def cpyAt (a : Word) (out : Bool) : FlCopy := { cpy out true with gaddr := a }
/-- The last sector of the scratchpad failed. -/
def broken : Wg := wg.setSectors 0xFFE0 32 (.failed .xlate)
theorem witness_CopyEvents_1 : (eng wg 0 (.flume (cpy false false))).engCx 0 = some (ecOf wg (.flume (cpy false false))) ∧
    (eng wg 0 (.flume (cpy false false))).behind 0 0 ((cpy false false).ranges 0) = false := ⟨rfl, by decide⟩
theorem witness_CopyEvents_2 : let x := cpy false true
    (eng wg 0 (.flume x)).tokened 0 0 0 = false ∧ tried ((eng wg 0 (.flume x)).sectorTry (ecOf wg (.flume x)) x 0) = 1 ∧ x.offset 0 % 32 = 0 ∧ wg.resident = true ∧
      tried ((eng wg 0 (.flume (cpy true true))).sectorTry (ecOf wg (.flume (cpy true true))) (cpy true true) 0) = 1 ∧
      tried ((eng wg 0 (.flume (cpyAt 0x200000000000 false))).sectorTry (ecOf wg (.flume (cpyAt 0x200000000000 false))) (cpyAt 0x200000000000 false) 0) = 2 := by decide
theorem witness_CopyEvents_3 : let x := cpy true true
    tried ((eng broken 0 (.flume x)).sectorTry (ecOf broken (.flume x)) x 0) = 3 := by decide
theorem witness_CopyEvents_4 : let x := { cpy false true with left := [] }
    (eng wg 0 (.flume x)).engHeld 0 = false ∧ (eng wg 0 (.flume x)).digestBehind (ecOf wg (.flume x)) x = false ∧
      (eng wg 0 (.flume { x with dg := some 3, fin := some 0 })).digestBehind (ecOf wg (.flume { x with dg := some 3, fin := some 0 })) { x with dg := some 3, fin := some 0 } = false ∧
      ((wg.dgs.getD 3 Digest.start).after { x with dg := some 3, fin := some 0 }).stopped = false := by decide
/-- A gather or scatter of the rows `l` of 4 bytes, from a table of two at 0x8000. -/
def gsc (l : Option (List Nat)) : GsCmd :=
  { tbase := 0x8000, rows := 2, ebytes := 4, dstr := 4, doff := 0x200, n := 1, ioff := 0x300, tstr := 4, soff := 0xFFE0, list := l, fails := [], done := false }
/-- Whether rows run to their end, with nothing of the command held. -/
def rowsRun (r : Except State GsAcc) : Bool :=
  match r with
  | .ok x => !x.s.engHeld 0 && decide (x.s.cmds.length = 1)
  | .error _ => false
theorem witness_CopyEvents_5 : let e := ecOf wg (.gather (gsc (some [1])))
    let s := eng wg 0 (.gather (gsc (some [1])))
    gsListed false s e (gsc (some [1])) s e (gsc (some [1])) [1] ∧ (gsc none).list = none ∧ s.behind 0 0 e.c.rngs = false ∧ wg.arriving 0x300 4 = false ∧
      (∀ l ∈ [[1], [2], [0xFFFFFFFF]], rowsRun (gsRows (fun x k i => x.gatherRow s e (gsc (some [1])) k i) 0 l ⟨s, [], [], none⟩) = true) :=
  ⟨.inl ⟨rfl, rfl, rfl, rfl⟩, rfl, by decide, by decide, by decide⟩
theorem witness_CopyEvents_6 : let e := ecOf wg (.scatter (gsc (some [1])))
    let s := eng wg 0 (.scatter (gsc (some [1])))
    gsListed true s e (gsc (some [1])) s e (gsc (some [1])) [1] ∧
      (∀ l ∈ [[1], [2], [0xFFFFFFFF]], rowsRun (gsRows (fun x k i => x.scatterRow s e (gsc (some [1])) k i) 0 l ⟨s, [], [], none⟩) = true) :=
  ⟨.inl ⟨rfl, rfl, rfl, rfl⟩, by decide⟩
/-- MXLOADB of bank 1 of MAC 3, all rows at offset `o`, with the first sector read. -/
def mxl (o : Nat) : MxLoad := { mac := 3, bank := 1, fmt := .i8, boff := o, bstr := 0, bsc := none, since := 0, got := [(o / 32, [])] }
/-- The rest of the first row ARRIVING. -/
def coming : Wg := mxw.setSectors 32 32 .arriving
set_option maxRecDepth 20000 in
theorem witness_MatrixEvents_1 : let s := eng mxw 255 (.mxload (mxl 0))
    let e := ecOf mxw (.mxload (mxl 0))
    allPresent mxw (bRegions .i8 0 0 none) ∧ s.engCx 0 = some e ∧ s.bankBehind 0 0 3 1 true = false ∧ clearOf s e e.c.rngs ∧ 8 + mxLoadCycles .i8 ≤ since' (s.clk 0) 0 :=
  ⟨by unfold allPresent; decide, rfl, by decide, by unfold clearOf; decide, by decide⟩
set_option maxRecDepth 20000 in
theorem witness_MatrixEvents_2 : (∃ got, mxw.capture (mxl 0).got (bRegions .i8 0 0 none) 0 = .all got) ∧ ∃ got, coming.capture (mxl 0).got (bRegions .i8 0 0 none) 0 = .part got :=
  ⟨⟨_, rfl⟩, ⟨_, rfl⟩⟩
/-- MXLOOP of two steps on tile 15, at step `k`, with `ld` slices loaded. -/
def mxr (k ld : Nat) (sa la : Option Nat) : MxRun :=
  { tile := 15, mac := 3, bank0 := 1, fmt := .i8, n := 2, aoff := 0, astr := 0, asc := none, da := 0, das := 0, boff := 0, bstr := 0, bsc := 0
    db := 0, dbs := 0, bfmt := .i8, bscaled := false, step := k, stepAt := sa, loaded := ld, loadAt := la, endAt := 0
    got := [(0, [])], gotB := [(0, [])], acap := [], scap := [], partl := [], failed := false }
set_option maxRecDepth 20000 in
theorem witness_MatrixEvents_3 : let x := mxr 0 0 none (some 0)
    let s := eng mxw 255 (.mxrun x)
    s.engCx 0 = some (ecOf mxw (.mxrun x)) ∧ mxLoadCycles x.bfmt ≤ since' (s.clk 0) 0 ∧ s.bankBehind 0 0 3 (x.bankOf 1) true = false ∧
      clearOf s (ecOf mxw (.mxrun x)) (reads (x.bRegions 1)) ∧ ∃ got, mxw.capture x.gotB (x.bRegions 1) s.free = .all got :=
  ⟨rfl, by decide, by decide, by unfold clearOf; decide, _, rfl⟩
theorem witness_MatrixEvents_4 : let x := mxr 0 0 none none
    let s := eng mxw 8 (.mxrun x)
    8 ≤ since' (s.clk 0) 0 ∧ s.macroBusy 0 0 3 = false ∧ s.bankBehind 0 0 3 (x.bankOf 0) false = false ∧
      clearOf s (ecOf mxw (.mxrun x)) (reads (x.aRegions 0)) ∧ (∃ got, mxw.capture x.got (x.aRegions 0) s.free = .all got) ∧
      ∃ got, coming.capture x.got (x.aRegions 0) s.free = .part got := ⟨by decide, by decide, by decide, by unfold clearOf; decide, ⟨_, rfl⟩, ⟨_, rfl⟩⟩
theorem witness_MatrixEvents_5 : let x := mxr 1 1 (some 0) none
    mxStepCycles x.fmt (mxK x.bfmt) x.acap ≤ since' ((eng mxw 255 (.mxrun x)).clk 0) 0 := by decide
theorem witness_MatrixEvents_6 : let x := mxr 2 1 none none
    let s := eng mxw 16 (.mxrun x)
    x.n ≤ x.step ∧ 16 ≤ since' (s.clk 0) x.endAt ∧ s.tileBehind 0 0 15 (fun b => b.touches && !b.accumulates) = false := by decide
/-- MXDRAIN of tile 15 to offset 0. -/
def mxd (since : Option Nat) : MxDrain := { tile := 15, doff := 0, dstr := 64, ty := .f32, rnd := .rne, sat := false, srs := 0, since, rows := List.replicate 16 [] }
theorem witness_MatrixEvents_7 : let s := eng mxw 48 (.drain (mxd (some 0)))
    (eng mxw 0 (.drain (mxd none))).tileBehind 0 0 15 CmdBody.changes = false ∧ 48 ≤ since' (s.clk 0) 0 ∧
      clearOf s (ecOf mxw (.drain (mxd (some 0)))) [] ∧ (eng mxw 0 (.mxzero 15)).tileBehind 0 0 15 CmdBody.touches = false :=
  ⟨by decide, by decide, by unfold clearOf; decide, by decide⟩
/-- MXSTAT of tile 15, with its fibre waiting for it, or for the pending result `b`. -/
def stat (b : Option Nat) : State :=
  let s := eng mxw 0 (.mxstat 15)
  { s with fibres := [(1, { tiled [] with await := .cmd 0 8 })], cmds := s.cmds.mapVal fun _ c => { c with ctr := none, back := b } }
theorem witness_MatrixEvents_8 : (∀ b ∈ [none, some 7], ((stat b).engCx 0).isSome = true ∧ (stat b).tileBehind 0 0 15 CmdBody.changes = false) ∧ (tiled []).wg = 0 := by decide
/-! ## Witnesses: events at homes -/

/-- A read fill of cluster 47 for the line of grain `g` at `a`. -/
def fillOf (a g : Nat) : HomeReq := { agent := .cluster 47, part := 0, kind := .fill false, va := 0, pa := a, grain := g, narrow := false, count := false }
theorem witness_HomeEvents_1 : let r := fillOf 0x8000 512
    let s := sr []
    ownRequest r ∧ s.boot.memready = true ∧ s.inRange 0 0x8000 = true ∧ s.pageOf r = none ∧ s.sets = [] ∧ (s.line 0x8000 512).busy = false ∧
      (s.line 0x8000 512).acc = none ∧ (s.line 0x8000 512).holder = none :=
  ⟨⟨⟨47, by decide, rfl⟩, ⟨_, rfl⟩, by decide, by decide, by decide⟩, by decide, by decide, by decide, by decide, by decide, by decide, by decide⟩
theorem witness_HomeEvents_2 : ownRequest (fillOf 0x7FFFFFFFFFFE0 32) ∧ (sr []).inRange 0 0x7FFFFFFFFFFE0 = false ∧ (∀ b ∈ (none : Option (BankRef × Nat)), bankHolds b.1 0 = true) :=
  ⟨⟨⟨47, by decide, rfl⟩, ⟨_, rfl⟩, by decide, by decide, by decide⟩, by decide, by decide⟩
/-- The state with the line `l` at 0x8000, the partials `ps` and the lock messages `ms`. -/
def lined (fb : Fibre) (l : Line) (ps : List Partial) (ms : List LockMsg) : State :=
  { small fb wg 0 with lines := [(0x8000, l)], partials := ps, lockMsgs := ms }
/-- A partial of the last core of die 7, or of its cluster, in the last element of the line. -/
def part7 (n : Node) : Partial := { node := n, line := 0x8000, grain := 32, tag := .iadd64, elems := [(3, 5)], bad := [] }
/-- A line in COLLECT. -/
def collecting : Line := { Line.idle 32 with acc := some .iadd64, collect := true }
theorem witness_HomeEvents_3 : let s := lined (fib []) collecting [part7 (.core 7 23)] []
    s.lines.find? 0x8000 = some collecting ∧ (∀ p ∈ s.partials, p.line = 0x8000 → p.bad = []) ∧ collecting.grain % AcrTag.iadd64.size = 0 ∧
      (∀ k ∈ sectorsOf 0x8000 collecting.grain, s.dead (32 * k) 32 = false) ∧ Mem.wf s.mem = true := ⟨rfl, by decide, by decide, by decide, by decide⟩
/-- A far operation of lane 7 on the last 8 bytes of the line. -/
def farBy (k : FarKind) : CmdBody := .far [{ lane := 7, issue := { wg := some 0, binds := [], pub := true, rel := none, read := none }, va := 0x8018, pa := 0x8018, grain := 32, kind := k, data := 5 }]
/-- The state with that operation and the line `l`. -/
def farState (k : FarKind) (l : Line) (ps : List Partial) : State := { eng wg 0 (farBy k) with lines := [(0x8000, l)], partials := ps }
theorem witness_HomeEvents_4 : let l := { collecting with collect := false }
    let s := farState (.acr .iadd64 (some (.core 0 0))) l [part7 (.core 7 23)]
    (s.farOp 0 7).isSome = true ∧ s.cutOff 0x8018 = false ∧ (s.line 0x8000 32).busy = false ∧ (s.line 0x8000 32).holder = none ∧ s.accruesIn 0x8000 32 = [0x8000] ∧
      s.partialBad (.core 0 0) 0x8000 ((0x8018 - 0x8000) / 32) = false := by decide
theorem witness_HomeEvents_5 : let s := farState (.atom .add .n64 0) (Line.idle 32) []
    (s.farOp 0 7).isSome = true ∧ s.cutOff 0x8018 = false ∧ decide (s.gate 0x8000 32 true = .pass) = true ∧ (s.line 0x8000 32).holder = none ∧ s.dead 0x8018 8 = false := by decide
theorem witness_HomeEvents_6 : let l := { collecting with collect := false }
    (∀ n ∈ [Node.core 7 23, .cluster 7 5], let s := lined (fib []) l [part7 n] []
      (s.line 0x8000 32).busy = false ∧ (s.partialAt n 0x8000).isSome = true) ∧ 5 = clusOf 23 := by decide
theorem witness_HomeEvents_7 : ∀ d ∈ [Moesi.m, .o, .s], ((lined (fib []) { Line.idle 32 with dir := d } [] []).line 0x8000 32).holder = none ∧
    ((lined (fib []) { Line.idle 32 with dir := d } [] []).line 0x8000 32).dir = d := by decide
/-- A request of fibre 1's slot 3, or its grant. -/
def msg (g : Bool) : LockMsg := ⟨g, 0x8000, 32, 1, 3, .acquired, some 255⟩
theorem witness_HomeEvents_8 : ∀ h ∈ [none, some 2], let s := lined (slotFib .queued .acquired) { Line.idle 32 with holder := h } [] [msg false]
    (s.lockMsgs.find? fun m => m.isOf false 1 3 && decide (m.line = 0x8000)) = some (msg false) ∧ decide (s.gate 0x8000 32 true = .pass) = true ∧
      s.tableRoom 0x8000 = true ∧ (s.line 0x8000 32).queue = [] ∧ (s.line 0x8000 32).first = none ∧ s.present 1 = true := by decide
theorem witness_HomeEvents_9 : let s := { lined (slotFib .queued .acquired) (Line.idle 32) [] [] with tableWait := [msg false] }
    (s.tableWait.find? fun m => decide (chanOf m.line = chanOf 0x8000)) = some (msg false) ∧ (msg false).isOf false 1 3 = true ∧ s.tableRoom 0x8000 = true ∧
      decide (s.gate 0x8000 32 true = .pass) = true := by decide
theorem witness_HomeEvents_10 : let s := lined (slotFib .queued .acquired) (Line.idle 32) [] [msg true]
    (s.lockMsgs.find? fun m => m.isOf true 1 3) = some (msg true) ∧ (s.line 0x8000 32).acks = 0 ∧ (slotFib .queued .acquired).slots.length = 4 ∧ noWaiters s := by
  refine ⟨by decide, by decide, by decide, fun p hp x => ?_, by decide⟩
  obtain rfl : p = (1, slotFib .queued .acquired) := by simpa [lined, small] using hp
  simp [slotFib, fib, Fibre.start]
/-- The request in the queue, its line held by fibre `h`. -/
def queuedBy (h clk : Nat) : State :=
  { lined (slotFib .queued .acquired) { Line.idle 32 with holder := some h, queue := [{ moment := 0, rank := [], fib := 1, slot := 3, seq := 0, since := 0, limit := some 255, probes := 0 }] } [] [] with
    dies := [(0, { Die.start with clk })] }
theorem witness_HomeEvents_11 : (∀ t ∈ [254, 255], ((queuedBy 2 t).queuedAt 0x8000 1 3).isSome = true) ∧ 255 ≤ since' ((queuedBy 2 255).clkFor 1) 0 ∧
    since' ((queuedBy 2 254).clkFor 1) 0 < 255 ∧ (queuedBy 2 254).guests.find? 1 = none := by decide
theorem witness_HomeEvents_12 : 65536 ≤ since' ((queuedBy 2 65536).clkFor 1) 0 ∧ since' ((queuedBy 2 65535).clkFor 1) 0 < 65536 ∧
    (queuedBy 2 65536).cycleFrom 0 16 (0x8000, { moment := 0, rank := [], fib := 1, slot := 3, seq := 0, since := 0, limit := some 255, probes := 1 }) = none ∧
    ((queuedBy 1 65536).cycleFrom 0 16 (0x8000, { moment := 0, rank := [], fib := 1, slot := 3, seq := 0, since := 0, limit := some 255, probes := 1 })).isSome = true := by decide
theorem witness_HomeEvents_13 : ∀ st ∈ [SlotState.granted, .held, .done, .queued], let fb := { slotFib st .acquired with await := .lckcan 3 0 3 }
    (small fb wg 0).lockMsgs = [] ∧ (fb.slot 3).state = st ∧ fb.slots.length = 4 := by decide
/-! ## Witnesses: events of translation and of the fabric -/

/-- The state with what `g` makes of partition 0. -/
def parted (g : Part → Part) : State := (sr []).modPart 0 g
/-- A stall of 10 ns since its start, with a limit of `lim`. -/
def stalled (who : Agent) (lim : Nat) : State := { parted fun p => { p with wblim := lim, stalls := [⟨who, 0x8000, 0x8000, 0, false⟩] } with gtime := 10 }
theorem witness_FabricEvents_1 : ∀ who ∈ [Agent.lane 1 7, .engine 0 3, .service 0, .endpoint 31 255],
    ((stalled who 10).part 0).stalls.find? (fun x => decide (x.who = who)) = some ⟨who, 0x8000, 0x8000, 0, false⟩ ∧
    (((stalled who 10).part 0).wblim ≠ 0 ∧ ((stalled who 10).part 0).wblim ≤ (stalled who 10).gtime - 0) ∧
    ¬ (((stalled who 11).part 0).wblim ≤ (stalled who 11).gtime - 0) ∧ ((stalled who 0).part 0).wblim = 0 ∧ ((stalled who 10).walk 0 0x8000).isSome = true := by decide
theorem witness_FabricEvents_2 : ((eng wg 0 (farBy (.atom .add .n64 0))).engCx 0).isSome = true := rfl
/-- An invalidation of one page begun, with a cached translation of it whose leaf is `e`, and line 0x8000 `l`. -/
def invalid (e : Word) (l : Line) : State :=
  { parted fun p => { p with xinv := some (some (0x8000, 1)), rpmask := 0x80000000 } with
    lines := [(0x8000, l)], atsFns := [(31, 255)], tlb := [{ part := 0, va := 0, bits := 30, leaf := e }] }
theorem witness_FabricEvents_3 : let s := invalid 0x39F (Line.idle 32)
    let u := invalid 0x1F { Line.idle 32 with acc := some .iadd64 }
    (s.part 0).xinv.isSome = true ∧ s.staleAccrues 0 (some (0x8000, 1)) = [] ∧ s.oldAccess 0 (some (0x8000, 1)) = false ∧ s.atsOf 0 = [(31, 255)] ∧ s.portPart 31 = some 0 ∧
      u.staleAccrues 0 (some (0x8000, 1)) ≠ [] := by decide
/-- Root port 28 up, its PASID table at 0x9000 with the entry `e` for PASID 0. -/
def ported (e : Nat) : State :=
  let s := parted fun p => { p with rpmask := 0x10000000 }
  (s.setRp 28 { RootPort.start with en := true, up := true, pasid := 0x9000 }).poke 0x9000 (toLe e 8)
theorem witness_FabricEvents_4 : let s := ported 7
    s.portPart 28 = some 0 ∧ s.carries 28 = true ∧ s.pasidEntry 28 0 = some 7 ∧ s.pasidEntry 28 1 = none ∧ Nat.testBit 7 2 = true ∧ Nat.testBit 7 1 = true ∧ Nat.testBit 1 2 = false ∧
      canonical 0x8000 = true ∧ canonical 0x8000000000000000 = false ∧ (∃ l, s.leafOf 0 0x8000 s.free = some l ∧ leafCpol l.e ≠ 2 ∧ s.place 0 (l.pa 0x8000) = .home) ∧
      s.leafOf 0 0x4000000000 s.free = none := ⟨by decide, by decide, by decide, by decide, by decide, by decide, by decide, by decide, by decide, ⟨_, rfl, by decide, by decide⟩, by decide⟩
/-- A migration of eight pages. -/
def moving (dst : Word) : State := { parted fun p => { p with mig := some 8, migsrc := 0x10000, migdst := dst } with lines := [] }
theorem witness_FabricEvents_5 : let s := moving 0x20000
    (s.part 0).mig = some 8 ∧ s.lines = [] ∧ (∀ i < 8, s.inRange 0 (0x10000 + 8192 * i) = true ∧ s.inRange 0 (0x20000 + 8192 * i) = true) ∧ Mem.wf s.mem = true ∧
      s.bad = [] ∧ s.lost = [] ∧ 0x10000 + 8192 * 8 ≤ 0x20000 ∧ (moving 0x4000000000).inRange 0 0x4000000000 = false := by decide
/-- A line with acknowledgements `b` due. -/
def acking (b : Nat) : State := lined (fib []) { Line.idle 32 with dir := .s, acks := b, sharers := b } [] []
theorem witness_FabricEvents_6 : ∀ n ∈ [0, 48, 64], (acking (2 ^ n)).ackTravels n = true ∧ ((2 ^ n) : Nat).testBit n = true ∧
    (acking (2 ^ n + 2)).ackTravels n = true ∧ ((2 ^ n + 4) : Nat).testBit n = true := by decide
/-- Port 15 as `x`. -/
def portAs (x : Port) (l : Tbl Line) : State := { (sr []).setPort 15 x with lines := l }
/-- The port enabled and UP after `run` failures, or DOWN. -/
def live (up : Bool) (run : Nat) : Port := { Port.start with en := true, up, down := !up, lanes := 16, run }
theorem witness_FabricEvents_7 : PortAt (portAs (live true 15) []) 15 (live true 15) ∧ PortAt (portAs (live false 0) []) 15 (live false 0) ∧ PortAt (portAs Port.start []) 15 Port.start ∧
    (∀ l ∈ (portAs (live true 15) [(0x8000, Line.idle 32)]).lines, l.2.acks.testBit (portBit 15) = false) ∧ (2 ^ portBit 15).testBit (portBit 15) = true ∧
    16 ≤ (live true 15).run + 1 ∧ (live true 14).run + 1 < 16 := by unfold PortAt; decide
theorem witness_FabricEvents_8 : let s := { portAs { live false 0 with since := some 0 } [] with gtime := 1000 * (sr []).nlfto }
    (s.port 15).since = some 0 ∧ (s.port 15).down = true ∧ 1000 * s.nlfto ≤ s.gtime - 0 ∧ s.lines = [] ∧ s.groups = [] ∧ 1023 ∉ s.severed := by decide
theorem witness_FabricEvents_9 : (∀ x ∈ [(1, 0), (0, 1), (7, 2)], ebit ((sr []).linkWord x.1 x.2) 0 = true) ∧ ebit ((sr []).linkWord 0 0) 0 = false := by decide
theorem witness_FabricEvents_10 : (sr []).windowAt 0x8000 = none ∧ ((windowed .powerLoss).windowAt (0x3BFFFF * 2 ^ 30)).isSome = true ∧
    ((windowed .powerLoss).line (0x3BFFFF * 2 ^ 30) 32).busy = false := by decide
/-! ## Witnesses: events of collectives, I/O and endpoints -/

/-- A valid group of chips 0, 1 and 255 with the rounds `rs`. -/
def grp (rs : List Round) : Group := { Group.start with valid := true, ty := 2, members := 3 + 2 ^ 255, pending := rs }
/-- A round at offset 0 with the contributions of the chips `cs`. -/
def rnd (m : Option Nat) (cs : List (Nat × Option Nat)) : Round := { offset := 0, bytes := 4, mclr := m, parts := cs.map fun c => (c.1, c.2, toLe 1 4) }
/-- A collective command of the last sectors of the scratchpad. -/
def cmdOf (mclr : Bool) (st : CollSt) : CollCmd :=
  { mclr, addr := 0, pa := 0x3BFFFF * 2 ^ 30, window := 63, group := 255, bytes := 32, spoff := 0xFFC0, stoff := 0xFFE0, ty := .i32, scope := .sys, weir := 63, st
    src := [], out := [], members := 3, flags := 0 }
/-- The state with that command, and its group. -/
def coll (mclr : Bool) (st : CollSt) (rs : List Round) : State :=
  { eng wg 0 (.coll (cmdOf mclr st)) with groups := [(255, grp rs)], windows := [(63, { (sr []).window 63 with en := true, kind := 1, part := 0, base := 0x3BFFFF, size := 1, group := 255, ty := 2 })] }
theorem witness_IoEvents_1 : let s := coll false .issued []
    s.chip = 0 ∧ (s.group 255).refuses 255 = false ∧ (s.group 255).refuses 2 = true ∧ (rnd none [(0, some 0)]).lacks 0 255 = true ∧ (rnd none [(255, none)]).lacks 0 255 = false ∧
      (toLe 1 4).length = (rnd none []).bytes := by decide
theorem witness_IoEvents_2 : let s := coll false .issued []
    let e := ecOf wg (.coll (cmdOf false .issued))
    (s.collIssued 0 false).isSome = true ∧ s.behind 0 0 [readRng 0xFFC0 32] = false ∧ allPresent wg [(0xFFC0, 32)] ∧ s.collBefore 0 (cmdOf false .issued) = false ∧ s.chip ∉ s.severed ∧
      (s.group 255).refuses s.chip = false ∧ e.w = wg := ⟨by decide, by decide, by unfold allPresent; decide, by decide, by decide, by decide, rfl⟩
set_option maxRecDepth 20000 in
theorem witness_IoEvents_3 : let s := coll true .issued []
    (s.collIssued 0 true).isSome = true ∧ [(1, toLe 0 32), (255, toLe 0 32)].map (·.1) = (s.group 255).others s.chip ∧
      tried (s.collInput (ecOf wg (.coll (cmdOf true .issued))) (cmdOf true .issued)) = 1 ∧ ({ s with severed := [0] }).chip ∈ ({ s with severed := [0] }).severed := by decide
set_option maxRecDepth 20000 in
theorem witness_IoEvents_4 : (rnd none [(0, some 0), (1, none), (255, none)]).complete (grp []) = true ∧ (rnd (some 1) [(0, some 0)]).complete (grp []) = true ∧
    (rnd none [(0, some 0), (1, none), (255, none)]).parts.filterMap (·.2.1) = [0] := by decide
theorem witness_IoEvents_5 : let s := coll false (.done 3) []
    (s.engCx 0).isSome = true ∧ clearOf s (ecOf wg (.coll (cmdOf false (.done 3)))) [] ∧ noWaiters s := by
  refine ⟨rfl, by unfold clearOf; decide, fun p hp x => ?_, by decide⟩
  obtain rfl : p = (1, tiled []) := by simpa [coll, eng, small] using hp
  simp [tiled, fib, Fibre.start]
/-- An I/O command at the first byte of the last root port's space. -/
def ioc (k : IoKind) (sent : Bool) : IoCmd :=
  { kind := k, pa := barBase + 31 * 2 ^ 40, va := 0, size := 8, data := 5, sent, holds := [], since := 0, views := [] }
/-- The state with that command, its root port up or down. -/
def ioS (k : IoKind) (sent up : Bool) : State :=
  { (eng wg 0 (.io (ioc k sent))).setRp 31 { RootPort.start with en := true, up } with gtime := 50000000 }
theorem witness_IoEvents_6 : let s := ioS (.load true) true true
    ((ioS (.load true) false true).ioEvent 0).isSome = true ∧ (s.ioEvent 0).isSome = true ∧ barPort (ioc (.load true) true).pa = some 31 ∧ s.endpointWaits 31 none = false ∧
      s.ioUsable (ioc (.load true) true).pa = true ∧ (ioS (.load true) true false).ioUsable (ioc (.load true) true).pa = false ∧
      1000 * (s.rp 31).cto ≤ s.gtime - 0 ∧ 0 < 1000 * (s.rp 31).cto := by decide
theorem witness_IoEvents_7 : ∀ k ∈ [IoKind.store, .bell true], let s := ioS k false true
    (s.ioEvent 0).isSome = true ∧ (∀ c ∈ s.cmds.find? 0, s.ioBehind 0 c (ioc k false) = false) ∧ s.stillHeld [] = false ∧
      (lined (fib []) { Line.idle 32 with held := [⟨7, fillOf 0x8000 32, none, { wg := none, binds := [], pub := true, rel := none, read := none }⟩] } [] []).stillHeld [7] = true := by decide
/-- The state of `ported` with nothing listed, and interrupt entries of which entry 0 counts weir 0. -/
def epS : State :=
  let s := ported 7
  let s := (s.poke 0xA000 (toLe (2 ^ 48 + 255 * 2 ^ 32 + 1) 8)).poke 0xA008 (toLe hand.toNat 8)
  s.modPart 0 fun p => { p with io := [(0x18, 0x100000), (0x20, 0xA000), (0x28, 2)] }
theorem witness_IoEvents_8 : EpOpen epS 28 0 (.phys 0x8FFF) 1 ∧ epS.intWindow 0 0x8FFF = false ∧ epS.place 0 0x8FFF = .home ∧ (epS.part 0).stalls = [] ∧ epS.tlb = [] ∧ epS.lines = [] ∧ epS.bad = [] ∧
    epS.lost = [] ∧ epS.dead 0x8FFF 1 = false ∧ epS.past = [] ∧ ({ epS with atsOff := [(28, 255)] } : State).engShut 0 (.endpoint 28 255) = false ∧
    ({ epS with bad := [(0x8FE0 / 32)] } : State).dead 0x8FFF 1 = true := ⟨⟨by decide, by decide, by decide⟩, by decide, by decide, by decide, by decide, by decide, by decide, by decide, by decide, by decide, by decide, by decide⟩
theorem witness_IoEvents_9 : epS.portPart 28 = some 0 ∧ epS.carries 28 = true ∧ epS.intWindow 0 0x100000 = true ∧ epS.intWindow 0 0x100004 = true ∧ epS.intWindow 0 0x100008 = false ∧
    epS.mem.read 0xA000 8 = 2 ^ 48 + 255 * 2 ^ 32 + 1 ∧ (epS.part 0).dies.testBit (hand.extractLsb' 35 3).toNat = true ∧ (hand.extractLsb' 38 10).toNat = epS.chip ∧
    epS.ofHandle 0 hand = some (0, 0) ∧ epS.mem.read 0xA010 8 = 0 ∧ epS.endpointWaits 28 (some 255) = false := by decide
theorem witness_IoEvents_10 : (epS.rp 28).en = true ∧ (epS.rp 28).dpc = false ∧ (epS.rp 0).en = false ∧ epS.rpExists 28 = true ∧ (epS.rp 28).up = true ∧
    ({ epS with rps := [(28, { RootPort.start with en := true })] } : State).carries 28 = false := by decide
theorem witness_IoEvents_11 : let s := ruled .powerLoss
    let pa := 0x000F010000000000 + 31 * 0x10000000
    s.scPart 0 = some 0 ∧ s.leveeCheck 0 .root rRD (BitVec.ofNat 64 pa) 4 = none ∧ s.leveeCheck 0 .root rWR (BitVec.ofNat 64 pa) 4 = none ∧
      s.scAddr 0 .root .load (BitVec.ofNat 64 pa) 4 = .ecam pa ∧ s.scAddr 0 .root .store (BitVec.ofNat 64 pa) 4 = .ecam pa ∧ (s.part 0).rpmask.getLsbD 31 = true ∧
      (s.part 0).rpmask.getLsbD 30 = false := by decide
/-- Entry 1 of the shard table, of `n` bytes at 0x8000, enabled and to be checked now. -/
def sharded (n : Nat) (sh : List Shard) : State :=
  let s := ((((sr []).poke 0xB080 (toLe 0x8000 8)).poke 0xB088 (toLe n 8)).poke 0xB090 (toLe 3 8))
  s.modPart 0 fun p => { p with io := [(0x58, 0xB000), (0x60, 2), (0x68, 1)], shards := sh, slt := some 7 }
theorem witness_IoEvents_12 : ((sharded 32 []).part 0).slt = some 7 ∧ (∀ q ∈ (sharded 32 []).cmds, 7 ≤ q.1) ∧ (1 < ((sharded 32 []).part 0).io.getD 0x60 0) ∧ (sharded 32 []).shardDue 0 1 = true ∧
    (sharded 32 []).shardAt 0 1 = 0xB080 ∧ (∀ y ∈ ((sharded 32 []).part 0).shards, y.index ≠ 1) := by decide
/-- Whether parts of an access are found. -/
def parts? (r : Except EngOut (List EngPart)) : Nat :=
  match r with
  | .ok l => if l.all fun q => !(sharded 32 []).dead q.x.pa q.n then 1 else 0
  | .error o => tried o
theorem witness_IoEvents_13 : ((sharded 32 [⟨1, 5⟩]).part 0).shards = [⟨1, 5⟩] ∧ (sharded 32 []).gtime < 5 ∧ ({ sharded 32 [] with gtime := 5 } : State).gtime = 5 ∧
    parts? ((sharded 32 []).engParts 0 .load (pagesOf 32) 0x8000 32) = 1 ∧ parts? ((sharded 32 []).engParts 0 .load (pagesOf 32) 0x4000000000 32) = 2 := by decide
/-! ## Witnesses: events of memory, debugging and power -/

/-- A bank of the last stack. -/
def bank : BankRef := ⟨15, 31, 63⟩
theorem witness_PowerEvents_1 : let s := { sr [] with busyBanks := [(bank, 10)], gtime := 9 }
    s.gtime < 10 ∧ ({ s with gtime := 10 } : State).gtime = 10 ∧ s.backed = [] ∧ (s.stack 15).rmode = 0 ∧ (s.stack 15).temp = 25 := by decide
/-- Core 23 of die 7 sampling, scheduler 3 due or with a record ready. -/
def sampling (ctl base : Word) (tail : Nat) (t : Tbl SmpTag) : State :=
  (sr []).setLcore 7 23 { (sr []).lcore 7 23 with smpctl := ctl, smpleft := [(3, 0)], smpbase := base, smptail := tail, smptag := t }
theorem witness_PowerEvents_2 : let k := (sampling 0x1F0001 0 0 []).lcore 7 23
    k.smpctl.getLsbD 0 = true ∧ k.smpleft.find? 3 = some 0 ∧ 3 ∉ k.smparm := by decide
theorem witness_PowerEvents_3 : let t : SmpTag := { pc := 0, wid := 0, ident := 0, ord := 0, gang := 63, batch := 127, cause := 0, clk := 0 }
    ((sampling 1 16 65535 [(3, t)]).lcore 7 23).smptag.find? 3 = some t ∧ (65535 + 2 ^ 32 - 0 % 2 ^ 32) % 2 ^ 32 < 2 ^ (((sampling 1 16 65535 [(3, t)]).lcore 7 23).smpbase.toNat % 32) ∧
      ¬ (4 ≤ ((sampling 1 3 0 [(3, t)]).lcore 7 23).smpbase.toNat % 32) := by decide
theorem witness_PowerEvents_4 : let s := { sr [] with wgs := [] }
    s.lines = [] ∧ s.partials = [] ∧ s.retired = [] ∧ s.wgs = [] ∧ s.parts.find? 0 ≠ none ∧ s.boot.fw = 0 ∧ (s.sc 0).running = true := by decide
/-- The state with die 7 as `x`, one step due at GTIME 5, at GTIME `g`. -/
def clocked (x : Die) (g : Nat) : State := { (sr []).setDie 7 x with gtime := g }
theorem witness_PowerEvents_5 : let x := { Die.start with group := 65535, changes := [5], cap := 40 }
    ((clocked x 4).die 7).changes = [5] ∧ (clocked x 4).gtime < 5 ∧ 5 ≤ (clocked x 5).gtime ∧ (∀ e < 8, e = 7 ∨ (x.group ≠ 0 ∧ ((clocked x 5).die e).group = x.group) →
      40 ≤ min ((clocked x 5).die e).cap ((clocked x 5).die e).limit) ∧ 40 = min ((clocked x 5).die 7).cap ((clocked x 5).die 7).limit := by decide
theorem witness_PowerEvents_6 : let x := { Die.start with hot := true, limit := 40, temp := 101 }
    ((clocked Die.start 0).die 7).hot = false ∧ ((clocked x 1000000).die 7).temp < 102 ∧ ((clocked x 1000000).die 7).hot = true ∧ 1000000 ≤ (clocked x 1000000).gtime - ((clocked x 1000000).die 7).stepAt ∧
      ((clocked x 1000000).die 7).limit < 80 ∧ Die.start.group = 0 ∧ min x.cap x.limit ≠ min ((clocked Die.start 0).die 7).cap ((clocked Die.start 0).die 7).limit := by decide
/-- Service core 0 with the levee `lv` in x1 and no levee in pc. -/
def reach (lv : Levee) : State := lvs lv .root
theorem witness_PowerEvents_7 : let s := (reach .root).setSc 0 { (reach .root).sc 0 with pc := .null }
    (s.sc 0).ready = true ∧ (s.sc 0).pc.check rFX (BitVec.ofNat 64 (s.sc 0).pc.cur).toNat 4 = some 1 := by decide
theorem witness_PowerEvents_8 : let s := reach (whole 0x8FF8)
    ∀ op ∈ [ScOp.load 8 true 31 true, .fload 8 31, .store 8 31 true, .fstore 4 31, .lr 8 31 true, .sc 8 31 31 true, .amo .add 8 true 31 31 true true],
      scForm op = true ∧ s.leveeCheck 0 ((s.sc 0).reg 1) (scNeed op) (BitVec.ofNat 64 ((s.sc 0).reg 1).cur + BitVec.ofInt 64 0) (scSize op) = none ∧
      s.scAddr 0 ((s.sc 0).reg 1) (ScOp.kind op) 0x8FF8 (scSize op) = .mem 0x8FF8 none ∧ (s.sc 0).translates .load = false ∧ (s.sc 0).translates .store = false ∧
      s.lines = [] ∧ s.unseen (.service 0) 0x8FF8 8 = [] ∧ s.dead 0x8FF8 8 = false ∧ (s.part 0).stalls = [] ∧ s.bad = [] ∧ s.lost = [] ∧ s.resvs.find? 0 ≠ some (0x8FF8, 8) ∧
      ({ s with resvs := [(0, (0x8FF8, 8))] } : State).resvs.find? 0 = some (0x8FF8, 8) := by decide
theorem witness_PowerEvents_9 : (reach (lev 0 0x1000)).leveeCheck 0 (lev 0 0x1000) (scNeed (.lr 8 31 true)) 0x40FF9 8 = some 4 ∧ (0x8FF9 : Word).toNat % 8 ≠ 0 := by decide
/-- Service core 0 in supervisor mode, translating, with a page of root port 31's space at 0, and what of the port the partition has. -/
def faced (mask : Word) : State :=
  let s := ((ruled .powerLoss).poke 0x6000 (toLe 0x800700000000000F 8)).modPart 0 fun p => { p with rpmask := mask }
  s.setSc 0 { s.sc 0 with mode := .supervisor, satp := 0xE000000000000000 }
theorem witness_PowerEvents_10 : let s := ruled .powerLoss
    s.scAddr 0 .root .load (BitVec.ofNat 64 (partBase 0)) 8 = .ctl (partBase 0) ∧ s.ctlReach 0 (partBase 0) = true ∧ partBase 0 % 8 = 0 ∧
      s.leveeCheck 0 .root (scNeed (.load 8 true 31 false)) (BitVec.ofNat 64 (partBase 0)) 8 = none := by decide
theorem witness_PowerEvents_11 : (faced 1).scAddr 0 .root .load 0 4 = .device 0x0007000000000000 ∧ (faced 1).scAddr 0 .root .store 0 4 = .device 0x0007000000000000 ∧
    barPort 0x0007000000000000 = some 0 ∧ ((faced 1).part 0).rpmask.getLsbD 0 = true ∧ ((faced 0).part 0).rpmask.getLsbD 0 = false ∧ (faced 1).lines = [] :=
  ⟨by decide +kernel, by decide +kernel, rfl, by decide, by decide, rfl⟩
/-! ## Words of the spec's worked examples, and words written out from its encodings -/

/-- 08_encoding.md, worked example: VFMA.f32.rne V10, V4, V5, V10, M2. -/
theorem test_decode_vfma : decodeTableWord 64 0x3000A04050A23960 =
    some (.vfma { d := 10, a := 4, b := .vec 5, c := 10, m := 2, ty := .f32, rnd := .rne, sat := false, look := 3 }) := by decide
/-- The same: SLI.i64 S5, 0x1_0000_0000_0000 with its extension word, and B.ne four words back. -/
theorem test_decode_sli : decodeTableWord 128 0x00010000000000001410500000000460 =
    some (.sli { d := 5, imm := .long 0x1000000000000, ty := .i64, sf := false, look := 0 }) := by decide
theorem test_decode_b : decodeTableWord 64 0x040FFFFC00000040 = some (.b { cond := .ne, off := .short (-4) }) := by decide
/-- 10_isa_control_scalar.md, worked example: LOOP 3, xit; CALL sub; RET; FEND; SADD.i64 S5, S5, 1. -/
theorem test_decode_loop : decodeTableWord 64 0x0830000600300020 = some (.loop { count := .imm 3 6 }) := by decide
theorem test_decode_call : decodeTableWord 64 0x0800000500000000 = some (.call { off := .short 5 }) := by decide
theorem test_decode_ret : decodeTableWord 64 0x082003F000000000 = some (.ret { a := 63 }) := by decide
theorem test_decode_fend : decodeTableWord 64 0x0850000000000000 = some .fend := by decide
theorem test_decode_sadd : decodeTableWord 64 0x1000505000100061 = some (.sadd { d := 5, a := 5, b := .imm 1, ty := .i64, sf := false, look := 0 }) := by decide
/-- R196, R198, R234: BMZ M5 one word back: MAJOR 1, MINOR 1, OFF20 = 0xFFFFF, MSEL 5. -/
theorem test_decode_bmz : decodeTableWord 64 0x041FFFFF00050000 = some (.bmz { m := 5, off := .short (-1) }) := by decide
/-- R262: KANDN M5, M6, M7 (MAJOR 7, MINOR 3) and KTOS S5, M6, 1 (MINOR 9). -/
theorem test_decode_kandn : decodeTableWord 64 0x1C30506070000000 = some (.kandn { d := 5, a := 6, b := 7 }) := by decide
theorem test_decode_ktos : decodeTableWord 64 0x1C90506000100000 = some (.ktos { d := 5, a := 6, n := 1 }) := by decide
/-- R234: LAUNCH S5, S6 (MAJOR 3, MINOR 4), NOP, and 22_debug_profiling.md R484: BKPT 7 with STOPI. -/
theorem test_decode_launch : decodeTableWord 64 0x0C40506000000000 = some (.launch { d := 5, a := 6 }) := by decide
theorem test_decode_nop : decodeTableWord 64 0x0C00000000000000 = some .nop := by decide
theorem test_decode_bkpt : decodeTableWord 64 0x0C20000000700800 = some .bkpt := by decide
/-- 24_programs_system.md: SYSC 0x21. -/
theorem test_decode_sysc : decodeTableWord 64 0x0C30000002100000 = some (.sysc { n := 0x21 }) := by decide
/-- 11_isa_vector.md, worked example: VMATCH.n32 M3, V9, V4; VCOMPACT.n32 V10, V4, M3; VSCAN.add.f32.rne V6, V5; VRED. -/
theorem test_decode_vmatch : decodeTableWord 64 0x50003040009000E0 =
    some (.vmatch { d := 3, a := 4, b := .absent, c := 9, m := 0, ty := .n32, rnd := .rne, sat := false, look := 0 }) := by decide
theorem test_decode_vcompact : decodeTableWord 64 0x5010A040000300E0 =
    some (.vcompact { d := 10, a := 4, b := .absent, c := 0, m := 3, ty := .n32, rnd := .rne, sat := false, look := 0 }) := by decide
theorem test_decode_vscan : decodeTableWord 64 0x4C00605000000160 =
    some (.vscan { d := 6, a := 5, b := .absent, c := 0, m := 0, ty := .f32, rnd := .rne, sat := false, look := 0 }) := by decide
theorem test_decode_vred : decodeTableWord 64 0x4C10705000000160 =
    some (.vred { d := 7, a := 5, b := .absent, c := 0, m := 0, ty := .f32, rnd := .rne, sat := false, look := 0 }) := by decide
/-- 12_isa_memory_sync.md, worked example: ATL.add.n32 V7, V4, S10, V6; WARR.wg S5, 3; WWAIT.wg S7, S6, S8, 3; VLDS.n32 V9, V4, S10, 0. -/
theorem test_decode_atl : decodeTableWord 64 0x64407040A0600004 =
    some (.atlAdd { d := 7, a := 4, b := 10, c := 6, w := .n32, ord := .rlx, scope := .wg, m := 0, look := 0 }) := by decide
theorem test_decode_warr : decodeTableWord 64 0x7C10500000300000 = some (.warr { d := 5, w := 3, scope := .wg, m := 0, look := 0 }) := by decide
theorem test_decode_wwait : decodeTableWord 64 0x7C30706080300000 = some (.wwait { d := 7, a := 6, b := 8, w := 3, scope := .wg, look := 0 }) := by decide
theorem test_decode_vlds : decodeTableWord 64 0x54009040A0000004 = some (.vlds { d := 9, a := 4, b := 10, disp := .imm 0, w := .n32, m := 0, look := 0 }) := by decide
/-- 14_programs_compute.md: VLDG.n8 V4, V0, S10, 0; REDG.add.n32.pk V12, S14, V8; MXLOOP.e4m3 T0, S8, 4, 0, 1, sc; MXSTAT S20, T0. -/
theorem test_decode_vldg : decodeTableWord 64 0x58004000A0000000 = some (.vldg { d := 4, a := 0, b := 10, disp := .imm 0, w := .n8, m := 0, look := 0 }) := by decide
theorem test_decode_redg : decodeTableWord 64 0x6C4000C0E08000C4 =
    some (.redgAdd { d := 0, a := 12, b := 14, c := 8, w := .n32, ord := .rlx, scope := .pk, m := 0, look := 0 }) := by decide
theorem test_decode_mxloop : decodeTableWord 128 0x000000000000000488300080004004A0 =
    some (.mxloop { t := 0, a := 8, count := .long 4, mac := 0, bank := true, fmt := .e4m3, ascale := true }) := by decide
theorem test_decode_mxstat : decodeTableWord 64 0x8871400000000000 = some (.mxstat { d := 20, t := 0, look := 0 }) := by decide
/-- 15_programs_sharing.md: LCK.pk S10, S6, S11; ULK.pk S6; ACR.xadd.f32 V2, V3, S9, 0. -/
theorem test_decode_lck : decodeTableWord 64 0x7400A060B00000C0 = some (.lck { d := 10, a := 6, b := 11, scope := .pk, look := 0 }) := by decide
theorem test_decode_ulk : decodeTableWord 64 0x74200060000000C0 = some (.ulk { a := 6, scope := .pk }) := by decide
theorem test_decode_acr : decodeTableWord 64 0x7030203090000008 = some (.acrXadd { d := 2, a := 3, b := 9, scale := 0, w := .f32, scope := .wg, m := 0 }) := by decide
/-- 24_programs_system.md: VSTG.n32 V4, V1, S8, 6; SSTG.n16 S6, S5, 0; IOLD.n32 S15, S16, 7; FLCOPY.1d in, S20, S22, dg=0, final; MCLR.bf16.h1 S8, 0. -/
theorem test_decode_vstg : decodeTableWord 64 0x5810401080600004 = some (.vstg { d := 4, a := 1, b := 8, disp := .imm 6, w := .n32, m := 0, look := 0 }) := by decide
theorem test_decode_sstg : decodeTableWord 64 0x6010605000000002 = some (.sstg { d := 6, a := 5, disp := .imm 0, w := .n16, look := 0 }) := by decide
theorem test_decode_iold : decodeTableWord 64 0x9000F10000700004 = some (.iold { d := 15, a := 16, disp := .imm 7, w := .n32, wg := false, look := 0 }) := by decide
theorem test_decode_flcopy : decodeTableWord 64 0x8000014160000048 =
    some (.flcopy1d { a := 20, opt := .reg 22, out := false, mc := false, cred := none, dg := some 0, final := true }) := by decide
theorem test_decode_mclr : decodeTableWord 64 0x8C100080000001A8 = some (.mclr { a := 8, w := 0, ty := .bf16, scope := .h1 }) := by decide
/-- 13_isa_engines_io.md, worked example: MXLOADB.e4m3 S16, 0, 0; MXINIT T0, 80; MXDRAIN.bf16.rne T0, S18; WAITOC OCM, 0. -/
theorem test_decode_mxloadb : decodeTableWord 64 0x8800010000000080 = some (.mxloadb { t := 0, a := 16, scale := none, mac := 0, bank := false, fmt := .e4m3 }) := by decide
theorem test_decode_mxinit : decodeTableWord 128 0x508810000000000400 = some (.mxinit { t := 0, anchor := .long 80 }) := by decide
theorem test_decode_mxdrain : decodeTableWord 64 0x88400120000001A0 = some (.mxdrain { t := 0, a := 18, ty := .bf16, rnd := .rne, sat := false }) := by decide
theorem test_decode_waitoc : decodeTableWord 64 0x7C50000000000000 = some (.waitoc { ctr := .ocm, n := 0 }) := by decide
/-- 16_privileged_state.md, worked example: LV.NARROW x10, x11, x12. -/
theorem test_decode_lvNarrow : decodeTableWord 32 0x30C5855B = some (.lvNarrow { d := 10, s := 11, t := 12 }) := by decide
/-- R197, R195: the all-zero word, a header, a mask destination M0, and a bit of a field that BMZ does not use are no instruction. -/
theorem test_decode_none : [0, 0xFC1000000850A500, 0x1C30006070000000, 0x041FFFFF10050000].all (fun w => (decodeTableWord 64 w).isNone) = true := by decide
/-- 08_encoding.md, worked example: the header with LEN 4. -/
theorem test_decode_header : (decodeHeader 0xFC1000000850A500).map Header.len = some 4 := by decide

/-! ## Ill-formed terms, one for each check of WellFormed -/

/-- Vector operands of type `ty`. -/
def vt (ty : Ty) : VOp := vop ty 0
theorem test_wf_scalar : ([.sadd { d := 0, a := 0, b := .imm 0, ty := .f32, sf := false, look := 0 }, .smulh { d := 0, a := 0, b := .imm 0, ty := .n8, sf := false, look := 0 },
    .smulhu { d := 0, a := 0, b := .imm 0, ty := .i8, sf := false, look := 0 }, .ssetsr { sel := .wid, a := 0 }, .loop { count := .long 0x100000000 0 },
    .kandn { d := 0, a := 1, b := 1 }, .ktos { d := 0, a := 0, n := 2 }] : List Instr).all (fun i => !i.wf) = true := by decide
theorem test_wf_vector : ([.vadd (vt .f32), .vadd { vt .n32 with rnd := .rtz }, .vmulh { vt .n32 with sat := true }, .vadd { vt .n64 with d := 1 }, .vadd { vt .n32 with b := .absent },
    .vadd { vt .n32 with c := 1 }, .vcmp { vt .n32 with d := 0, c := 0 }, .vcmp { vt .n32 with d := 1, c := 6 }, .vlane { vt .n32 with d := 64, b := .sca 0, c := 0 },
    .vshl { vt .n32 with b := .absent, c := 0 }, .vbcast { vt .n32 with b := .vec 0, c := 0 }, .vadd { vt .x128 with d := 2 }] : List Instr).all (fun i => !i.wf) = true := by decide
theorem test_wf_forms : ([.vfma { vt .n8 with c := 0 }, .vpack { vt .n8 with c := 4 }, .vscan { vt .f32 with b := .absent, c := 6 }, .vred { vt .f32 with b := .absent, c := 3 },
    .vmatch { vt .n32 with b := .absent, d := 1, a := 2, c := 2 }, .vmatch { vt .n64 with b := .absent, d := 1, a := 2, c := 3 },
    .vcvt { d := 0, a := 0, src := .f32, m := 0, ty := .f32, rnd := .rne, sat := false, look := 0 },
    .vcvt { d := 0, a := 0, src := .f32, m := 0, ty := .i32, rnd := .rne, sat := true, look := 0 }, .vsetsrs { vt .n32 with d := 0, b := .absent, c := 0, look := 1 }] : List Instr).all
    (fun i => !i.wf) = true := by decide
theorem test_wf_memory : ([.vldg { mop with w := .n64, d := 1 }, .vsts { mop with look := 1 }, .sldg { d := 0, a := 0, disp := .imm 0, w := .x128, look := 0 }, .atlLd { aop with c := 0, ord := .rel },
    .atgSt { aop with d := 0, ord := .acq, look := 0 }, .atgAdd { aop with w := .n8 }, .atlAdd { aop with scope := .pk }, .redgAdd aop, .acrIadd64 { acop with w := .n32 },
    .acrFadd32 { acop with w := .f32, scale := 1 }] : List Instr).all (fun i => !i.wf) = true := by decide
theorem test_wf_engines : ([.flcopy1d { cop with a := 61 }, .flcopy1d { cop with out := true }, .flcopy1d { cop with final := true, opt := .reg 1 }, .flcopy1d { cop with opt := .reg 1 },
    .flcopy1d { cop with mc := true, opt := .reg 0 }, .gather { a := 57 }, .mxloadb { mxo with fmt := .f16 }, .mxloadb { mxo with scale := some 0 }, .mxinit { t := 0, anchor := .long 512 },
    .mxloop { mlo 0 with a := 0 }, .mxloop { mlo 1 with ascale := true }, .mxdrain { t := 0, a := 0, ty := .f64, rnd := .rne, sat := false }, .mcsr { collo with scope := .di },
    .mcsr { collo with ty := .i8 }, .iold { ioo with wg := false, w := .n16 }, .iold ioo, .lvInfo { d := 0, s := 0, sel := 6 }] : List Instr).all (fun i => !i.wf) = true := by decide
/-! ## Single steps -/

/-- Fibre 1 after instruction `i` in `s`. -/
def after (i : Instr) (s : State) : Option Fibre :=
  match exec i s with
  | .next t => t.fibres.find? 1
  | _ => none
/-- What `g` says of that fibre. -/
def sees {α : Type} (i : Instr) (s : State) (g : Fibre → α) : Option α := (after i s).map g
/-- R253, R31: SADD.i64 wraps, its source is its destination, and the pc advances by a word. -/
theorem test_sadd_wraps : sees (.sadd { d := 5, a := 5, b := .imm 1, ty := .i64, sf := false, look := 0 }) (sr [(5, 0xFFFFFFFFFFFFFFFF)]) (fun f => (f.sreg 5, f.pc)) =
    some (0, 0x10010) := by decide
/-- R253, R200: at 32 bits, signed, the result is sign-extended. -/
theorem test_sadd_narrow : sees (.sadd { d := 5, a := 5, b := .imm 1, ty := .i32, sf := false, look := 0 }) (sr [(5, 0x7FFFFFFF)]) (fun f => f.sreg 5) =
    some 0xFFFFFFFF80000000 := by decide
/-- R254: the quotient of the most negative number by -1 is that number, and SDIV never traps. -/
theorem test_sdiv_corner : sees (.sdiv { d := 5, a := 5, b := .imm 0xFF, ty := .i64, sf := false, look := 0 }) (sr [(5, 0x8000000000000000)]) (fun f => f.sreg 5) =
    some 0x8000000000000000 := by decide
/-- R262: KFIRST of a mask with no set bit below the width. -/
theorem test_kfirst_none : sees (.kfirst { d := 5, a := 1 }) (small { fib [] with m := [(0, 0xFF), (1, 0x100)] } wg 0) (fun f => f.sreg 5) = some 0xFFFFFFFFFFFFFFFF := by decide
/-- R240: CALL writes LK := next header OR the loop depth, and goes to the target. -/
theorem test_call : sees (.call { off := .short 5 }) ((sr []).poke 0x10030 (toLe 0xFC00000000000000 8)) (fun f => (f.sreg 63, f.pc)) = some (0x10010, 0x10030) := by decide
/-- R239, R210: BRI to a word that is no header takes BADTARGET, and the fibre stops. -/
theorem test_bri_badtarget : sees (.bri { a := 5 }) (sr [(5, 0x10008)]) (fun f => (decide (f.st = .stopped), match f.stop with
    | some (.trap t) => t.cause.code
    | _ => 0)) = some (true, 0x02) := by decide
/-- R293, R297: a scalar store of 2 bytes at the end of the page, low byte first, and nothing beside it. -/
theorem test_sstg : (match exec (.sstg { d := 6, a := 5, disp := .imm 0, w := .n16, look := 0 }) (sr [(5, 0x8FFE), (6, 0x12345)]) with
    | .next t => t.mem.bytes 0x8FFD 3
    | _ => []) = [0, 0x45, 0x23] := by decide
/-- R197, R42: a register at or beyond NS is the REGBOUND trap. -/
theorem test_regbound : sees (.smov { d := 5, a := 6, ty := .i64, sf := false, look := 0 })
    { sr [] with launches := [(0, { placedLaunch with kernel := { placedLaunch.kernel with ns := 6 } })] } (fun f => match f.stop with
    | some (.trap t) => t.cause.code
    | _ => 0) = some Cause.regbound.code := by decide
/-- The worked example of 16_privileged_state.md: x1 spans 0x400_0000_0000 to 0x401_0000_0000, its cursor at a; x2 holds 100,001. LV.NARROW gives
GR 0, LEN 100,001 and BACK 0, the span from a to a + 100,001. -/
theorem test_lvNarrow : (match exec (.lvNarrow { d := 10, s := 1, t := 2 })
    (lvs ⟨BitVec.ofNat 128 (0xFF * 2 ^ 120 + 15 * 2 ^ 102 + 0x246 * 2 ^ 82 + 0x20000 * 2 ^ 64 + 0x0000040001234560), true⟩ (Levee.int 100001)) with
    | .next t => [((t.sc 0).reg 10).base, ((t.sc 0).reg 10).top, ((t.sc 0).reg 10).gr, ((t.sc 0).reg 10).len, ((t.sc 0).reg 10).back, bit ((t.sc 0).reg 10).tag]
    | _ => []) = [0x40001234560, 0x4000124CC01, 0, 100001, 0, 1] := by decide

end Sys2Proof.Tests
end

/-! SUPPORT. The issue of one instruction: what a wait leaves, and what an instruction whose effect is done leaves in its
fibre and in memory. -/

namespace Sys2Proof

/-- Of two puts at one key the later one stands. -/
@[simp] theorem Tbl.put_put {α : Type} (t : Tbl α) (k : Nat) (v w : α) : (t.put k v).put k w = t.put k w := by
  induction t with
  | nil => simp [Tbl.put]
  | cons p t ih =>
    obtain ⟨j, u⟩ := p
    by_cases hj : j = k
    · simp [Tbl.put, hj]
    · by_cases hk : k < j
      · simp [Tbl.put, hj, hk]
      · simp [Tbl.put, hj, hk, ih]

namespace Machine

/-! ## Fibres by name -/

@[simp] theorem State.setFib_setFib (s : State) (f : Nat) (x y : Fibre) : (s.setFib f x).setFib f y = s.setFib f y := by
  simp [State.setFib]

theorem State.modFib_of_find? {s : State} {f : Nat} {x : Fibre} (h : s.fibres.find? f = some x) (g : Fibre → Fibre) :
    s.modFib f g = s.setFib f (g x) := by
  simp [State.modFib, h]

theorem State.modFib_modFib (s : State) (f : Nat) (g h : Fibre → Fibre) :
    (s.modFib f g).modFib f h = s.modFib f fun x => h (g x) := by
  cases hx : s.fibres.find? f with
  | none => simp [State.modFib, hx]
  | some x => rw [State.modFib_of_find? hx, State.modFib_of_find? hx, State.modFib_of_find? (x := g x) (by simp), State.setFib_setFib]

/-- The context of the step holds its state and the fibre as that state lists it. -/
theorem State.eq_and_find?_of_cx {s : State} {c : Cx} (h : s.cx = some c) : c.s = s ∧ s.fibres.find? c.f = some c.fb := by
  unfold State.cx at h
  split at h
  · split at h
    · cases h
    · next hfb =>
      split at h
      · cases h
      · split at h
        · cases h
        · cases h; exact ⟨rfl, hfb⟩
  · cases h

/-! ## The fibre as it issues, and as it goes on -/

@[simp] theorem Cx.issued_f (c : Cx) : c.issued.f = c.f := rfl
@[simp] theorem Cx.issued_s (c : Cx) : c.issued.s = c.s.setFib c.f c.issued.fb := rfl

/-- At its issue a fibre differs in its windows, its age and its state alone. -/
theorem Cx.issued_fb_eq (c : Cx) :
    c.issued.fb = { c.fb with wins := c.issued.fb.wins, age := c.issued.fb.age, st := .ready } := by
  unfold Cx.issued
  cases c.again <;> rfl

/-- What an instruction moves in its fibre by going on: the place and the loop entries (02 R40). -/
theorem Fibre.advance_eq (x : Fibre) (n : Nat) :
    x.advance n = { x with pc := (x.advance n).pc, blkEnd := (x.advance n).blkEnd, loops := (x.advance n).loops } := by
  simp only [Fibre.advance]
  repeat' split
  all_goals rfl

/-- Where a fibre goes on depends on its place and its loop entries alone. -/
theorem Fibre.advance_congr {x y : Fibre} (n : Nat) (hpc : x.pc = y.pc) (hl : x.loops = y.loops) :
    (x.advance n).pc = (y.advance n).pc ∧ (x.advance n).loops = (y.advance n).loops := by
  simp only [Fibre.advance, hpc, hl]
  repeat' split
  all_goals simp

/-! ## What a retired stop site and the end of an instruction leave unchanged -/

theorem State.modFib_eq (s : State) (f : Nat) (g : Fibre → Fibre) : s.modFib f g = { s with fibres := (s.modFib f g).fibres } := by
  unfold State.modFib; split <;> rfl

/-- A retired stop site changes its fibre, its workgroup and the event counters. -/
theorem State.retire_eq (s : State) (f : Nat) (a : Word) :
    s.retire f a = { s with fibres := (s.retire f a).fibres, wgs := (s.retire f a).wgs, cores := (s.retire f a).cores,
                            dies := (s.retire f a).dies } := by
  simp only [State.retire]
  repeat' split
  all_goals rfl

theorem Cx.retired_eq (c : Cx) (s : State) :
    c.retired s = { s with fibres := (c.retired s).fibres, wgs := (c.retired s).wgs, cores := (c.retired s).cores,
                           dies := (c.retired s).dies } := by
  unfold Cx.retired
  split
  · exact State.retire_eq ..
  · rfl

/-- A fibre whose instruction is done waits for nothing and advances. -/
def Fibre.done (len : Nat) (x : Fibre) : Fibre := { x with await := .none }.advance len

theorem Cx.finish_ok (c : Cx) (t : State) : c.finish (.ok t) = c.retired (t.modFib c.f (Fibre.done c.len)) := by
  simp only [Cx.finish, State.modFib_modFib]
  rfl

/-- An instruction that goes on changes, beyond its own effect, its fibre, its workgroup and the event counters. -/
theorem Cx.finish_ok_eq (c : Cx) (t : State) :
    c.finish (.ok t) = { t with fibres := (c.finish (.ok t)).fibres, wgs := (c.finish (.ok t)).wgs,
                                cores := (c.finish (.ok t)).cores, dies := (c.finish (.ok t)).dies } := by
  rw [Cx.finish_ok, Cx.retired_eq, State.modFib_eq]

@[simp] theorem Cx.finish_ok_mem (c : Cx) (t : State) : (c.finish (.ok t)).mem = t.mem := by rw [c.finish_ok_eq]
@[simp] theorem Cx.finish_ok_cmds (c : Cx) (t : State) : (c.finish (.ok t)).cmds = t.cmds := by rw [c.finish_ok_eq]
@[simp] theorem Cx.finish_ok_past (c : Cx) (t : State) : (c.finish (.ok t)).past = t.past := by rw [c.finish_ok_eq]

/-! ## What they leave in the fibre -/

/-- A retired stop site is noted in its fibre, and ends a single step. -/
theorem State.retire_find? {s : State} {f : Nat} {x : Fibre} (a : Word) (h : s.fibres.find? f = some x) :
    (s.retire f a).fibres.find? f = some { x with lastSp := some a, stepReq := false } := by
  simp only [State.retire, h]
  split <;> simp [State.bumpWg, State.bump]

/-- What a fibre holds that is neither its place nor the bookkeeping of a stop site is the same after its instruction. -/
theorem Cx.retired_find? {c : Cx} {s : State} {x : Fibre} (h : s.fibres.find? c.f = some x) :
    ∃ sp q, (c.retired s).fibres.find? c.f = some { x with lastSp := sp, stepReq := q } := by
  unfold Cx.retired
  split
  · exact ⟨_, _, State.retire_find? _ h⟩
  · exact ⟨x.lastSp, x.stepReq, h⟩

/-- The fibre after an instruction whose effect left it as `x`. -/
theorem Cx.finish_ok_find? {c : Cx} {t : State} {x : Fibre} (h : t.fibres.find? c.f = some x) :
    ∃ sp q, (c.finish (.ok t)).fibres.find? c.f = some { x.done c.len with lastSp := sp, stepReq := q } := by
  rw [Cx.finish_ok, State.modFib_of_find? h]
  exact Cx.retired_find? (by simp)

/-- A wait that changes nothing leaves its fibre as it stood, in the state of the wait. -/
theorem Cx.finish_wait_issued (c : Cx) (st : FibreState) :
    c.finish (c.issued.wait st) = c.s.setFib c.f { c.fb with st } := by
  simp [Cx.finish, Cx.wait]

end Machine

namespace Claims

open Sys2Proof.Machine

/-- An instruction that is ready does its own effect on the context as it issues. -/
theorem Ready.issue_eq {s : State} {c : Cx} {ops : List Opnd} (h : Ready s c ops) (body : Cx → Res) :
    issue s ops body = .next (c.finish (body c.issued)) := by
  simp [issue, h.cx, h.pass]

/-- What GoesOn says of a fibre that receives nothing: its place, loops, flags, modes, registers and pending results are
those of `y`. -/
structure SameFlow (x y : Fibre) : Prop where
  pc    : x.pc = y.pc
  loops : x.loops = y.loops
  flags : x.flags = y.flags
  ftz   : x.ftz = y.ftz
  srs   : x.srs = y.srs
  s     : x.s = y.s
  v     : x.v = y.v
  m     : x.m = y.m
  pend  : x.pend = y.pend

/-- The issue itself moves nothing of that. -/
theorem sameFlow_issued (c : Cx) : SameFlow c.issued.fb c.fb := by
  rw [c.issued_fb_eq]
  exact ⟨rfl, rfl, rfl, rfl, rfl, rfl, rfl, rfl, rfl⟩

/-- An instruction whose effect keeps the fibre's place, flags, modes, registers and pending results goes on, having
received nothing. -/
theorem goesOn_finish_ok {c : Cx} {t : State} {x : Fibre} (hx : t.fibres.find? c.f = some x) (h : SameFlow x c.fb) :
    GoesOn c (c.finish (.ok t)) 0 [] := by
  obtain ⟨sp, q, hfind⟩ := Cx.finish_ok_find? hx
  obtain ⟨hpc, hloops⟩ := Fibre.advance_congr (x := { x with await := .none }) (y := c.fb) c.len h.pc h.loops
  refine ⟨_, hfind, hpc, hloops, ?_⟩
  rw [Fibre.done, Fibre.advance_eq]
  exact ⟨rfl, h.flags, h.ftz, h.srs, fun _ => ⟨h.s, h.v, h.m, h.pend⟩, fun hl => absurd rfl hl⟩

/-- What such an instruction leaves in the fields of its fibre that no clause of GoesOn names. -/
theorem fibAt_finish_ok {c : Cx} {t : State} {x : Fibre} (hx : t.fibres.find? c.f = some x) :
    FibAt (c.finish (.ok t)) c.f fun y => y.relMark = x.relMark ∧ y.arHeld = x.arHeld := by
  obtain ⟨sp, q, hfind⟩ := Cx.finish_ok_find? hx
  refine ⟨_, hfind, ?_⟩
  rw [Fibre.done, Fibre.advance_eq]
  exact ⟨rfl, rfl⟩

end Claims

/-! SUPPORT. Acquires, and the writes of a fibre that are still out (04 R94 to R97). -/

namespace Machine

@[simp] theorem State.learn_mem (s : State) (v : Viewer) (ids : List Nat) : (s.learn v ids).mem = s.mem := rfl
@[simp] theorem State.learn_cmds (s : State) (v : Viewer) (ids : List Nat) : (s.learn v ids).cmds = s.cmds := rfl
@[simp] theorem State.learn_fibres (s : State) (v : Viewer) (ids : List Nat) : (s.learn v ids).fibres = s.fibres := rfl

/-- A release changes the list of releases alone. -/
theorem State.released_eq (s : State) (r : Rel) : s.released r = { s with rels := (s.released r).rels } := by
  unfold State.released; split <;> rfl

/-- The write named `id` is visible to `v`. -/
def Visible (past : List Past) (v : Viewer) (id : Nat) : Prop := ∃ q ∈ past, q.id = id ∧ v ∈ q.vis

/-- An acquire makes the writes it names visible. -/
theorem visible_shown_of_mem {past : List Past} {r : Past} {ids : List Nat} (v : Viewer) (hr : r ∈ past) (hid : r.id ∈ ids) :
    Visible (shown past v ids) v r.id := by
  refine ⟨_, List.mem_map_of_mem hr, ?_⟩
  by_cases hv : v ∈ r.vis <;> simp [hid, hv]

/-- An acquire hides no write. -/
theorem Visible.shown {past : List Past} {v : Viewer} {id : Nat} (h : Visible past v id) (u : Viewer) (ids : List Nat) :
    Visible (shown past u ids) v id := by
  obtain ⟨q, hq, hid, hv⟩ := h
  refine ⟨_, List.mem_map_of_mem hq, ?_⟩
  split <;> simp [hid, hv]

/-- A lineage depends on the parents of the fibres alone (04 R87). -/
theorem State.lineage_congr {s t : State}
    (hp : ∀ g, (t.fibres.find? g).bind Fibre.parent = (s.fibres.find? g).bind Fibre.parent) (k f n : Nat) :
    t.lineage k f n = s.lineage k f n := by
  induction k generalizing f n with
  | zero => rfl
  | succ k ih => simp only [State.lineage, hp, ih]

/-- The writes that are still out are those that the homes hold and those on their way: they do not depend on what the
fibres see of the past, or on the releases. -/
theorem State.outNames_congr {s t : State} (hp : ∀ g, (t.fibres.find? g).bind Fibre.parent = (s.fibres.find? g).bind Fibre.parent)
    (hl : t.lines = s.lines) (hc : t.cmds = s.cmds) (hn : t.nextId = s.nextId) (f : Nat) : t.outNames f = s.outNames f := by
  simp only [State.outNames, State.before, State.lineage_congr hp, hl, hc, hn]

/-- Nor on what a fibre holds beside its parent. -/
theorem State.outNames_setFib {s : State} {f : Nat} {x y : Fibre} (hx : s.fibres.find? f = some x) (hp : y.parent = x.parent) (g : Nat) :
    (s.setFib f y).outNames g = s.outNames g := by
  refine State.outNames_congr (s := s) (t := s.setFib f y) (fun i => ?_) rfl rfl rfl g
  by_cases hi : i = f
  · simp [hi, hx, hp]
  · simp [Tbl.find?_put_of_ne _ _ hi]

end Machine

/-! SUPPORT. The two halves of a fence, and the order of FENCE.ar (04 R95). -/

namespace Machine

/-- The mark of FENCE.rel at a scope, set once. -/
def Fibre.markedAt (scope : Scope) (x : Fibre) : Fibre :=
  if scope ∉ x.relMark then { x with relMark := scope :: x.relMark } else x

theorem Fibre.markedAt_eq (scope : Scope) (x : Fibre) : x.markedAt scope = { x with relMark := (x.markedAt scope).relMark } := by
  unfold Fibre.markedAt; split <;> rfl

theorem Cx.markRelease_eq (c : Cx) (scope : Scope) : c.markRelease scope = c.s.setFib c.f (c.fb.markedAt scope) := by
  unfold Cx.markRelease Fibre.markedAt Cx.setF
  by_cases h : scope ∈ c.fb.relMark <;> simp [h]

/-- At the issue the mark joins those that the fibre had before it. -/
theorem Cx.issued_markRelease_eq (c : Cx) (scope : Scope) :
    c.issued.markRelease scope = c.s.setFib c.f { c.issued.fb with relMark := (c.fb.markedAt scope).relMark } := by
  have hmarks : (c.issued.fb.markedAt scope).relMark = (c.fb.markedAt scope).relMark := by
    rw [c.issued_fb_eq]
    simp only [Fibre.markedAt]
    split <;> rfl
  rw [Cx.markRelease_eq, Fibre.markedAt_eq, hmarks, Cx.issued_s, Cx.issued_f, State.setFib_setFib]

/-- The acquiring half makes the writes that the latest atomic read at the scope acquired visible. -/
theorem Cx.visible_acquireRead (c : Cx) {s : State} {scope : Scope} {r : Past} (hr : r ∈ s.past)
    (hread : ∃ x ∈ c.fb.acqIds, x.1 = scope ∧ r.id ∈ x.2) : Visible (c.acquireRead s scope).past (.fibre c.f) r.id := by
  obtain ⟨x, hx, hscope, hid⟩ := hread
  exact visible_shown_of_mem _ hr (List.mem_flatMap.2 ⟨x, by simp [hx, hscope], hid⟩)

/-- The state in which a FENCE.ar has acquired from earlier ones and recorded its own release. -/
def Cx.fenceSeen (c : Cx) (s : State) (scope : Scope) : State :=
  let s := s.acquire (.fibre c.f) scope fun o => decide (o = .fence)
  if c.versioned then s else s.released (s.relOf (.fibre c.f) scope .fence true)

/-- It differs in what the fibre sees and in the releases alone. -/
theorem Cx.fenceSeen_eq (c : Cx) (s : State) (scope : Scope) :
    c.fenceSeen s scope =
      { s with past := shown s.past (.fibre c.f) (s.idsFrom (.fibre c.f) scope fun o => decide (o = .fence))
               rels := (c.fenceSeen s scope).rels } := by
  simp only [Cx.fenceSeen]
  split
  · rfl
  · rw [State.released_eq]; rfl

@[simp] theorem Cx.fenceSeen_mem (c : Cx) (s : State) (scope : Scope) : (c.fenceSeen s scope).mem = s.mem := by rw [c.fenceSeen_eq]
@[simp] theorem Cx.fenceSeen_cmds (c : Cx) (s : State) (scope : Scope) : (c.fenceSeen s scope).cmds = s.cmds := by rw [c.fenceSeen_eq]

/-- Beyond its halves a FENCE.ar holds the fibre's later accesses behind its writes that are still out. -/
theorem Cx.fenceOrder_eq (c : Cx) {s : State} {x : Fibre} (hx : s.fibres.find? c.f = some x) (scope : Scope) :
    c.fenceOrder s scope = (c.fenceSeen s scope).setFib c.f { x with arHeld := s.outNames c.f } := by
  have hout : (c.fenceSeen s scope).outNames c.f = s.outNames c.f := by
    rw [Cx.fenceSeen_eq]; exact State.outNames_congr (fun _ => rfl) rfl rfl rfl c.f
  have hfind : (c.fenceSeen s scope).fibres.find? c.f = some x := by rw [Cx.fenceSeen_eq]; exact hx
  rw [← hout, ← State.modFib_of_find? hfind fun x => { x with arHeld := (c.fenceSeen s scope).outNames c.f }]
  rfl

/-- The state that a FENCE.ar leaves: its fibre has the mark, and waits later for the writes that were out before. -/
theorem Cx.issued_fenceAr_eq {c : Cx} (hfb : c.s.fibres.find? c.f = some c.fb) (scope : Scope) :
    c.issued.fenceOrder (c.issued.acquireRead (c.issued.markRelease scope) scope) scope =
      (c.issued.fenceSeen (c.issued.acquireRead (c.issued.markRelease scope) scope) scope).setFib c.f
        { c.issued.fb with relMark := (c.fb.markedAt scope).relMark, arHeld := c.s.outNames c.f } := by
  have hout : (c.issued.acquireRead (c.issued.markRelease scope) scope).outNames c.f = c.s.outNames c.f :=
    calc (c.issued.acquireRead (c.issued.markRelease scope) scope).outNames c.f
      _ = (c.issued.markRelease scope).outNames c.f := State.outNames_congr (fun _ => rfl) rfl rfl rfl c.f
      _ = c.s.outNames c.f := by
        rw [Cx.issued_markRelease_eq]
        exact State.outNames_setFib hfb (by rw [c.issued_fb_eq]) c.f
  rw [← hout, Cx.issued_markRelease_eq, Cx.fenceOrder_eq _ (Tbl.find?_put_self ..)]
  rfl

end Machine

namespace Claims

open Sys2Proof.Machine

/-- What an acquiring fence waits for at its issue is what stood before it. -/
theorem issued_readOut_iff (c : Cx) (scope : Scope) : c.issued.readOut scope = true ↔ readOut c scope := by
  unfold Cx.readOut
  rw [c.issued_fb_eq]
  simp [readOut]

/-- What an acquiring fence leaves in `t`, with the marks of FENCE.rel and the held writes that its fibre then has. -/
def Acquired (s : State) (c : Cx) (scope : Scope) (marks : List Scope) (held : List Nat) (t : State) : Prop :=
  GoesOn c t 0 [] ∧ t.mem = s.mem ∧ t.cmds = s.cmds ∧
    (∀ r ∈ s.past, (∃ x ∈ c.fb.acqIds, x.1 = scope ∧ r.id ∈ x.2) → ∃ q ∈ t.past, q.id = r.id ∧ .fibre c.f ∈ q.vis) ∧
    FibAt t c.f fun x => x.relMark = marks ∧ x.arHeld = held

/-- An acquiring fence waits while the latest atomic read at its scope is out. -/
theorem issue_wait_of_readOut {s : State} {c : Cx} {scope : Scope} (h : Ready s c []) (hr : readOut c scope) (g : Cx → State) :
    (issue s [] fun c => if c.readOut scope then c.wait .interlock else .ok (g c)) =
      .next (s.setFib c.f { c.fb with st := .interlock }) := by
  obtain ⟨rfl, -⟩ := State.eq_and_find?_of_cx h.cx
  rw [h.issue_eq, if_pos ((issued_readOut_iff c scope).2 hr), Cx.finish_wait_issued]

/-- Else it goes on with its effect done. -/
theorem issue_ok_of_not_readOut {s : State} {c : Cx} {scope : Scope} (h : Ready s c []) (hr : ¬ readOut c scope) (g : Cx → State) :
    (issue s [] fun c => if c.readOut scope then c.wait .interlock else .ok (g c)) = .next (c.finish (.ok (g c.issued))) := by
  rw [h.issue_eq, if_neg (mt (issued_readOut_iff c scope).1 hr)]

/-- FENCE.acq shows its fibre the writes, and changes no mark. -/
theorem acquired_fenceAcq {s : State} {c : Cx} {o : FenceOp} (h : Ready s c []) (hr : ¬ readOut c o.scope) :
    Gives (execFenceAcq o s) (Acquired s c o.scope c.fb.relMark c.fb.arHeld) := by
  obtain ⟨rfl, -⟩ := State.eq_and_find?_of_cx h.cx
  refine ⟨_, issue_ok_of_not_readOut h hr fun c => c.acquireRead c.s o.scope, ?_⟩
  have hx : (c.issued.acquireRead c.issued.s o.scope).fibres.find? c.f = some c.issued.fb := by simp [Cx.acquireRead]
  refine ⟨goesOn_finish_ok hx (sameFlow_issued c), ?_, ?_, fun r hpast hread => ?_, ?_⟩
  · simp [Cx.acquireRead]
  · simp [Cx.acquireRead]
  · rw [Cx.finish_ok_past]
    exact c.issued.visible_acquireRead hpast (by rwa [c.issued_fb_eq])
  · have hfib := fibAt_finish_ok hx
    rwa [c.issued_fb_eq] at hfib

/-- FENCE.rel marks its fibre and does nothing else. -/
theorem execFenceRel_eq {s : State} {c : Cx} (o : FenceOp) (h : Ready s c []) :
    execFenceRel o s = .next (changed c (Fibre.markedAt o.scope)) := by
  rw [execFenceRel, h.issue_eq, Cx.markRelease_eq]
  rfl

/-- FENCE.ar does both, and its fibre's later accesses wait for the writes that are out. -/
theorem acquired_fenceAr {s : State} {c : Cx} {o : FenceOp} (h : Ready s c []) (hr : ¬ readOut c o.scope) :
    Gives (execFenceAr o s) (Acquired s c o.scope (c.fb.markedAt o.scope).relMark (s.outNames c.f)) := by
  obtain ⟨rfl, hfb⟩ := State.eq_and_find?_of_cx h.cx
  refine ⟨_, issue_ok_of_not_readOut h hr fun c => c.fenceOrder (c.acquireRead (c.markRelease o.scope) o.scope) o.scope, ?_⟩
  rw [Cx.issued_fenceAr_eq hfb]
  have hx (u : State) (x : Fibre) : (u.setFib c.f x).fibres.find? c.f = some x := Tbl.find?_put_self ..
  refine ⟨goesOn_finish_ok (hx ..) { sameFlow_issued c with }, ?_, ?_, fun r hpast hread => ?_, fibAt_finish_ok (hx ..)⟩
  · simp [Cx.acquireRead, Cx.issued_markRelease_eq]
  · simp [Cx.acquireRead, Cx.issued_markRelease_eq]
  · rw [Cx.finish_ok_past, State.setFib_past, Cx.fenceSeen_eq]
    have hseen := c.issued.visible_acquireRead (s := c.issued.markRelease o.scope) (scope := o.scope) (r := r)
      (by rwa [Cx.issued_markRelease_eq]) (by rwa [c.issued_fb_eq])
    exact hseen.shown _ _

theorem exec_fenceAcq (o : FenceOp) (s : State) : exec (.fenceAcq o) s = execFenceAcq o s := rfl
theorem exec_fenceRel (o : FenceOp) (s : State) : exec (.fenceRel o) s = execFenceRel o s := rfl
theorem exec_fenceAr (o : FenceOp) (s : State) : exec (.fenceAr o) s = execFenceAr o s := rfl

/-- Settles O29: each fence by what its exec leaves. -/
theorem fences : Obligations.Fences := by
  unfold Obligations.Fences
  intro i s c acq rel scope hform h mark
  unfold fenceForm at hform
  split at hform
  case h_1 o =>
    cases hform
    rw [exec_fenceAcq]
    exact ⟨fun _ hr => issue_wait_of_readOut h hr _, nofun, fun _ hr => acquired_fenceAcq h hr⟩
  case h_2 o =>
    cases hform
    rw [exec_fenceRel]
    exact ⟨nofun, fun _ => execFenceRel_eq o h, nofun⟩
  case h_3 o =>
    cases hform
    rw [exec_fenceAr]
    exact ⟨fun _ hr => issue_wait_of_readOut h hr _, nofun, fun _ hr => acquired_fenceAr h hr⟩
  case h_4 => cases hform

end Claims
end Sys2Proof

/-! SUPPORT. Count of a weir: its closed form and the loop of 05 R124. -/

namespace Sys2Proof
namespace Machine

theorem Weir.armed_iff (x : Weir) : x.armed = true ↔ ¬ (x.expa = 0 ∧ x.expb = 0) := by
  simp only [Weir.armed, Bool.or_eq_true, decide_eq_true_eq]
  omega

/-- The weir after one phase more: what both expectations ask for is taken away. -/
def Weir.completed (x : Weir) : Weir :=
  { x with arr := x.arr - x.expa, bytes := x.bytes - x.expb, phase := (x.phase + 1) % 65536 }

/-- A weir whose expectations are not both met completes no phase. -/
theorem Weir.completes_eq_zero {x : Weir} (h : ¬ (x.expa ≤ x.arr ∧ x.expb ≤ x.bytes)) : x.completes = 0 := by
  simp only [Weir.completes]
  split
  · exact Nat.div_eq_of_lt (by omega)
  · split
    · exact Nat.div_eq_of_lt (by omega)
    · rcases Nat.lt_or_ge x.arr x.expa with ha | ha
      · simp [Nat.div_eq_of_lt ha]
      · simp [Nat.div_eq_of_lt (show x.bytes < x.expb by omega)]

/-- An armed weir whose expectations are both met completes one phase, then those of the weir after it. -/
theorem Weir.completes_eq_succ {x : Weir} (harm : x.armed = true) (h : x.expa ≤ x.arr ∧ x.expb ≤ x.bytes) :
    x.completes = x.completed.completes + 1 := by
  obtain ⟨ha, hb⟩ := h
  rw [Weir.armed_iff] at harm
  simp only [Weir.completes, Weir.completed]
  by_cases hea : x.expa = 0
  · simp only [hea, if_true]
    exact Nat.div_eq_sub_div (by omega) hb
  · by_cases heb : x.expb = 0
    · simp only [hea, heb, if_true, if_false]
      exact Nat.div_eq_sub_div (by omega) ha
    · simp only [hea, heb, if_false]
      rw [Nat.div_eq_sub_div (by omega) ha, Nat.div_eq_sub_div (by omega) hb, Nat.add_min_add_right]

end Machine

namespace Claims
open Sys2Proof.Machine

/-- The weir after `k` phases more. -/
def afterPhases (x : Weir) (k : Nat) : Weir :=
  { x with arr := x.arr - k * x.expa, bytes := x.bytes - k * x.expb, phase := (x.phase + k) % 65536 }

theorem afterPhases_zero {x : Weir} (h : x.phase < 65536) : afterPhases x 0 = x := by
  simp [afterPhases, Nat.mod_eq_of_lt h]

theorem afterPhases_completed (x : Weir) (k : Nat) : afterPhases x.completed k = afterPhases x (k + 1) := by
  simp only [afterPhases, Weir.completed, Weir.mk.injEq, and_true, true_and]
  refine ⟨by omega, ?_, ?_⟩ <;> rw [Nat.succ_mul] <;> omega

/-- With fuel for every arrival and byte the loop of Count runs through all the phases that the closed form counts. -/
theorem phases_eq_afterPhases {x : Weir} (n : Nat) (harm : x.armed = true) (hn : x.arr + x.bytes < n) (hp : x.phase < 65536) :
    phases n x = afterPhases x x.completes := by
  induction n generalizing x with
  | zero => omega
  | succ n ih =>
    simp only [phases]
    by_cases h : x.expa ≤ x.arr ∧ x.expb ≤ x.bytes
    · have hfuel : x.completed.arr + x.completed.bytes < n := by
        rw [Weir.armed_iff] at harm
        simp only [Weir.completed]
        omega
      rw [if_pos h, Weir.completes_eq_succ harm h, ← afterPhases_completed]
      exact ih harm hfuel (Nat.mod_lt _ (by omega))
    · rw [if_neg h, Weir.completes_eq_zero h, afterPhases_zero hp]

theorem count_fst_of_not_armed {x : Weir} (h : x.armed = false) (da db : Nat) (e : Bool) :
    (x.count da db e).1 = x.added da db e := by
  simp [Weir.count, h]

/-- The weir with a count added to it, before it completes a phase. -/
def countAdded (x : Weir) (da db : Nat) (e : Bool) : Weir :=
  { x.added da db e with overrun := x.overrun || x.excess da db }

theorem count_fst_of_armed {x : Weir} (h : x.armed = true) (da db : Nat) (e : Bool) :
    (x.count da db e).1 =
      afterPhases (countAdded x da db e) (countAdded x da db e).completes := by
  simp only [Weir.count, h, Bool.not_true, Bool.false_eq_true, if_false]
  rfl

theorem countOf_of_armed {x : Weir} (h : x.armed = true) (da db : Nat) (e : Bool) :
    countOf x da db e =
      phases ((countAdded x da db e).arr + (countAdded x da db e).bytes + 1) (countAdded x da db e) := by
  simp [countOf, (Weir.armed_iff x).1 h, countAdded, Weir.added, Weir.excess, h]

/-- Settles O26: each phase of the loop is one of those that the closed form counts. -/
theorem weirCount : Obligations.WeirCount := by
  unfold Obligations.WeirCount
  intro x da db e hp
  cases harm : x.armed with
  | false =>
    have hexp : x.expa = 0 ∧ x.expb = 0 := by
      rwa [← Bool.not_eq_true, Weir.armed_iff, Classical.not_not] at harm
    rw [count_fst_of_not_armed harm]
    simp [countOf, hexp, Weir.added]
  | true =>
    rw [count_fst_of_armed harm, countOf_of_armed harm]
    exact (phases_eq_afterPhases (x := countAdded x da db e) _ harm (Nat.lt_succ_self _) hp).symm

end Claims
end Sys2Proof

/-! SUPPORT. What an instruction that writes a register leaves: its fibre, its workgroup, and what it does not touch. -/

namespace Sys2Proof

/-- A put at a listed key keeps the list of keys. -/
theorem Tbl.keys_put_of_find? {α : Type} {t : Tbl α} {k : Nat} {w : α} (h : t.find? k = some w) (v : α) :
    (t.put k v).keys = t.keys := by
  induction t with
  | nil => cases h
  | cons p t ih =>
    obtain ⟨j, u⟩ := p
    simp only [Tbl.find?, Tbl.put] at h ⊢
    by_cases hj : j = k
    · simp [hj, Tbl.keys]
    · by_cases hk : k < j
      · simp [hj, hk] at h
      · rw [if_neg hj, if_neg hk] at h
        rw [if_neg hj, if_neg hk]
        exact congrArg (j :: ·) (ih h)

namespace Machine

/-- The context of the step holds the workgroup of its fibre as the state lists it, and the launch of that. -/
theorem State.find?_wg_of_cx {s : State} {c : Cx} (h : s.cx = some c) :
    s.wgs.find? c.fb.wg = some c.w ∧ s.launchOf c.w = some c.l := by
  unfold State.cx at h
  split at h
  · split at h
    · cases h
    · split at h
      · cases h
      · next hw =>
        split at h
        · cases h
        · next hl => cases h; exact ⟨hw, hl⟩
  · cases h

@[simp] theorem Cx.issued_l (c : Cx) : c.issued.l = c.l := rfl
@[simp] theorem Cx.issued_w (c : Cx) : c.issued.w = c.w := rfl
@[simp] theorem Cx.issued_sreg (c : Cx) (n : BitVec 6) : c.issued.sreg n = c.fb.sreg n.toNat := by
  simp only [Cx.sreg]; rw [c.issued_fb_eq]; rfl
@[simp] theorem Cx.issued_fb_wg (c : Cx) : c.issued.fb.wg = c.fb.wg := by rw [c.issued_fb_eq]

/-! ## Register writes -/

/-- A register write changes the registers alone. -/
theorem Fibre.putReg_eq (x : Fibre) (r : RegRef) (v : WVal) :
    x.putReg r v = { x with s := (x.putReg r v).s, v := (x.putReg r v).v, m := (x.putReg r v).m } := by
  cases r <;> cases v <;> rfl

theorem Fibre.putRegs_cons (x : Fibre) (p : RegRef × WVal) (l : List (RegRef × WVal)) :
    x.putRegs (p :: l) = (x.putReg p.1 p.2).putRegs l := rfl

theorem Fibre.putRegs_eq (x : Fibre) (l : List (RegRef × WVal)) :
    x.putRegs l = { x with s := (x.putRegs l).s, v := (x.putRegs l).v, m := (x.putRegs l).m } := by
  induction l generalizing x with
  | nil => rfl
  | cons p l ih => rw [Fibre.putRegs_cons, ih, Fibre.putReg_eq]

/-- Two fibres have the same registers. -/
def Fibre.SameRegs (x y : Fibre) : Prop := x.s = y.s ∧ x.v = y.v ∧ x.m = y.m

theorem Fibre.SameRegs.putReg {x y : Fibre} (h : x.SameRegs y) (r : RegRef) (v : WVal) :
    (x.putReg r v).SameRegs (y.putReg r v) := by
  obtain ⟨hs, hv, hm⟩ := h
  cases r <;> cases v <;> simp [Fibre.putReg, Fibre.SameRegs, hs, hv, hm]

theorem Fibre.SameRegs.putRegs {x y : Fibre} (h : x.SameRegs y) (l : List (RegRef × WVal)) :
    (x.putRegs l).SameRegs (y.putRegs l) := by
  induction l generalizing x y with
  | nil => exact h
  | cons p l ih => exact ih (h.putReg p.1 p.2)

/-! ## A result written back -/

/-- A result written back changes fibres, and the next fresh name. -/
theorem State.writeBack_eq (s : State) (f look : Nat) (dst : List (RegRef × WVal)) :
    s.writeBack f look dst =
      { s with fibres := (s.writeBack f look dst).fibres, nextId := (s.writeBack f look dst).nextId } := by
  simp only [State.writeBack]
  repeat' split
  all_goals rfl

@[simp] theorem State.writeBack_mem (s : State) (f look : Nat) (dst : List (RegRef × WVal)) :
    (s.writeBack f look dst).mem = s.mem := by rw [s.writeBack_eq]
@[simp] theorem State.writeBack_wgs (s : State) (f look : Nat) (dst : List (RegRef × WVal)) :
    (s.writeBack f look dst).wgs = s.wgs := by rw [s.writeBack_eq]

/-- The fibre after a result of lookahead `look` that is written back under the name `id`. -/
def Fibre.received (look id : Nat) (dst : List (RegRef × WVal)) (x : Fibre) : Fibre :=
  if look = 0 then x.putRegs dst
  else { x with pend := x.pend ++ [{ id, dst, left := 0, st := .ready }], wins := x.wins ++ dst.map fun p => (p.1, look) }

theorem State.writeBack_find? {s : State} {f : Nat} {x : Fibre} (h : s.fibres.find? f = some x) (look : Nat)
    (dst : List (RegRef × WVal)) :
    (s.writeBack f look dst).fibres.find? f = some (x.received look s.nextId dst) := by
  simp only [State.writeBack, Fibre.received, h]
  split <;> simp

/-- A result moves nothing in its fibre but registers, pending results and windows. -/
theorem Fibre.received_eq (look id : Nat) (dst : List (RegRef × WVal)) (x : Fibre) :
    x.received look id dst =
      { x with s := (x.received look id dst).s, v := (x.received look id dst).v, m := (x.received look id dst).m
               pend := (x.received look id dst).pend, wins := (x.received look id dst).wins } := by
  unfold Fibre.received
  split
  · rw [Fibre.putRegs_eq]
  · rfl

/-! ## What the end of an instruction leaves in the workgroups, and in the list of fibres -/

theorem State.keys_modFib (s : State) (f : Nat) (g : Fibre → Fibre) : (s.modFib f g).fibres.keys = s.fibres.keys := by
  unfold State.modFib
  split
  · next h => exact Tbl.keys_put_of_find? h _
  · rfl

/-- A retired stop site counts in its workgroup and changes no other. -/
theorem State.retire_find?_wg {s : State} {w : Nat} {g : Wg} (f : Nat) (a : Word) (h : s.wgs.find? w = some g) :
    ∃ n, (s.retire f a).wgs.find? w = some { g with retired := n } := by
  simp only [State.retire]
  split
  · exact ⟨g.retired, h⟩
  · next fb _ =>
    simp only [State.setFib_wgs]
    split
    · exact ⟨g.retired, h⟩
    · next v hv =>
      by_cases hw : w = fb.wg
      · subst hw
        cases h.symm.trans hv
        exact ⟨g.retired + 1, by simp [State.bumpWg, State.bump]⟩
      · exact ⟨g.retired, by simp [State.bumpWg, State.bump, Tbl.find?_put_of_ne _ _ hw, h]⟩

theorem State.keys_retire (s : State) (f : Nat) (a : Word) : (s.retire f a).fibres.keys = s.fibres.keys := by
  simp only [State.retire]
  split
  · rfl
  · next h =>
    split <;> exact Tbl.keys_put_of_find? h _

/-- The workgroups after an instruction that goes on are those of its effect, but for counts of retired stop sites. -/
theorem Cx.finish_ok_find?_wg {c : Cx} {t : State} {w : Nat} {g : Wg} (h : t.wgs.find? w = some g) :
    ∃ n, (c.finish (.ok t)).wgs.find? w = some { g with retired := n } := by
  have hmod : (t.modFib c.f (Fibre.done c.len)).wgs.find? w = some g := by rwa [State.modFib_eq]
  rw [Cx.finish_ok, Cx.retired]
  split
  · exact State.retire_find?_wg _ _ hmod
  · exact ⟨g.retired, hmod⟩

theorem Cx.keys_finish_ok (c : Cx) (t : State) : (c.finish (.ok t)).fibres.keys = t.fibres.keys := by
  rw [Cx.finish_ok, Cx.retired]
  split
  · rw [State.keys_retire, State.keys_modFib]
  · rw [State.keys_modFib]

/-! ## Precise traps -/

/-- A precise trap leaves nothing of the issue. -/
theorem Cx.finish_issued_trap (c : Cx) (k : Cause) (info : Word) :
    c.finish (c.issued.trap k info) = Claims.trapped c k info (if k = .illegal then c.word else 0) := by
  have herrs : c.issued.fb.errs = c.fb.unsealed.errs := by
    rw [c.issued_fb_eq]
    unfold Fibre.unsealed
    split <;> rfl
  simp only [Cx.finish, Cx.trap, Claims.trapped, herrs, Cx.issued_s, State.setFib_setFib]

end Machine

namespace Claims

open Sys2Proof.Machine

/-- An instruction that traps does nothing else. -/
theorem Ready.issue_trap {s : State} {c : Cx} {ops : List Opnd} {body : Cx → Res} {k : Cause} {info : Word} (h : Ready s c ops)
    (hb : body c.issued = c.issued.trap k info) :
    issue s ops body = .next (trapped c k info (if k = .illegal then c.word else 0)) := by
  rw [h.issue_eq, hb, Cx.finish_issued_trap]

/-- An instruction whose effect keeps the fibre's place, flags, modes, registers and pending results, and which receives
`dst`, goes on so. -/
theorem goesOn_finish_writeBack {c : Cx} {t : State} {x : Fibre} (hx : t.fibres.find? c.f = some x) (h : SameFlow x c.fb)
    (look : Nat) (dst : List (RegRef × WVal)) : GoesOn c (c.finish (.ok (t.writeBack c.f look dst))) look dst := by
  obtain ⟨sp, q, hfind⟩ := Cx.finish_ok_find? (State.writeBack_find? hx look dst)
  have hpc : ({ x.received look t.nextId dst with await := .none } : Fibre).pc = c.fb.pc := by rw [Fibre.received_eq]; exact h.pc
  have hloops : ({ x.received look t.nextId dst with await := .none } : Fibre).loops = c.fb.loops := by
    rw [Fibre.received_eq]; exact h.loops
  obtain ⟨hpc, hloops⟩ := Fibre.advance_congr c.len hpc hloops
  refine ⟨_, hfind, hpc, hloops, ?_⟩
  rw [Fibre.done, Fibre.advance_eq]
  have hregs : (x.putRegs dst).SameRegs (c.fb.putRegs dst) := Fibre.SameRegs.putRegs ⟨h.s, h.v, h.m⟩ dst
  by_cases hl : look = 0
  · rw [Fibre.received, if_pos hl, Fibre.putRegs_eq]
    exact ⟨rfl, h.flags, h.ftz, h.srs, fun _ => ⟨hregs.1, hregs.2.1, hregs.2.2, h.pend⟩, fun hn => absurd hl hn⟩
  · rw [Fibre.received, if_neg hl]
    exact ⟨rfl, h.flags, h.ftz, h.srs, fun hn => absurd hn hl, fun _ => ⟨h.s, h.v, h.m, t.nextId, congrArg (· ++ _) h.pend⟩⟩

/-- What an instruction leaves in a workgroup: all that its effect left there but the count of retired stop sites. -/
theorem wgAt_finish_ok {c : Cx} {t : State} {w : Nat} {g : Wg} {P : Wg → Prop} (h : t.wgs.find? w = some g)
    (hP : ∀ n, P { g with retired := n }) : WgAt (c.finish (.ok t)) w P := by
  obtain ⟨n, hn⟩ := Cx.finish_ok_find?_wg (c := c) h
  exact ⟨_, hn, hP n⟩

end Claims
end Sys2Proof

/-! SUPPORT. WEIRBOUND, WINIT and the queries of a weir (12 R317, R318, R323). -/

namespace Sys2Proof
namespace Machine

/-- A weir beyond NW traps. -/
theorem Cx.issued_withWeir_of_le {c : Cx} {i : BitVec 6} (h : c.l.kernel.nw ≤ i.toNat) (g : Nat → Res) :
    c.issued.withWeir i g = c.issued.trap .weirbound (i.setWidth 64) := if_pos h

theorem Cx.issued_withWeir_of_lt {c : Cx} {i : BitVec 6} (h : i.toNat < c.l.kernel.nw) (g : Nat → Res) :
    c.issued.withWeir i g = g i.toNat := if_neg (Nat.not_le.2 h)

theorem State.modWg_of_find? {s : State} {w : Nat} {x : Wg} (h : s.wgs.find? w = some x) (g : Wg → Wg) :
    s.modWg w g = s.setWg w (g x) := by
  simp [State.modWg, h]

/-- The bits of a word from bit `k` up are zero just where it lies below 2^k. -/
theorem extractLsb'_ne_zero_iff {k n : Nat} (b : Word) (hk : k + n = 64) : b.extractLsb' k n ≠ 0 ↔ 2 ^ k ≤ b.toNat := by
  have hb : b.toNat < 2 ^ k * 2 ^ n := by rw [← Nat.pow_add, hk]; exact b.isLt
  have hval : (b.extractLsb' k n).toNat = b.toNat / 2 ^ k := by
    rw [BitVec.extractLsb'_toNat, Nat.shiftRight_eq_div_pow, Nat.mod_eq_of_lt (Nat.div_lt_of_lt_mul hb)]
  rw [Ne, ← BitVec.toNat_inj, hval, BitVec.ofNat_eq_ofNat, BitVec.toNat_ofNat, Nat.zero_mod, Nat.div_eq_zero_iff]
  simp

/-- The top bit of a word below 2^(k + 1). -/
theorem getLsbD_eq_decide {k : Nat} {b : Word} (h : b.toNat < 2 ^ (k + 1)) : b.getLsbD k = decide (2 ^ k ≤ b.toNat) := by
  rw [← BitVec.testBit_toNat]
  by_cases hk : 2 ^ k ≤ b.toNat
  · rw [decide_eq_true hk, Nat.testBit_of_two_pow_le_and_two_pow_add_one_gt hk h]
  · rw [decide_eq_false hk, Nat.testBit_lt_two_pow (by omega)]

/-- Bits put side by side, as a number. -/
theorem toNat_append_eq_add {m n : Nat} (x : BitVec m) (y : BitVec n) : (x ++ y).toNat = x.toNat * 2 ^ n + y.toNat := by
  rw [BitVec.toNat_append, ← Nat.shiftLeft_add_eq_or_of_lt y.isLt, Nat.shiftLeft_eq]

theorem bit_le_one (b : Bool) : bit b ≤ 1 := by cases b <;> decide

/-- The image of a weir as a number: its fields from the top down (05 R123). -/
theorem Weir.toNat_image (x : Weir) :
    x.image.toNat = ((((x.phase % 2 ^ 16 * 2 ^ 16 + x.expa % 2 ^ 16) * 2 ^ 16 + x.arr % 2 ^ 16) * 2 ^ 32 + x.expb % 2 ^ 32) * 2 ^ 32
      + x.bytes % 2 ^ 32) * 2 ^ 16 + (16 * bit (!x.wakes.isEmpty) + 8 * bit x.err + 4 * bit x.overrun + 2 * bit x.ovtrap) := by
  have hw := bit_le_one (!x.wakes.isEmpty)
  have he := bit_le_one x.err
  have ho := bit_le_one x.overrun
  have ht := bit_le_one x.ovtrap
  simp only [Weir.image, toNat_append_eq_add, BitVec.toNat_ofNat]
  congr 1
  omega

end Machine

namespace Claims

open Sys2Proof.Machine

/-- What WINIT makes of the fields of a weir is what its settings say (R318). -/
theorem armed_fields_eq_armedBy (x : Weir) {b : Word} (h : b.toNat < 2 ^ 49) :
    ({ x with
        expa := (b.extractLsb' 0 16).toNat, expb := (b.extractLsb' 16 32).toNat, ovtrap := b.getLsbD 48
        arr := 0, bytes := 0, err := false, overrun := false } : Weir) = armedBy x b.toNat := by
  rw [getLsbD_eq_decide h]
  simp [armedBy, Nat.shiftRight_eq_div_pow]

/-- The low half of a weir's image. -/
theorem image_low_eq (x : Weir) : x.image.extractLsb' 0 64 = BitVec.ofNat 64 (weirLow x) := by
  apply BitVec.eq_of_toNat_eq
  rw [BitVec.extractLsb'_toNat, x.toNat_image, BitVec.toNat_ofNat, Nat.shiftRight_zero, weirLow]
  have hw := bit_le_one (!x.wakes.isEmpty)
  have he := bit_le_one x.err
  have ho := bit_le_one x.overrun
  have ht := bit_le_one x.ovtrap
  omega

/-- The high half of a weir's image. -/
theorem image_high_eq (x : Weir) : x.image.extractLsb' 64 64 = BitVec.ofNat 64 (weirHigh x) := by
  apply BitVec.eq_of_toNat_eq
  rw [BitVec.extractLsb'_toNat, x.toNat_image, BitVec.toNat_ofNat, Nat.shiftRight_eq_div_pow, weirHigh]
  have hw := bit_le_one (!x.wakes.isEmpty)
  have he := bit_le_one x.err
  have ho := bit_le_one x.overrun
  have ht := bit_le_one x.ovtrap
  omega

/-! ## The forms that name a weir -/

theorem exec_winit (o : WinitOp) (s : State) : exec (.winit o) s = execWinit o s := rfl
theorem exec_warr (o : WarrOp) (s : State) : exec (.warr o) s = execWarr o s := rfl
theorem exec_warrLanes (o : WarrOp) (s : State) : exec (.warrLanes o) s = execWarrLanes o s := rfl
theorem exec_wwait (o : WwaitOp) (s : State) : exec (.wwait o) s = execWwait o s := rfl
theorem exec_wqryLo (o : WqryOp) (s : State) : exec (.wqryLo o) s = execWqryLo o s := rfl
theorem exec_wqryHi (o : WqryOp) (s : State) : exec (.wqryHi o) s = execWqryHi o s := rfl
theorem exec_wqryHandle (o : WqryOp) (s : State) : exec (.wqryHandle o) s = execWqryHandle o s := rfl

/-- A form that begins with the check of its weir traps where that is at or beyond NW. -/
theorem Ready.issue_weirbound {s : State} {c : Cx} {ops : List Opnd} {i : BitVec 6} {body : Cx → Res} (h : Ready s c ops)
    (hnw : c.l.kernel.nw ≤ i.toNat) (hb : ∃ g, body c.issued = c.issued.withWeir i g) :
    issue s ops body = .next (trapped c .weirbound (i.setWidth 64) 0) := by
  obtain ⟨g, hb⟩ := hb
  exact h.issue_trap (hb.trans (Cx.issued_withWeir_of_le hnw g))

/-- R317: the forms that name a weir trap WEIRBOUND where it is at or beyond NW. -/
theorem exec_weirbound {i : Instr} {s : State} {c : Cx} {ops : List Opnd} {w : BitVec 6} (hform : weirNamed i = some (ops, w))
    (h : Ready s c ops) (hnw : c.l.kernel.nw ≤ w.toNat) :
    exec i s = .next (trapped c .weirbound (w.setWidth 64) 0) := by
  unfold weirNamed at hform
  split at hform
  case h_1 o => cases hform; rw [exec_winit]; exact h.issue_weirbound hnw ⟨_, rfl⟩
  case h_2 o => cases hform; rw [exec_warr]; exact h.issue_weirbound hnw ⟨_, rfl⟩
  case h_3 o => cases hform; rw [exec_warrLanes]; exact h.issue_weirbound hnw ⟨_, rfl⟩
  case h_4 o => cases hform; rw [exec_wwait]; exact h.issue_weirbound hnw ⟨_, rfl⟩
  case h_5 o => cases hform; rw [exec_wqryLo]; exact h.issue_weirbound hnw ⟨_, rfl⟩
  case h_6 o => cases hform; rw [exec_wqryHi]; exact h.issue_weirbound hnw ⟨_, rfl⟩
  case h_7 o => cases hform; rw [exec_wqryHandle]; exact h.issue_weirbound hnw ⟨_, rfl⟩
  case h_8 => cases hform

/-- A form that writes one scalar register and changes nothing else. -/
theorem Ready.issue_writeS {s : State} {c : Cx} {ops : List Opnd} {body : Cx → Res} (h : Ready s c ops) (look : BitVec 4)
    (d : BitVec 6) (x : Word) (hb : body c.issued = c.issued.writeS look d x) :
    issue s ops body = .next (wrote c look.toNat [(.s d.toNat, .s x)]) := by
  rw [h.issue_eq, hb]
  simp [Cx.writeS, Cx.write, wrote, Cx.setF]

/-- R323: the queries of a weir below NW. -/
theorem exec_query {i : Instr} {s : State} {c : Cx} {o : WqryOp} {v : Word} (hform : queryForm c i = some (o, v))
    (h : Ready s c [sDst o.d]) (hnw : o.w.toNat < c.l.kernel.nw) :
    exec i s = .next (wrote c o.look.toNat [(.s o.d.toNat, .s v)]) := by
  unfold queryForm at hform
  split at hform
  case h_1 o =>
    cases hform
    rw [exec_wqryLo]
    exact h.issue_writeS _ _ _ ((Cx.issued_withWeir_of_lt hnw _).trans (by rw [Cx.issued_w, image_low_eq]))
  case h_2 o =>
    cases hform
    rw [exec_wqryHi]
    exact h.issue_writeS _ _ _ ((Cx.issued_withWeir_of_lt hnw _).trans (by rw [Cx.issued_w, image_high_eq]))
  case h_3 o =>
    cases hform
    rw [exec_wqryHandle]
    exact h.issue_writeS _ _ _ (Cx.issued_withWeir_of_lt hnw _)
  case h_4 => cases hform

/-! ## WINIT -/

/-- R318: WINIT traps on reserved bits of its settings. -/
theorem exec_winit_reserved {o : WinitOp} {s : State} {c : Cx} (h : Ready s c [sSrc o.b]) (hnw : o.w.toNat < c.l.kernel.nw)
    (hb : 2 ^ 49 ≤ (c.fb.sreg o.b.toNat).toNat) : exec (.winit o) s = .next (trapped c .illegal 0 c.word) := by
  rw [exec_winit]
  refine h.issue_trap ((Cx.issued_withWeir_of_lt hnw _).trans ?_)
  rw [Cx.issued_sreg]
  exact if_pos ((extractLsb'_ne_zero_iff _ rfl).2 hb)

/-- At a WINIT the arrivals of the phase that was going on are discarded: no agent acquires from them. -/
def discarded (c : Cx) (o : WinitOp) : State :=
  { c.issued.s with rels := c.issued.s.rels.filter fun r => r.live || decide (r.obj ≠ RelObj.weir c.fb.wg o.w.toNat) }

/-- The workgroup after a WINIT. -/
def winited (c : Cx) (o : WinitOp) : Wg :=
  { c.w with weirs := c.w.weirs.set o.w.toNat (armedBy (c.w.weir o.w.toNat) (c.fb.sreg o.b.toNat).toNat) }

theorem exec_winit_eq {o : WinitOp} {s : State} {c : Cx} (h : Ready s c [sSrc o.b]) (hnw : o.w.toNat < c.l.kernel.nw)
    (hb : (c.fb.sreg o.b.toNat).toNat < 2 ^ 49) :
    exec (.winit o) s = .next (c.finish (.ok ((discarded c o).setWg c.fb.wg (winited c o)))) := by
  obtain ⟨rfl, -⟩ := State.eq_and_find?_of_cx h.cx
  obtain ⟨hw, -⟩ := State.find?_wg_of_cx h.cx
  rw [exec_winit, execWinit, h.issue_eq, Cx.issued_withWeir_of_lt hnw, Cx.issued_sreg,
    if_neg (mt (extractLsb'_ne_zero_iff _ rfl).1 (Nat.not_le.2 hb)), Cx.issued_fb_wg, winited, ← armed_fields_eq_armedBy _ hb]
  exact congrArg (fun t => Host.Outcome.next (c.finish (.ok t))) (State.modWg_of_find? (s := discarded c o) hw _)

/-- Settles O30: the check of the weir, then WINIT and the queries by what their exec leaves. -/
theorem weirRegisters : Obligations.WeirRegisters := by
  unfold Obligations.WeirRegisters
  refine ⟨fun i s c ops w hform h hnw => exec_weirbound hform h hnw, fun o s c h hnw => ⟨exec_winit_reserved h hnw, fun hb => ?_⟩,
    fun i s c o v hform h hnw => exec_query hform h hnw⟩
  obtain ⟨rfl, hfb⟩ := State.eq_and_find?_of_cx h.cx
  refine ⟨_, exec_winit_eq h hnw hb, ?_, by simp [discarded], ?_, ?_⟩
  · exact goesOn_finish_ok (x := c.issued.fb) (Tbl.find?_put_self ..) (sameFlow_issued c)
  · exact (Cx.keys_finish_ok c _).trans (Tbl.keys_put_of_find? hfb _)
  · exact wgAt_finish_ok (Tbl.find?_put_self ..) fun _ => ⟨rfl, rfl⟩

end Claims
end Sys2Proof

/-! SUPPORT. WWAIT (12 R321, R322). -/

namespace Sys2Proof
namespace Machine

/-- An acquire changes what its viewer sees of the past alone. -/
theorem State.acquire_eq (s : State) (v : Viewer) (sc : Scope) (sel : RelObj → Bool) :
    s.acquire v sc sel = { s with past := (s.acquire v sc sel).past } := rfl

theorem State.foldl_acquire_eq (s : State) (v : Viewer) (l : List LockSlot) :
    l.foldl (fun s x => s.acquire v x.scope fun o => decide (o = .lock x.line)) s =
      { s with past := (l.foldl (fun s x => s.acquire v x.scope fun o => decide (o = .lock x.line)) s).past } := by
  induction l generalizing s with
  | nil => rfl
  | cons x l ih => rw [List.foldl_cons, ih, State.acquire_eq]

/-- So does a completed WWAIT by what it acquires. -/
theorem State.acquireWait_eq (s : State) (f : Nat) (fb : Fibre) (w : WaitRec) (phase : Nat) :
    s.acquireWait f fb w phase = { s with past := (s.acquireWait f fb w phase).past } := by
  unfold State.acquireWait
  rw [State.foldl_acquire_eq, State.acquire_eq]

@[simp] theorem State.acquireWait_mem (s : State) (f : Nat) (fb : Fibre) (w : WaitRec) (phase : Nat) :
    (s.acquireWait f fb w phase).mem = s.mem := by rw [State.acquireWait_eq]
@[simp] theorem State.acquireWait_wgs (s : State) (f : Nat) (fb : Fibre) (w : WaitRec) (phase : Nat) :
    (s.acquireWait f fb w phase).wgs = s.wgs := by rw [State.acquireWait_eq]
@[simp] theorem State.acquireWait_fibres (s : State) (f : Nat) (fb : Fibre) (w : WaitRec) (phase : Nat) :
    (s.acquireWait f fb w phase).fibres = s.fibres := by rw [State.acquireWait_eq]

@[simp] theorem Cx.retired_mem (c : Cx) (s : State) : (c.retired s).mem = s.mem := by rw [Cx.retired_eq]
@[simp] theorem State.modFib_mem (s : State) (f : Nat) (g : Fibre → Fibre) : (s.modFib f g).mem = s.mem := by rw [State.modFib_eq]
@[simp] theorem State.modFib_wgs (s : State) (f : Nat) (g : Fibre → Fibre) : (s.modFib f g).wgs = s.wgs := by rw [State.modFib_eq]

/-- The workgroups after a retired stop site depend on those before it and on the fibre's own workgroup. -/
theorem State.retire_wgs_congr {s t : State} {f : Nat} {x y : Fibre} (a : Word) (hs : s.fibres.find? f = some x)
    (ht : t.fibres.find? f = some y) (hxy : x.wg = y.wg) (hwgs : s.wgs = t.wgs) : (s.retire f a).wgs = (t.retire f a).wgs := by
  simp only [State.retire, hs, ht, State.setFib_wgs, hxy, hwgs]
  split <;> simp [State.bumpWg, State.bump, hwgs]

/-- The workgroups after an instruction that goes on depend on those of its effect and on the fibre's own workgroup. -/
theorem Cx.finish_ok_wgs_congr {c : Cx} {s t : State} {x y : Fibre} (hs : s.fibres.find? c.f = some x)
    (ht : t.fibres.find? c.f = some y) (hxy : x.wg = y.wg) (hwgs : s.wgs = t.wgs) :
    (c.finish (.ok s)).wgs = (c.finish (.ok t)).wgs := by
  have hdone (z : Fibre) : (z.done c.len).wg = z.wg := by rw [Fibre.done, Fibre.advance_eq]
  rw [Cx.finish_ok, Cx.finish_ok, Cx.retired, Cx.retired, State.modFib_of_find? hs, State.modFib_of_find? ht]
  split
  · exact State.retire_wgs_congr _ (Tbl.find?_put_self ..) (Tbl.find?_put_self ..) (by rw [hdone, hdone, hxy]) hwgs
  · exact hwgs

/-- A retired stop site leaves the fibre of an instruction that does not go on as its effect left it, but for the site's
own bookkeeping. -/
theorem Cx.fibAt_finish_stay {c : Cx} {t : State} {x : Fibre} {P : Fibre → Prop} (h : t.fibres.find? c.f = some x)
    (hP : ∀ sp q, P { x with lastSp := sp, stepReq := q }) : Claims.FibAt (c.finish (.stay t)) c.f P := by
  obtain ⟨sp, q, hfind⟩ := Cx.retired_find? h
  exact ⟨_, hfind, hP sp q⟩

end Machine

namespace Claims

open Sys2Proof.Machine

theorem reached_iff (phase p : Nat) : reached phase p = true ↔ hasReached phase p := decide_eq_true_iff

/-- The wait that a WWAIT describes. -/
def waitOf (c : Cx) (o : WwaitOp) : WaitRec :=
  { d := o.d.toNat, look := o.look.toNat, weir := o.w.toNat, target := (c.fb.sreg o.a.toNat).toNat % 65536, scope := o.scope
    deadline := if (c.fb.sreg o.b.toNat).toNat = 0 then none
      else some (c.s.clk c.w.die + (c.fb.sreg o.b.toNat).toNat * 256) }

/-- The result of a WWAIT that does not time out (R322). -/
theorem wwaitResult_false (x : Weir) (phase : Nat) :
    wwaitResult x phase false = BitVec.ofNat 64 (phase * 65536 + bit x.err * 2) := by
  rw [wwaitResult, show bit false = 0 from rfl, Nat.add_zero]

/-- R321: WWAIT traps on reserved bits of its deadline. -/
theorem exec_wwait_reserved {o : WwaitOp} {s : State} {c : Cx} (h : Ready s c [sDst o.d, sSrc o.a, sSrc o.b])
    (hnw : o.w.toNat < c.l.kernel.nw) (hb : 2 ^ 32 ≤ (c.fb.sreg o.b.toNat).toNat) :
    exec (.wwait o) s = .next (trapped c .illegal 0 c.word) := by
  rw [exec_wwait]
  refine h.issue_trap ((Cx.issued_withWeir_of_lt hnw _).trans ?_)
  rw [Cx.issued_sreg, Cx.issued_sreg]
  exact if_pos ((extractLsb'_ne_zero_iff _ rfl).2 hb)

/-- What a WWAIT that completes leaves of what it waited for: it acquires, and takes the grants of the phase it finds. -/
def waitDone (c : Cx) (o : WwaitOp) : State :=
  (c.issued.s.acquireWait c.f c.issued.fb (waitOf c o) (c.w.weir o.w.toNat).phase).modFib c.f fun x =>
    { x with slots := takeGrants x.slots o.w.toNat (c.w.weir o.w.toNat).phase }

theorem find?_waitDone (c : Cx) (o : WwaitOp) : (waitDone c o).fibres.find? c.f =
    some { c.issued.fb with slots := takeGrants c.issued.fb.slots o.w.toNat (c.w.weir o.w.toNat).phase } := by
  rw [waitDone, State.modFib_of_find? (x := c.issued.fb) (by simp)]
  exact Tbl.find?_put_self ..

/-- What a WWAIT leaves that has to wait. -/
def waitBegun (c : Cx) (o : WwaitOp) : State :=
  c.issued.setF fun x => { x with st := .waiting, await := .weir (waitOf c o) }

/-- WWAIT completes at once where its phase is reached, and waits where it is not. -/
theorem exec_wwait_eq {o : WwaitOp} {s : State} {c : Cx} (h : Ready s c [sDst o.d, sSrc o.a, sSrc o.b])
    (hnw : o.w.toNat < c.l.kernel.nw) (hb : (c.fb.sreg o.b.toNat).toNat < 2 ^ 32) :
    exec (.wwait o) s = .next (c.finish
      (if reached (c.w.weir o.w.toNat).phase ((c.fb.sreg o.a.toNat).toNat % 65536) then
        .ok ((waitDone c o).writeBack c.f o.look.toNat
          [(.s o.d.toNat, .s (wwaitResult (c.w.weir o.w.toNat) (c.w.weir o.w.toNat).phase false))])
      else .stay (waitBegun c o))) := by
  rw [exec_wwait, execWwait, h.issue_eq, Cx.issued_withWeir_of_lt hnw, Cx.issued_sreg, Cx.issued_sreg,
    if_neg (mt (extractLsb'_ne_zero_iff _ rfl).1 (Nat.not_le.2 hb))]
  rfl

/-- Settles O32: WWAIT by the phase that it finds. -/
theorem weirWaits : Obligations.WeirWaits := by
  unfold Obligations.WeirWaits
  intro o s c h hnw b p x
  obtain ⟨rfl, -⟩ := State.eq_and_find?_of_cx h.cx
  refine ⟨exec_wwait_reserved h hnw, fun hb hr => ⟨_, exec_wwait_eq h hnw hb, ?_⟩, fun hb hr => ⟨_, exec_wwait_eq h hnw hb, ?_⟩⟩
  · rw [if_pos ((reached_iff _ _).2 hr), wwaitResult_false]
    have hwb := State.writeBack_find? (find?_waitDone c o)
    refine ⟨goesOn_finish_writeBack (find?_waitDone c o) { sameFlow_issued c with } _ _, by simp [waitDone], ?_⟩
    refine congrArg (Tbl.find? · _) (Cx.finish_ok_wgs_congr (hwb ..) (y := c.issued.fb) (by simp [Cx.setF]) ?_ ?_)
    · rw [Fibre.received_eq]
    · simp [waitDone, Cx.setF]
  · rw [if_neg (mt (reached_iff _ _).1 hr)]
    refine ⟨by simp [Cx.finish, waitBegun, Cx.setF], Cx.fibAt_finish_stay (Tbl.find?_put_self ..) fun _ _ => ?_⟩
    rw [c.issued_fb_eq]
    exact ⟨rfl, rfl, rfl, rfl, rfl⟩

end Claims
end Sys2Proof

/-! SUPPORT. Flume batches and the stages of the copy schedule (05 R133, 13 R340). -/

namespace Sys2Proof
namespace Machine

/-- The list of sealed batches depends on the commands and on the fibre's batch number alone. -/
theorem State.sealed_congr {s t : State} {x y : Fibre} (f : Nat) (hc : s.cmds = t.cmds) (hb : x.batch = y.batch) :
    s.sealed f x = t.sealed f y := by
  simp only [State.sealed, State.cmdsOf, hc, hb]

/-- A batch is listed once. -/
theorem nodup_foldr_insert (l : List Nat) : (l.foldr (fun b l => if l.contains b then l else b :: l) []).Nodup := by
  induction l with
  | nil => exact List.nodup_nil
  | cons b l ih =>
    rw [List.foldr_cons]
    split
    · exact ih
    · next h => exact List.nodup_cons.2 ⟨by simpa using h, ih⟩

theorem State.nodup_sealed (s : State) (f : Nat) (x : Fibre) : (s.sealed f x).Nodup := nodup_foldr_insert _

/-- Of units each listed once, some unit is not among the newest `n` just where there are more than `n`. -/
theorem any_not_contains_drop {l : List Nat} (hl : l.Nodup) (n : Nat) :
    (l.any fun u => !(l.drop (l.length - n)).contains u) = decide (n < l.length) := by
  by_cases hn : n < l.length
  · rw [decide_eq_true hn]
    cases l with
    | nil => exact absurd hn (Nat.not_lt_zero n)
    | cons u l =>
      refine List.any_eq_true.2 ⟨u, List.mem_cons_self, ?_⟩
      have hold : u ∉ (u :: l).drop ((u :: l).length - n) := by
        rw [List.length_cons, Nat.succ_sub (Nat.le_of_lt_succ hn), List.drop_succ_cons]
        exact fun hmem => (List.nodup_cons.1 hl).1 (List.mem_of_mem_drop hmem)
      simpa only [Bool.not_eq_true', List.contains_eq_mem, decide_eq_false_iff_not] using hold
  · rw [decide_eq_false hn, Nat.sub_eq_zero_of_le (by omega)]
    simp

/-- The issue itself changes no command and no batch of its fibre. -/
@[simp] theorem Cx.sealed_issued (c : Cx) : c.issued.s.sealed c.f c.issued.fb = c.s.sealed c.f c.fb :=
  State.sealed_congr _ rfl (by rw [c.issued_fb_eq])

@[simp] theorem Cx.issued_fb_await (c : Cx) : c.issued.fb.await = c.fb.await := by rw [c.issued_fb_eq]
@[simp] theorem Cx.issued_fb_openN (c : Cx) : c.issued.fb.openN = c.fb.openN := by rw [c.issued_fb_eq]
@[simp] theorem Cx.issued_fb_batch (c : Cx) : c.issued.fb.batch = c.fb.batch := by rw [c.issued_fb_eq]
@[simp] theorem Cx.issued_fb_errs (c : Cx) : c.issued.fb.errs = c.fb.errs := by rw [c.issued_fb_eq]

/-! ## Sealing (R133) -/

theorem Cx.issued_seal_of_empty {c : Cx} (h : c.fb.openN = 0) : c.issued.seal = .done c.issued.s none := by
  simp [Cx.seal, h]

/-- The fibre with its open batch sealed. -/
def Fibre.sealedOpen (x : Fibre) : Fibre := { x with batch := x.batch + 1, openN := 0 }

theorem Cx.issued_seal_of_room {c : Cx} (ha : c.fb.await = .none) (h : c.fb.openN ≠ 0) (hroom : c.s.oc c.f c.fb .ocf < 63) :
    c.issued.seal = .done (c.issued.setF Fibre.sealedOpen) (some (c.fb.batch, c.fb.openN)) := by
  have hlen : ¬ 63 ≤ (c.s.sealed c.f c.fb).length := Nat.not_le.2 hroom
  simp only [Cx.seal, Cx.issued_f, Cx.sealed_issued, Cx.issued_fb_await, Cx.issued_fb_openN, Cx.issued_fb_batch, ha, if_neg h,
    if_neg hlen]
  rfl

theorem Cx.issued_seal_of_full {c : Cx} {b : Nat} (ha : c.fb.await = .none) (h : c.fb.openN ≠ 0)
    (hfull : 63 ≤ c.s.oc c.f c.fb .ocf) (hb : (c.s.sealed c.f c.fb).head? = some b) : c.issued.seal = .wait b := by
  have hlen : 63 ≤ (c.s.sealed c.f c.fb).length := hfull
  simp only [Cx.seal, Cx.issued_f, Cx.sealed_issued, Cx.issued_fb_await, Cx.issued_fb_openN, ha, if_neg h, if_pos hlen, hb]

/-! ## Waiting for a counter (R324, R325) -/

/-- The units that a wait for all but the `n` newest of a counter does not wait for. -/
def State.newest (s : State) (f : Nat) (x : Fibre) (k : Ctr) (n : Nat) : List Nat :=
  (s.counted f x k).drop ((s.counted f x k).length - n)

/-- A wait for all but the `n` newest goes on where there are no more than `n` and no error to report. -/
theorem Cx.issued_waitOc_of_le {c : Cx} {s : State} {x : Fibre} {k : Ctr} {n : Nat} (undo : Option (Nat × Nat))
    (ha : c.fb.await = .none) (hx : s.fibres.find? c.f = some x) (hn : (s.counted c.f x k).length ≤ n)
    (herr : ∀ e ∈ x.errs, e.ctr ≠ k) : c.issued.waitOc s k n undo = .ok (s.ocDone c.f x k (s.newest c.f x k n)) := by
  have hall : ((s.counted c.f x k).any fun u => !(s.newest c.f x k n).contains u) = false := by
    rw [State.newest, Nat.sub_eq_zero_of_le hn]
    simp
  have hdue : (x.errs.filter fun e => x.ocCovers k (s.newest c.f x k n) e.ctr e.unit) = [] :=
    List.filter_eq_nil_iff.2 fun e he => by simp [Fibre.ocCovers, herr e he]
  simp only [State.newest] at hall hdue ⊢
  simp only [Cx.waitOc, Cx.issued_f, hx, Cx.issued_fb_await, ha, hall, hdue, Bool.false_eq_true, if_false]
  rfl

/-- And waits where there are more, with the batches of its fibre as they then stand. -/
theorem Cx.issued_waitOc_of_lt {c : Cx} {s : State} {x : Fibre} {k : Ctr} {n : Nat} (undo : Option (Nat × Nat))
    (ha : c.fb.await = .none) (hx : s.fibres.find? c.f = some x) (hnd : (s.counted c.f x k).Nodup)
    (hn : n < (s.counted c.f x k).length) : c.issued.waitOc s k n undo =
      .part s (fun b => { b with await := .oc (s.newest c.f x k n) undo, batch := x.batch, openN := x.openN }) .interlock := by
  have hsome := any_not_contains_drop hnd n
  rw [decide_eq_true hn] at hsome
  simp only [Cx.waitOc, Cx.issued_f, hx, Cx.issued_fb_await, ha, hsome, if_true]
  rfl

/-- A wait that returns changes what its fibre sees of the past, and the list of its completed commands. -/
theorem State.ocDone_eq (s : State) (f : Nat) (x : Fibre) (k : Ctr) (ids : List Nat) :
    s.ocDone f x k ids = { s with past := (s.ocDone f x k ids).past, fibres := (s.ocDone f x k ids).fibres } := by
  simp only [State.ocDone]
  split
  · rw [State.modFib_eq]; rfl
  · rfl

@[simp] theorem State.ocDone_mem (s : State) (f : Nat) (x : Fibre) (k : Ctr) (ids : List Nat) :
    (s.ocDone f x k ids).mem = s.mem := by rw [State.ocDone_eq]
@[simp] theorem State.ocDone_cmds (s : State) (f : Nat) (x : Fibre) (k : Ctr) (ids : List Nat) :
    (s.ocDone f x k ids).cmds = s.cmds := by rw [State.ocDone_eq]

theorem State.ocDone_find? {s : State} {f : Nat} {x : Fibre} (h : s.fibres.find? f = some x) (k : Ctr) (ids : List Nat) :
    ∃ l, (s.ocDone f x k ids).fibres.find? f = some { x with finished := l } := by
  simp only [State.ocDone]
  split
  · rw [State.modFib_of_find? (s := s.adopt f _) (x := x) h]
    exact ⟨_, Tbl.find?_put_self ..⟩
  · exact ⟨x.finished, h⟩

/-- A wait before which part of the effect is done leaves its fibre in the state of the wait. -/
theorem Cx.finish_part (c : Cx) (s : State) (g : Fibre → Fibre) (st : FibreState) :
    c.finish (.part s g st) = s.setFib c.f { g c.fb with st } := rfl

end Machine

namespace Claims

open Sys2Proof.Machine

theorem exec_flseal (s : State) : exec .flseal s = execFlseal s := rfl
theorem exec_flwait (o : ImmOp) (s : State) : exec (.flwait o) s = execFlwait o s := rfl
theorem exec_flstage (s : State) : exec .flstage s = execFlstage s := rfl

/-- An instruction that changes nothing beyond its issue. -/
theorem changed_id (c : Cx) : changed c id = c.finish (.ok c.issued.s) := by simp [changed, Cx.setF]

/-- FLSEAL by what sealing comes to. -/
theorem exec_flseal_of_done {s : State} {c : Cx} {t : State} {undo : Option (Nat × Nat)} (h : Ready s c [])
    (hs : c.issued.seal = .done t undo) : exec .flseal s = .next (c.finish (.ok t)) := by
  rw [exec_flseal, execFlseal, h.issue_eq, hs]

theorem exec_flseal_of_wait {s : State} {c : Cx} {b : Nat} (h : Ready s c []) (hs : c.issued.seal = .wait b) :
    exec .flseal s = .next (s.setFib c.f { c.fb with st := .interlock, await := .seal b }) := by
  obtain ⟨rfl, -⟩ := State.eq_and_find?_of_cx h.cx
  rw [exec_flseal, execFlseal, h.issue_eq, hs]
  simp [Cx.sealWait, Cx.finish_part]

/-- The fibre of a FLWAIT as its wait begins: the open batch sealed where it holds a copy. -/
def flwaitFib (c : Cx) : Fibre := if c.fb.openN = 0 then c.issued.fb else c.issued.fb.sealedOpen

/-- FLWAIT, where it need not wait to seal, waits for batches in the state that sealing leaves. -/
theorem exec_flwait_of_room {s : State} {c : Cx} (o : ImmOp) (h : Ready s c []) (ha : c.fb.await = .none)
    (hroom : c.fb.openN = 0 ∨ s.oc c.f c.fb .ocf < 63) : ∃ undo,
      exec (.flwait o) s = .next (c.finish (c.issued.waitOc (s.setFib c.f (flwaitFib c)) .ocf o.n.toNat undo)) := by
  obtain ⟨rfl, -⟩ := State.eq_and_find?_of_cx h.cx
  rw [exec_flwait, execFlwait, h.issue_eq, flwaitFib]
  by_cases h0 : c.fb.openN = 0
  · rw [Cx.issued_seal_of_empty h0, if_pos h0]
    exact ⟨_, rfl⟩
  · rw [Cx.issued_seal_of_room ha h0 (hroom.resolve_left h0), if_neg h0, Cx.setF, Cx.issued_s, Cx.issued_f, State.setFib_setFib]
    exact ⟨_, rfl⟩

/-- FLSTAGE issues the entries of the next stage where there is one (R144). -/
theorem exec_flstage_eq {s : State} {c : Cx} (h : Ready s c []) : exec .flstage s = .next (c.finish (.ok
    (if c.w.stage + 1 < c.l.nstage then
      (c.issued.s.modWg c.fb.wg fun w => { w with stage := c.w.stage + 1 }).issueStage c.fb.wg (c.w.stage + 1)
    else c.issued.s))) := by
  obtain ⟨rfl, -⟩ := State.eq_and_find?_of_cx h.cx
  obtain ⟨hw, -⟩ := State.find?_wg_of_cx h.cx
  rw [exec_flstage, execFlstage, h.issue_eq, Cx.issued_fb_wg, Cx.issued_w, Cx.issued_l,
    State.modWg_of_find? (s := c.issued.s) (x := c.w) hw, State.modWg_of_find? (s := c.issued.s) (x := c.w) hw]
  split <;> rfl

/-- The batches of a fibre stay as `g` has them when it is issued with the rest of `g`'s fields. -/
theorem flwaitFib_eq (c : Cx) : flwaitFib c =
    { c.issued.fb with batch := (if c.fb.openN = 0 then c.fb else { c.fb with batch := c.fb.batch + 1, openN := 0 }).batch
                       openN := (if c.fb.openN = 0 then c.fb else { c.fb with batch := c.fb.batch + 1, openN := 0 }).openN } := by
  rw [flwaitFib, c.issued_fb_eq]
  split <;> rfl

/-- The batches that a FLWAIT counts are those of its fibre once its open batch is sealed. -/
theorem counted_flwaitFib (c : Cx) : (c.s.setFib c.f (flwaitFib c)).counted c.f (flwaitFib c) .ocf =
    c.s.sealed c.f (if c.fb.openN = 0 then c.fb else { c.fb with batch := c.fb.batch + 1, openN := 0 }) :=
  State.sealed_congr _ rfl (by rw [flwaitFib_eq])

/-- Settles O45: FLSEAL by what sealing comes to, FLWAIT by the wait that follows it, FLSTAGE by the stages left. -/
theorem flumeBatches : Obligations.FlumeBatches := by
  unfold Obligations.FlumeBatches
  refine ⟨fun s c h ha => ?_, fun o s c h ha hroom => ?_, fun s c h => ?_⟩
  · obtain ⟨rfl, -⟩ := State.eq_and_find?_of_cx h.cx
    refine ⟨fun h0 => ?_, fun h0 hroom => ?_, fun b h0 hfull hb => ?_⟩
    · rw [changed_id]
      exact exec_flseal_of_done h (Cx.issued_seal_of_empty h0)
    · rw [exec_flseal_of_done h (Cx.issued_seal_of_room ha h0 hroom), changed, ← Cx.issued_fb_batch c]
      rfl
    · exact exec_flseal_of_wait h (Cx.issued_seal_of_full ha h0 hfull hb)
  · intro g
    obtain ⟨rfl, -⟩ := State.eq_and_find?_of_cx h.cx
    obtain ⟨undo, hexec⟩ := exec_flwait_of_room o h ha hroom
    have hx : (c.s.setFib c.f (flwaitFib c)).fibres.find? c.f = some (flwaitFib c) := Tbl.find?_put_self ..
    have hcounted : (c.s.setFib c.f (flwaitFib c)).counted c.f (flwaitFib c) .ocf = c.s.sealed c.f g := counted_flwaitFib c
    rw [hexec]
    refine ⟨fun hn herr => ⟨_, rfl, ?_⟩, fun hn => ⟨_, rfl, ?_⟩⟩
    · rw [Cx.issued_waitOc_of_le undo ha hx (by rw [hcounted]; exact hn) (by rw [flwaitFib_eq]; simpa using herr)]
      obtain ⟨l, hl⟩ := State.ocDone_find? hx .ocf ((c.s.setFib c.f (flwaitFib c)).newest c.f (flwaitFib c) .ocf o.n.toNat)
      refine ⟨goesOn_finish_ok hl ?_, by simp, by simp, ?_⟩
      · rw [flwaitFib_eq]
        exact { sameFlow_issued c with }
      · obtain ⟨sp, q, hf⟩ := Cx.finish_ok_find? hl
        refine ⟨_, hf, ?_⟩
        rw [flwaitFib_eq, Fibre.done, Fibre.advance_eq]
        exact ⟨rfl, rfl⟩
    · rw [Cx.issued_waitOc_of_lt undo ha hx (hcounted ▸ State.nodup_sealed _ _ _) (by rw [hcounted]; exact hn), Cx.finish_part]
      refine ⟨rfl, rfl, _, Tbl.find?_put_self .., ?_⟩
      rw [flwaitFib_eq]
      simp [g]
  · rw [exec_flstage_eq h, changed_id]
    exact ⟨fun hl => by rw [if_neg (Nat.not_lt.2 hl)], fun hl => by rw [if_pos hl]⟩

end Claims
end Sys2Proof

/-! REFUTATION of O31. The tables of the state are not required to list a key once, and a count looks for its waiters in the
whole list of fibres. So a second entry under the key of the arriving fibre, one that waits on the weir, moves that fibre by an
instruction of its own. -/

namespace Sys2Proof
namespace Claims

open Sys2Proof.Machine

/-- The place of the WARR. -/
def warrPc : Word := 0x10008

/-- Fibre 0 of workgroup 0, at the WARR, with `await` as what it last waited for. -/
def arriverOf (st : FibreState) : Fibre :=
  { Fibre.start 0 0 8 warrPc 0 0 0x1000 with
    blkEnd := 0x10010, st, await := .weir { d := 6, look := 0, weir := 63, target := 0, scope := .wg, deadline := none } }

/-- The workgroup, its weir 63 in phase 65535 and complete at one arrival. -/
def oneShortWg : Wg :=
  { placedWg 0 with weirs := (placedWg 0).weirs.set 63 { Weir.start with phase := 65535, expa := 1 } }

/-- The state with two entries under key 1: the fibre that arrives, and one that waits. -/
def twiceListed : State :=
  { State.reset.mapped with
    cur := .fibre 1 0 0, nextId := 2, launches := [(0, placedLaunch)], wgs := [(0, oneShortWg)]
    fibres := [(1, arriverOf .ready), (1, arriverOf .waiting)] }

def twiceListedCx : Cx :=
  { s := twiceListed, f := 1, fb := arriverOf .ready, w := oneShortWg, l := placedLaunch, word := 0, ext := 0 }

/-- WARR S5, weir 63. -/
def warrOp : WarrOp := { d := 5, w := 63, scope := .wg, m := 0, look := 0 }

theorem ready_twiceListed : Ready twiceListed twiceListedCx [sDst warrOp.d] := ⟨rfl, by decide⟩

/-- The next instruction is 8 bytes on. -/
theorem advance_twiceListed : (twiceListedCx.fb.advance twiceListedCx.len).pc = 0x10010 := by decide

/-- But the fibre stands 16 bytes on: its wait ended, and its WARR went on from there. -/
theorem pc_after_warr :
    ((twiceListedCx.finish (twiceListedCx.issued.warr warrOp 1)).fibres.find? 1).map (·.pc) = some 0x10018 := by decide

/-- Refutes O31: WARR of a fibre whose key is listed a second time, as a waiter on the weir, advances it twice. -/
theorem not_arrivals : ¬ Obligations.Arrivals := by
  unfold Obligations.Arrivals
  intro ⟨hwarr, _⟩
  obtain ⟨-, hcount⟩ := hwarr (.warr warrOp) twiceListed twiceListedCx [sDst warrOp.d] warrOp 1 rfl ready_twiceListed
    (by decide) (by decide) (by decide) (by decide)
  obtain ⟨t, hexec, ⟨x, hx, hpc, -⟩, -⟩ := hcount (by decide) (by decide)
  rw [exec_warr, execWarr, ready_twiceListed.issue_eq] at hexec
  cases hexec
  have hafter := pc_after_warr
  rw [show Tbl.find? _ 1 = some x from hx, Option.map_some, hpc, advance_twiceListed] at hafter
  exact absurd hafter (by decide)

end Claims
end Sys2Proof

/-! REFUTATION of O55. The table of a workgroup's sectors is not required to list a sector once, and a sector that becomes
PRESENT loses the first of its entries only. So a sector listed twice as ARRIVING still arrives once it has landed. -/

namespace Sys2Proof
namespace Claims

open Sys2Proof.Machine

/-- The workgroup, the last sector of its scratchpad listed twice as ARRIVING. -/
def twiceArrivingWg : Wg := { placedWg 0 with sectors := [(0xFFE0 / 32, .arriving), (0xFFE0 / 32, .arriving)] }

/-- An accepted copy of 32 bytes of global memory to that sector. -/
def sectorCopy : FlCopy :=
  { gaddr := 0x8000, spoff := 0xFFE0, rowb := 32, nrows := 1, sstr := 0, gstr := 0, npl := 1, pstr := 0, gpstr := 0, out := false
    mc := none, cred := none, dg := none, fin := none, batch := 0, fill := false, accepted := true, left := [0], seen := [], kept := []
    data := [], failed := [] }

/-- The command of the copy. -/
def copyCmd : Cmd :=
  { wg := 0, fib := some 1, ctr := some .ocf, rngs := [], body := .flume sectorCopy, back := none, dst := 0, err := none, since := 0
    binds := [] }

/-- The state in which the copy's one sector lands. -/
def sectorLanding : State :=
  { State.reset.mapped with
    cur := .event (.flumeSectorLand 0 0), nextId := 2, launches := [(0, placedLaunch)], wgs := [(0, twiceArrivingWg)]
    fibres := [(1, Fibre.start 0 0 8 0x10008 0 0 0x1000)], cmds := [(0, copyCmd)] }

def sectorLandingCx : EngCx := { cmd := 0, c := copyCmd, w := twiceArrivingWg, l := placedLaunch }

/-- The state that a try on a sector leaves where it succeeds. -/
def stateOfDone (r : EngOut) : Option State :=
  match r with
  | .done u _ _ => some u
  | _ => none

theorem eq_done_of_stateOfDone {r : EngOut} {u : State} (h : stateOfDone r = some u) : ∃ b seen, r = .done u b seen := by
  cases r with
  | done v b seen => cases h; exact ⟨b, seen, rfl⟩
  | _ => cases h

theorem stateOfDone_sectorLanding :
    (stateOfDone (sectorLanding.sectorTry sectorLandingCx sectorCopy 0)).map (fun u => (u.cmds, u.wgs)) =
      some (sectorLanding.cmds, sectorLanding.wgs) := by rfl

/-- The read of the sector succeeds, and moves neither a command nor a workgroup. -/
theorem sectorTry_sectorLanding : ∃ u b seen, sectorLanding.sectorTry sectorLandingCx sectorCopy 0 = .done u b seen ∧
    u.cmds = sectorLanding.cmds ∧ u.wgs = sectorLanding.wgs := by
  obtain ⟨u, hu, hsame⟩ := Option.map_eq_some_iff.1 stateOfDone_sectorLanding
  obtain ⟨b, seen, htry⟩ := eq_done_of_stateOfDone hu
  exact ⟨u, b, seen, htry, congrArg Prod.fst hsame, congrArg Prod.snd hsame⟩

/-- Whether the last sector of workgroup 0 arrives after a step. -/
def lastSectorArriving (r : Out) : Option Bool :=
  match r with
  | .next t => (t.wgs.find? 0).map fun g => g.arriving (sectorCopy.offset 0) 32
  | _ => none

theorem lastSectorArriving_after_land : lastSectorArriving (exec .flumeSectorLand sectorLanding) = some true := by decide

/-- Refutes O55: FLUME_SECTOR_LAND leaves ARRIVING a sector that the workgroup's table lists twice. -/
theorem not_copyEvents : ¬ Obligations.CopyEvents := by
  unfold Obligations.CopyEvents
  intro ⟨_, _, hland, _⟩
  obtain ⟨u, b, seen, htry, hcmds, hwgs⟩ := sectorTry_sectorLanding
  obtain ⟨hin, -, -⟩ := hland sectorLanding 0 0 sectorLandingCx sectorCopy rfl rfl rfl rfl (by decide) (by decide)
  obtain ⟨t, hexec, -, -, ⟨g, hg, -, harr, -⟩, -⟩ := hin u b seen htry rfl rfl rfl rfl (by decide) (by decide) hcmds hwgs
  have hafter := lastSectorArriving_after_land
  rw [hexec, lastSectorArriving, show Tbl.find? _ 0 = some g from hg, Option.map_some, harr] at hafter
  exact absurd hafter (by decide)

end Claims
end Sys2Proof

/-! SUPPORT. The checks of an engine form, and the issue of a matrix command (06 R152, 13 R329, R330). -/

namespace Sys2Proof
namespace Machine

/-! ## Checks -/

/-- Checks that all pass let the instruction go on. -/
theorem Cx.checked_of_pass {l : List Check} (c : Cx) (g : Res) (h : ∀ y ∈ l, y.bad = false) : c.checked l g = g := by
  have hnone : l.find? Check.bad = none := List.find?_eq_none.2 fun y hy => by simp [h y hy]
  rw [Cx.checked, hnone]

@[simp] theorem aligned_bad (x k : Nat) : (aligned x k).bad = decide (x % k ≠ 0) := rfl
@[simp] theorem inSpad_bad (spad a n : Nat) : (inSpad spad a n).bad = decide (spad < a + n) := rfl
@[simp] theorem limit_bad (b : Bool) (r : Nat) : (limit b r).bad = b := rfl

/-- The checks of R152 on rows, each in its order, with those of a scale region where there is one. -/
def regionChecks (spad off stride row n : Nat) (scale : Option Nat) (m : Nat) : List Check :=
  rowChecks off stride row ++ scale.toList.map (fun a => aligned a 32)
    ++ inSpad spad off ((n - 1) * stride + row) :: scale.toList.map fun a => inSpad spad a m

/-! ## The context as a matrix form issues -/

@[simp] theorem Cx.issued_acquiring (c : Cx) : c.issued.acquiring = c.acquiring := by
  simp only [Cx.acquiring]
  rw [c.issued_fb_eq]
  rfl

@[simp] theorem Cx.issued_again (c : Cx) : c.issued.again = c.again := by simp [Cx.again]
theorem Cx.again_of_await_none {c : Cx} (h : c.fb.await = .none) : c.again = false := by simp [Cx.again, h, Await.anew]
@[simp] theorem Cx.issued_spadsz (c : Cx) : c.issued.spadsz = c.l.kernel.spad := rfl
@[simp] theorem Cx.issued_fb_tiles (c : Cx) : c.issued.fb.tiles = c.fb.tiles := by rw [c.issued_fb_eq]
@[simp] theorem Cx.issued_fb_srs (c : Cx) : c.issued.fb.srs = c.fb.srs := by rw [c.issued_fb_eq]
@[simp] theorem Cx.issued_phys (c : Cx) (t : BitVec 3) : c.issued.phys t = Claims.tileOf c t := by
  rw [Cx.phys, Cx.issued_fb_tiles]
  rfl
@[simp] theorem Cx.issued_blk (c : Cx) (a : BitVec 6) (i : Nat) : c.issued.blk a i = c.fb.sreg (a.toNat + i) := by
  simp only [Cx.blk, Fibre.sreg]
  rw [c.issued_fb_eq]
@[simp] theorem Cx.issued_regOrLong (c : Cx) (r : RegOrLong) : c.issued.regOrLong r = Claims.regOrImm c r := by
  cases r with
  | reg b => exact c.issued_sreg b
  | long v => rfl

/-- No acquire of the fibre is out: its matrix command issues. -/
theorem Cx.issued_mxIssue {c : Cx} (ha : c.acquiring = false) (rngs : List Rng) (body : CmdBody) :
    c.issued.mxIssue rngs body = .ok (c.issued.command c.issued.s .ocm rngs body none 0) := by
  simp [Cx.mxIssue, ha]

end Machine

namespace Claims

open Sys2Proof.Machine

theorem exec_mxloadb (o : MxOp) (s : State) : exec (.mxloadb o) s = execMxloadb o s := rfl
theorem exec_mxmul (o : MxOp) (s : State) : exec (.mxmul o) s = execMxmul o s := rfl
theorem exec_mxloop (o : MxloopOp) (s : State) : exec (.mxloop o) s = execMxloop o s := rfl
theorem exec_mxdrain (o : MxdrainOp) (s : State) : exec (.mxdrain o) s = execMxdrain o s := rfl
theorem exec_mxzero (o : MxzeroOp) (s : State) : exec (.mxzero o) s = execMxzero o s := rfl
theorem exec_mxstat (o : MxstatOp) (s : State) : exec (.mxstat o) s = execMxstat o s := rfl

/-- Rows that fit pass their checks, and so does a scale region that fits. -/
theorem regionChecks_pass {c : Cx} {off stride row n m : Nat} {scale : Option Nat} (hrows : rowsFit c off stride row n)
    (hscale : ∀ a ∈ scale, a % 32 = 0 ∧ fits c a m) :
    ∀ y ∈ regionChecks c.l.kernel.spad off stride row n scale m, y.bad = false := by
  obtain ⟨hoff, hstride, hrow, hfits⟩ := hrows
  cases scale with
  | none => simpa [regionChecks, rowChecks, hoff, hstride, hrow, fits] using hfits
  | some a =>
    obtain ⟨ha, hin⟩ := hscale a rfl
    simpa [regionChecks, rowChecks, hoff, hstride, hrow, ha, fits] using And.intro hfits hin

/-- A command that changes nothing else of its fibre. -/
theorem commanded_id (c : Cx) (k : Ctr) (rngs : List Rng) (body : CmdBody) :
    commanded c k rngs body = c.finish (.ok (c.issued.command c.issued.s k rngs body none 0)) := by
  simp [commanded, Cx.setF]

/-- A matrix form whose checks pass issues its command. -/
theorem Ready.issue_matrix {s : State} {c : Cx} {ops : List Opnd} {body : Cx → Res} {l : List Check} {rngs : List Rng} {b : CmdBody}
    (h : Ready s c ops) (ha : c.acquiring = false) (hl : ∀ y ∈ l, y.bad = false)
    (hb : body c.issued = c.issued.checked l (c.issued.mxIssue rngs b)) :
    issue s ops body = .next (commanded c .ocm rngs b) := by
  rw [h.issue_eq, hb, Cx.checked_of_pass _ _ hl, Cx.issued_mxIssue ha, commanded_id]

/-- R344: MXLOADB. -/
theorem exec_mxloadb_of_fits {o : MxOp} {s : State} {c : Cx} (h : Ready s c (sSrc o.a :: scaleOpnds o.scale ++ [macSrc o.mac]))
    (ha : c.acquiring = false) (hrows : rowsFit c (regLo c o.a) (regHi c o.a) (mxBytes o.fmt 128) (mxK o.fmt))
    (hscale : ∀ b ∈ o.scale, regLo c b % 32 = 0 ∧ fits c (regLo c b) (4 * mxK o.fmt)) :
    exec (.mxloadb o) s = .next (commanded c .ocm (reads (bRegions o.fmt (regLo c o.a) (regHi c o.a) (o.scale.map (regLo c))))
      (.mxload ⟨o.mac.toNat, bit o.bank, o.fmt, regLo c o.a, regHi c o.a, o.scale.map (regLo c), s.clk c.w.die, []⟩)) := by
  obtain ⟨rfl, -⟩ := State.eq_and_find?_of_cx h.cx
  rw [exec_mxloadb]
  refine h.issue_matrix ha (regionChecks_pass hrows (scale := o.scale.map (regLo c)) (by simpa using hscale)) ?_
  simp only [Cx.issued_sreg]
  rfl

/-- R345: MXMUL. -/
theorem exec_mxmul_of_fits {o : MxOp} {s : State} {c : Cx}
    (h : Ready s c (tileSrc o.t :: sSrc o.a :: scaleOpnds o.scale ++ [macSrc o.mac])) (ha : c.acquiring = false)
    (hrows : rowsFit c (regLo c o.a) (regHi c o.a) (mxBytes o.fmt 256) 16)
    (hscale : ∀ b ∈ o.scale, regLo c b % 32 = 0 ∧ fits c (regLo c b) 128) :
    exec (.mxmul o) s = .next (commanded c .ocm
      (mxRunOf c o.t o.mac o.bank o.fmt 1 (regLo c o.a) (regHi c o.a) (o.scale.map (regLo c))).ranges
      (.mxrun (mxRunOf c o.t o.mac o.bank o.fmt 1 (regLo c o.a) (regHi c o.a) (o.scale.map (regLo c))))) := by
  rw [exec_mxmul]
  refine h.issue_matrix ha (regionChecks_pass hrows (scale := o.scale.map (regLo c)) (by simpa using hscale)) ?_
  simp only [Cx.issued_sreg, Cx.issued_phys, Cx.issued_fb_wg]
  rfl

/-! ## MXLOOP -/

/-- The low half of a register, signed. -/
theorem loInt_eq (x : Word) : loInt x = (BitVec.ofNat 32 (x.toNat % 2 ^ 32)).toInt := by
  rw [loInt]
  congr 1
  apply BitVec.eq_of_toNat_eq
  simp

/-- The high half of a register, signed. -/
theorem hiInt_eq (x : Word) : hiInt x = (BitVec.ofNat 32 (x.toNat / 2 ^ 32)).toInt := by
  rw [hiInt]
  congr 1
  apply BitVec.eq_of_toNat_eq
  simp [Nat.shiftRight_eq_div_pow]

/-- The run that the block of an MXLOOP describes (R346). -/
theorem issued_loopRun (c : Cx) (o : MxloopOp) (n : Nat) : c.issued.loopRun o n = mxLoopOf c o n := by
  simp only [Cx.loopRun, Cx.issued_blk, Cx.issued_phys, Cx.issued_fb_wg, loInt_eq, hiInt_eq]
  rfl

/-- R346: MXLOOP traps on a count of 0, or one that 16 bits do not hold. -/
theorem exec_mxloop_illegal {o : MxloopOp} {s : State} {c : Cx}
    (h : Ready s c (tileSrc o.t :: block o.a 5 :: regOrLongOpnds o.count ++ [macSrc o.mac]))
    (hn : (regOrImm c o.count).toNat = 0 ∨ 65535 < (regOrImm c o.count).toNat) :
    exec (.mxloop o) s = .next (trapped c .illegal (match o.count with | .reg b => BitVec.ofNat 64 b.toNat | .long _ => 0) c.word) := by
  rw [exec_mxloop]
  refine h.issue_trap ?_
  rw [Cx.issued_regOrLong, if_pos (by omega)]
  cases o.count <;> rfl

/-- R346: MXLOOP whose count and block pass. -/
theorem exec_mxloop_of_pass {o : MxloopOp} {s : State} {c : Cx}
    (h : Ready s c (tileSrc o.t :: block o.a 5 :: regOrLongOpnds o.count ++ [macSrc o.mac])) (ha : c.acquiring = false)
    (hn : 1 ≤ (regOrImm c o.count).toNat) (hmax : (regOrImm c o.count).toNat ≤ 65535)
    (hl : ∀ y ∈ (mxLoopOf c o (regOrImm c o.count).toNat).checks c.l.kernel.spad, y.bad = false) :
    exec (.mxloop o) s = .next (commanded c .ocm (mxLoopOf c o (regOrImm c o.count).toNat).ranges
      (.mxrun (mxLoopOf c o (regOrImm c o.count).toNat))) := by
  rw [exec_mxloop]
  refine h.issue_matrix ha hl ?_
  have hcount : ¬ ((regOrImm c o.count).toNat < 1 ∨ 65535 < (regOrImm c o.count).toNat) := by omega
  simp only [Cx.issued_regOrLong, issued_loopRun, if_neg hcount]
  rfl

/-! ## MXDRAIN and MXZERO -/

/-- What an MXDRAIN changes in its fibre: under .rsr the SRS of lane 0 goes on by as many successors as the tile has elements. -/
def srsDrained (c : Cx) (o : MxdrainOp) (x : Fibre) : Fibre :=
  if o.rnd = .rsr then { x with srs := x.srs.put 0 (srsAfter 2048 (c.fb.srs.getD 0 0)) } else x

/-- R348: MXDRAIN. -/
theorem exec_mxdrain_of_fits {o : MxdrainOp} {s : State} {c : Cx} (h : Ready s c [tileSrc o.t, sSrc o.a]) (ha : c.acquiring = false)
    (hrows : rowsFit c (regLo c o.a) (regHi c o.a) (16 * o.ty.width) 16) :
    exec (.mxdrain o) s = .next (commanded c .ocm
      ((rowRegions (regLo c o.a) (regHi c o.a) 16 (16 * o.ty.width)).map fun r => ⟨r.1, r.2, true⟩)
      (.drain ⟨tileOf c o.t, regLo c o.a, regHi c o.a, o.ty, o.rnd, o.sat, c.fb.srs.getD 0 0, none, []⟩) (srsDrained c o)) := by
  have hset : (if o.rnd = .rsr then c.issued.setF fun x => { x with srs := x.srs.put 0 (srsAfter 2048 (c.fb.srs.getD 0 0)) }
      else c.issued.s) = c.issued.setF (srsDrained c o) := by
    simp only [srsDrained, Cx.setF]
    split
    · rfl
    · simp
  rw [exec_mxdrain, execMxdrain, h.issue_eq, Cx.checked_of_pass]
  · simp only [Cx.issued_acquiring, ha, Bool.false_eq_true, if_false, Cx.issued_sreg, Cx.issued_phys, Cx.issued_fb_srs, hset]
    rfl
  · rw [Cx.issued_sreg]
    exact regionChecks_pass hrows (scale := none) (m := 0) (by simp)

/-- R349: MXZERO. -/
theorem exec_mxzero_eq {o : MxzeroOp} {s : State} {c : Cx} (h : Ready s c [tileSrc o.t]) :
    exec (.mxzero o) s = .next (commanded c .ocm [] (.mxzero (tileOf c o.t))) := by
  rw [exec_mxzero, execMxzero, h.issue_eq, Cx.issued_phys, commanded_id]

end Claims

/-! SUPPORT. Commands with a scalar result (13 R329): MXSTAT. -/

namespace Machine

/-- The command that a fibre issues under the name `s.nextId`. -/
theorem Cx.commandIn_find? (c : Cx) (s : State) (ctr : Option Ctr) (rngs : List Rng) (body : CmdBody) (back : Option Nat) (dst : Nat) :
    (c.commandIn s ctr rngs body back dst).cmds.find? s.nextId =
      some { wg := c.fb.wg, fib := some c.f, ctr, rngs, body, back, dst, err := none, since := s.clkOf c.w, binds := c.w.binds } :=
  Tbl.find?_put_self ..

@[simp] theorem Cx.commandIn_mem (c : Cx) (s : State) (ctr : Option Ctr) (rngs : List Rng) (body : CmdBody) (back : Option Nat)
    (dst : Nat) : (c.commandIn s ctr rngs body back dst).mem = s.mem := rfl

@[simp] theorem Cx.retired_cmds (c : Cx) (s : State) : (c.retired s).cmds = s.cmds := by rw [Cx.retired_eq]

/-- A result that is pending for a later event is the newest of its fibre's. -/
def Fibre.awaiting (id look : Nat) (dst : List (RegRef × WVal)) (x : Fibre) : Fibre :=
  { x with pend := x.pend ++ [⟨id, dst, 1, .await⟩], wins := if look = 0 then x.wins else x.wins ++ dst.map fun p => (p.1, look) }

theorem State.pendAs_of_find? {s : State} {f : Nat} {x : Fibre} (h : s.fibres.find? f = some x) (id look : Nat)
    (dst : List (RegRef × WVal)) : s.pendAs f id look 1 dst .await = s.setFib f (x.awaiting id look dst) := by
  simp [State.pendAs, h, Fibre.awaiting]

end Machine

namespace Claims

open Sys2Proof.Machine

/-- The fibre of a command with a scalar result as the command issues with L = 0: it waits. -/
def answerFib (c : Cx) : Fibre := { c.issued.fb with await := .cmd c.s.nextId c.len, st := .interlock }

/-- With L = 0 a form with a scalar result stays at its wait. -/
theorem issued_answered_of_zero {c : Cx} (ha : c.fb.await = .none) (k : Option Ctr) (d : Nat) (body : CmdBody) :
    c.issued.answered k 0 d body = .stay (c.issued.commandIn (c.s.setFib c.f (answerFib c)) k [] body none d) := by
  simp only [Cx.answered, Cx.issued_again, Cx.again_of_await_none ha, Bool.false_eq_true, if_false, if_true, Cx.setF, Cx.issued_s,
    Cx.issued_f, State.setFib_setFib]
  rfl

/-- With L above 0 it goes on, its result pending. -/
theorem issued_answered_of_pos {c : Cx} (ha : c.fb.await = .none) (k : Option Ctr) {look : Nat} (hl : look ≠ 0) (d : Nat)
    (body : CmdBody) : c.issued.answered k look d body = .ok (c.issued.commandIn
      (c.s.setFib c.f (c.issued.fb.awaiting c.s.nextId look [(.s d, .s 0)])) k [] body (some c.s.nextId) d) := by
  have hpend := State.pendAs_of_find? (s := c.issued.s) (f := c.f) (x := c.issued.fb) (by simp) c.s.nextId look [(.s d, .s 0)]
  simp only [Cx.answered, Cx.issued_again, Cx.again_of_await_none ha, Bool.false_eq_true, if_false, if_neg hl, Cx.issued_f]
  rw [show c.issued.s.nextId = c.s.nextId from rfl, hpend, Cx.issued_s, State.setFib_setFib]

/-- What a form with a scalar result leaves: its command, and its fibre waiting for that or with a pending result. -/
theorem answered_finish {c : Cx} (ha : c.fb.await = .none) (k : Option Ctr) (look d : Nat) (body : CmdBody) :
    (c.finish (c.issued.answered k look d body)).mem = c.s.mem ∧
      Answered c (c.finish (c.issued.answered k look d body)) k look d fun b => b = body := by
  by_cases hl : look = 0
  · subst hl
    rw [issued_answered_of_zero ha]
    have hq := (congrArg (Tbl.find? · c.s.nextId) (c.retired_cmds _)).trans
      (c.issued.commandIn_find? (c.s.setFib c.f (answerFib c)) k [] body none d)
    refine ⟨by simp [Cx.finish], ⟨_, hq, c.issued_fb_wg, rfl, rfl, rfl, rfl, rfl, rfl⟩,
      fun _ => Cx.fibAt_finish_stay (Tbl.find?_put_self ..) fun _ _ => ?_, nofun⟩
    · rw [answerFib, c.issued_fb_eq]
      exact ⟨rfl, rfl, rfl, rfl, rfl, rfl⟩
  · rw [issued_answered_of_pos ha k hl]
    have hx : (c.issued.commandIn (c.s.setFib c.f (c.issued.fb.awaiting c.s.nextId look [(.s d, .s 0)])) k [] body (some c.s.nextId)
        d).fibres.find? c.f = some (c.issued.fb.awaiting c.s.nextId look [(.s d, .s 0)]) := Tbl.find?_put_self ..
    have hq := (congrArg (Tbl.find? · c.s.nextId) (Cx.finish_ok_cmds c _)).trans (c.issued.commandIn_find?
      (c.s.setFib c.f (c.issued.fb.awaiting c.s.nextId look [(.s d, .s 0)])) k [] body (some c.s.nextId) d)
    refine ⟨by simp, ⟨_, hq, c.issued_fb_wg, rfl, rfl, rfl, rfl, rfl, by rw [if_neg hl]⟩, fun h => absurd h hl, fun _ => ?_⟩
    obtain ⟨sp, q, hfind⟩ := Cx.finish_ok_find? hx
    obtain ⟨hpc, -⟩ := Fibre.advance_congr (x := { c.issued.fb.awaiting c.s.nextId look [(.s d, .s 0)] with await := .none })
      (y := c.fb) c.len (sameFlow_issued c).pc (sameFlow_issued c).loops
    refine ⟨_, hfind, hpc, ?_⟩
    rw [Fibre.done, Fibre.advance_eq, Fibre.awaiting, c.issued_fb_eq]
    exact ⟨rfl, rfl, rfl, rfl, rfl⟩

/-- R350: MXSTAT. -/
theorem exec_mxstat_eq {o : MxstatOp} {s : State} {c : Cx} (h : Ready s c [sDst o.d, tileSrc o.t]) :
    exec (.mxstat o) s = .next (c.finish (c.issued.answered none o.look.toNat o.d.toNat (.mxstat (tileOf c o.t)))) := by
  rw [exec_mxstat, execMxstat, h.issue_eq, Cx.issued_phys]

/-- Settles O47: each form by the command that it issues, MXLOOP by its count first. -/
theorem matrixCommands : Obligations.MatrixCommands := by
  unfold Obligations.MatrixCommands
  refine ⟨fun o s c h ha hrows hscale => exec_mxloadb_of_fits h ha hrows hscale,
    fun o s c h ha hrows hscale => exec_mxmul_of_fits h ha hrows hscale,
    fun o s c h => ⟨fun hn => exec_mxloop_illegal h hn, fun hn hmax ha hl => exec_mxloop_of_pass h ha hn hmax hl⟩,
    fun o s c h ha hrows => exec_mxdrain_of_fits h ha hrows, fun o s c h => exec_mxzero_eq h, fun o s c h ha => ?_⟩
  obtain ⟨rfl, -⟩ := State.eq_and_find?_of_cx h.cx
  exact ⟨_, exec_mxstat_eq h, answered_finish ha ..⟩

end Claims
end Sys2Proof

/-! SUPPORT. Tables with rising keys: what a removal leaves. -/

namespace Sys2Proof

theorem Tbl.sorted_iff_pairwise {α : Type} (t : Tbl α) : t.sorted = true ↔ t.keys.Pairwise (· < ·) := by
  induction t with
  | nil => exact ⟨fun _ => List.Pairwise.nil, fun _ => rfl⟩
  | cons p t ih =>
    cases t with
    | nil => exact ⟨fun _ => List.pairwise_singleton _ _, fun _ => rfl⟩
    | cons q t =>
      have hkeys : Tbl.keys (p :: q :: t) = p.1 :: q.1 :: Tbl.keys t := rfl
      have htail : Tbl.keys (q :: t) = q.1 :: Tbl.keys t := rfl
      rw [Tbl.sorted, Bool.and_eq_true, decide_eq_true_eq, ih, hkeys, htail, List.pairwise_cons (a := p.1)]
      refine ⟨fun ⟨hlt, hrest⟩ => ⟨fun k hk => ?_, hrest⟩, fun ⟨hlt, hrest⟩ => ⟨hlt _ List.mem_cons_self, hrest⟩⟩
      rcases List.mem_cons.1 hk with rfl | hk
      · exact hlt
      · exact Nat.lt_trans hlt ((List.pairwise_cons.1 hrest).1 k hk)

theorem Tbl.keys_del_sublist {α : Type} (t : Tbl α) (k : Nat) : (t.del k).keys.Sublist t.keys := by
  induction t with
  | nil => exact List.Sublist.refl _
  | cons p t ih =>
    obtain ⟨j, w⟩ := p
    simp only [Tbl.del]
    split
    · exact List.sublist_cons_self ..
    · split
      · exact List.Sublist.refl _
      · exact ih.cons_cons j

/-- A removal keeps the keys strictly rising. -/
theorem Tbl.sorted_del {α : Type} {t : Tbl α} (k : Nat) (h : t.sorted = true) : (t.del k).sorted = true :=
  (Tbl.sorted_iff_pairwise _).2 (((Tbl.sorted_iff_pairwise t).1 h).sublist (t.keys_del_sublist k))

/-- Behind a key nothing is listed at or below it. -/
theorem Tbl.find?_eq_none_of_le {α : Type} {t : Tbl α} {j i : Nat} {w : α} (h : Tbl.sorted ((j, w) :: t) = true) (hi : i ≤ j) :
    t.find? i = none := by
  cases t with
  | nil => rfl
  | cons q t =>
    simp only [Tbl.sorted, Bool.and_eq_true, decide_eq_true_eq] at h
    rw [Tbl.find?, if_neg (by omega), if_pos (by omega)]

theorem Tbl.sorted_of_cons {α : Type} {t : Tbl α} {p : Nat × α} (h : Tbl.sorted (p :: t) = true) : t.sorted = true := by
  rw [Tbl.sorted_iff_pairwise] at h ⊢
  exact (List.pairwise_cons.1 h).2

/-- What a table reads after a removal. -/
theorem Tbl.find?_del {α : Type} {t : Tbl α} (k i : Nat) (h : t.sorted = true) :
    (t.del k).find? i = if i = k then none else t.find? i := by
  induction t with
  | nil => simp [Tbl.del, Tbl.find?]
  | cons p t ih =>
    obtain ⟨j, w⟩ := p
    have hbehind : i ≤ j → Tbl.find? t i = none := Tbl.find?_eq_none_of_le h
    have hrest := ih (Tbl.sorted_of_cons h)
    simp only [Tbl.del, Tbl.find?]
    by_cases hjk : j = k
    · grind
    · grind [Tbl.find?]

/-- The table with `x` at key `k`, or with nothing there. -/
def Tbl.assign {α : Type} (t : Tbl α) (k : Nat) (x : Option α) : Tbl α :=
  match x with
  | some v => t.put k v
  | none => t.del k

theorem Tbl.sorted_assign {α : Type} {t : Tbl α} (k : Nat) (x : Option α) (h : t.sorted = true) : (t.assign k x).sorted = true := by
  cases x with
  | none => exact Tbl.sorted_del k h
  | some v => exact Tbl.sorted_put t k v h

theorem Tbl.find?_assign {α : Type} {t : Tbl α} (k i : Nat) (x : Option α) (h : t.sorted = true) :
    (t.assign k x).find? i = if i = k then x else t.find? i := by
  cases x with
  | none => exact Tbl.find?_del k i h
  | some v => exact Tbl.find?_put t k i v

/-- The table with the values at two keys exchanged. -/
def Tbl.exchange {α : Type} (t : Tbl α) (a b : Nat) : Tbl α := (t.assign a (t.find? b)).assign b (t.find? a)

theorem Tbl.find?_exchange {α : Type} {t : Tbl α} (a b i : Nat) (h : t.sorted = true) :
    (t.exchange a b).find? i = if i = b then t.find? a else if i = a then t.find? b else t.find? i := by
  rw [Tbl.exchange, Tbl.find?_assign _ _ _ (Tbl.sorted_assign _ _ h), Tbl.find?_assign _ _ _ h]

/-! SUPPORT. MXINIT and MXSWAP (06 R159, 13 R347, R349). -/

namespace Machine

theorem State.modWg_eq (s : State) (w : Nat) (g : Wg → Wg) : s.modWg w g = { s with wgs := (s.modWg w g).wgs } := by
  unfold State.modWg; split <;> rfl

/-- The state of an MXINIT once its name has left the tile that it was mapped to. -/
def Cx.untiled (c : Cx) (n : Nat) : State :=
  match c.fb.tiles.find? n with
  | some p => c.issued.s.leaveTile c.fb.wg p
  | none => c.issued.s

/-- That changes workgroups alone. -/
theorem Cx.untiled_eq (c : Cx) (n : Nat) : c.untiled n = { c.issued.s with wgs := (c.untiled n).wgs } := by
  unfold Cx.untiled
  split
  · exact State.modWg_eq ..
  · rfl

theorem Cx.untiled_find? (c : Cx) (n : Nat) : (c.untiled n).fibres.find? c.f = some c.issued.fb := by
  rw [Cx.untiled_eq]
  exact Tbl.find?_put_self ..

/-- The fibre with name `n` mapped to tile `p`. -/
def Fibre.mapTile (n p : Nat) (x : Fibre) : Fibre := { x with tiles := x.tiles.put n p }

/-- A tile taken for a name: what it leaves in its workgroup and its fibre. -/
theorem Cx.takeTile_eq {c : Cx} {s : State} {w : Wg} {x : Fibre} (hw : s.wgs.find? c.fb.wg = some w) (hx : s.fibres.find? c.f = some x)
    (n p : Nat) (anchor : Int) : c.takeTile s n p anchor =
      ((s.setWg c.fb.wg { w with tiles := w.tiles.put p (Tile.fresh anchor) }).setFib c.f (x.mapTile n p)).drawn := by
  rw [Cx.takeTile, State.modWg_of_find? hw, State.modFib_of_find? (s := s.setWg ..) (x := x) hx]
  rfl

/-- The tile that an MXINIT takes of several that are free, by a free choice (log entry 34). -/
def pickTile (n : Nat) (l : List Nat) : Nat :=
  match l with
  | [p] => p
  | l => l.getD (Config.tilePick n l.length % l.length) 0

theorem pickTile_mem (n : Nat) {l : List Nat} (h : l ≠ []) : pickTile n l ∈ l := by
  unfold pickTile
  split
  · simp
  · rw [List.getD_eq_getElem?_getD, List.getElem?_eq_getElem (Nat.mod_lt _ (List.length_pos_iff.2 h)), Option.getD_some]
    exact List.getElem_mem _

end Machine

namespace Claims

open Sys2Proof.Machine

theorem exec_mxinit (o : MxinitOp) (s : State) : exec (.mxinit o) s = execMxinit o s := rfl
theorem exec_mxswap (o : MxswapOp) (s : State) : exec (.mxswap o) s = execMxswap o s := rfl

/-- An instruction that goes on leaves its fibre's names of tiles as its effect left them. -/
theorem fibAt_tiles_finish_ok {c : Cx} {t : State} {x : Fibre} (hx : t.fibres.find? c.f = some x) :
    FibAt (c.finish (.ok t)) c.f fun y => y.tiles = x.tiles := by
  obtain ⟨sp, q, hfind⟩ := Cx.finish_ok_find? hx
  refine ⟨_, hfind, ?_⟩
  rw [Fibre.done, Fibre.advance_eq]

/-- R347: MXINIT traps on an anchor outside −512 to 511. -/
theorem exec_mxinit_illegal {o : MxinitOp} {s : State} {c : Cx} (h : Ready s c (regOrLongOpnds o.anchor))
    (hx : (regOrImm c o.anchor).toInt < -512 ∨ 511 < (regOrImm c o.anchor).toInt) :
    exec (.mxinit o) s = .next (trapped c .illegal (match o.anchor with | .reg b => BitVec.ofNat 64 b.toNat | .long _ => 0) c.word) := by
  rw [exec_mxinit]
  refine h.issue_trap ?_
  have hbad : (decide ((regOrImm c o.anchor).toInt < -512) || decide (511 < (regOrImm c o.anchor).toInt)) = true := by simpa using hx
  rw [Cx.issued_regOrLong, Cx.checked, List.find?_cons_of_pos (by exact hbad)]
  cases o.anchor <;> rfl

/-- The information value that names a tile (R206). -/
theorem regInfo_tile (t : BitVec 3) : regInfo .tile false t.toNat = 0x4000000000000000 ||| t.setWidth 64 := by
  revert t
  decide

/-- What an MXINIT comes to once its anchor is checked, where `w` is its workgroup with its name's tile left. -/
def mxinitRes (c : Cx) (o : MxinitOp) (w : Wg) : Res :=
  if freeOf w c.l.kernel.nt = [] then
    if anyRetiring w c.l.kernel.nt = true then
      .part (c.untiled o.t.toNat) (fun x => { x with tiles := x.tiles.del o.t.toNat }) .interlock
    else c.issued.trap .regbound (regInfo .tile false o.t.toNat)
  else .ok (c.issued.takeTile (c.untiled o.t.toNat) o.t.toNat (pickTile (c.untiled o.t.toNat).free (freeOf w c.l.kernel.nt))
    (regOrImm c o.anchor).toInt)

/-- MXINIT with its anchor in range. -/
theorem exec_mxinit_eq {o : MxinitOp} {s : State} {c : Cx} {w : Wg} (h : Ready s c (regOrLongOpnds o.anchor))
    (hlo : -512 ≤ (regOrImm c o.anchor).toInt) (hhi : (regOrImm c o.anchor).toInt ≤ 511)
    (hw : (c.untiled o.t.toNat).wgs.find? c.fb.wg = some w) : exec (.mxinit o) s = .next (c.finish (mxinitRes c o w)) := by
  rw [exec_mxinit, execMxinit, h.issue_eq, Cx.checked_of_pass _ _ (by simp; omega)]
  simp only [Cx.issued_regOrLong, Cx.issued_fb_tiles, Cx.issued_fb_wg, Cx.issued_l]
  unfold mxinitRes
  cases hp : c.fb.tiles.find? o.t.toNat
  all_goals
    simp only [Cx.untiled, hp] at hw ⊢
    simp only [hw]
    rcases freeOf w c.l.kernel.nt with - | ⟨p, - | ⟨q, l⟩⟩ <;> rfl

/-- What a tile taken for a name leaves. -/
theorem finish_takeTile {c : Cx} {n : Nat} {w : Wg} (hw : (c.untiled n).wgs.find? c.fb.wg = some w) (p : Nat) (anchor : Int)
    {t : State} (ht : t = c.finish (.ok (c.issued.takeTile (c.untiled n) n p anchor))) :
    t.mem = c.s.mem ∧ t.cmds = c.s.cmds ∧ GoesOn c t 0 [] ∧ (FibAt t c.f fun y => y.tiles = c.fb.tiles.put n p) ∧
      WgAt t c.fb.wg fun g => g.tiles = w.tiles.put p (Tile.fresh anchor) := by
  subst ht
  rw [Cx.takeTile_eq (c := c.issued) (by rwa [Cx.issued_fb_wg]) (c.untiled_find? n), Cx.issued_fb_wg, c.untiled_eq]
  have hx (u : State) (x : Fibre) : (u.setFib c.f x).drawn.fibres.find? c.f = some x := Tbl.find?_put_self ..
  refine ⟨by simp, by simp, goesOn_finish_ok (hx ..) { sameFlow_issued c with }, ?_, wgAt_finish_ok (Tbl.find?_put_self ..) fun _ => rfl⟩
  rw [← Cx.issued_fb_tiles c]
  exact fibAt_tiles_finish_ok (hx ..)

/-- R349: MXSWAP. -/
theorem exec_mxswap_eq {o : MxswapOp} {s : State} {c : Cx} (h : Ready s c []) :
    exec (.mxswap o) s = .next (changed c fun x => { x with tiles := x.tiles.exchange o.t.toNat o.u.toNat }) := by
  rw [exec_mxswap, execMxswap, h.issue_eq]
  simp only [changed, Cx.setF, Tbl.exchange, Tbl.assign]
  cases c.issued.fb.tiles.find? o.t.toNat <;> cases c.issued.fb.tiles.find? o.u.toNat <;> rfl

/-- Settles O48: MXINIT by its anchor and the free tiles of the pool, MXSWAP by what an exchange of two names leaves. -/
theorem matrixTiles : Obligations.MatrixTiles := by
  unfold Obligations.MatrixTiles
  refine ⟨fun o s c h => ⟨exec_mxinit_illegal h, fun hlo hhi w hw => ?_⟩, fun o s c h hsorted => ?_⟩
  · obtain ⟨rfl, -⟩ := State.eq_and_find?_of_cx h.cx
    have hw : (c.untiled o.t.toNat).wgs.find? c.fb.wg = some w := hw
    refine ⟨fun hfree => ⟨_, exec_mxinit_eq h hlo hhi hw, ?_⟩, fun hfree hret => ?_⟩
    · have hpick := pickTile_mem (c.untiled o.t.toNat).free hfree
      rw [mxinitRes, if_neg hfree]
      obtain ⟨hmem, hcmds, hgoes, ⟨x, hx, hxt⟩, ⟨g, hg, hgt⟩⟩ := finish_takeTile hw
        (pickTile (c.untiled o.t.toNat).free (freeOf w c.l.kernel.nt)) (regOrImm c o.anchor).toInt rfl
      refine ⟨hmem, hcmds, _, hpick, hgoes, ⟨x, hx, ?_, fun n _ hn => ?_⟩, g, hg, ?_⟩
      · rw [hxt, Tbl.find?_put_self]
      · rw [hxt, Tbl.find?_put_of_ne _ _ hn]
      · simp [hgt, Tile.fresh]
    · rw [exec_mxinit_eq h hlo hhi hw, mxinitRes, if_pos hfree, hret, if_neg (by decide), Cx.finish_issued_trap, regInfo_tile]
      rfl
  · obtain ⟨rfl, -⟩ := State.eq_and_find?_of_cx h.cx
    have hx : (c.issued.setF fun x => { x with tiles := x.tiles.exchange o.t.toNat o.u.toNat }).fibres.find? c.f =
      some { c.issued.fb with tiles := c.issued.fb.tiles.exchange o.t.toNat o.u.toNat } := Tbl.find?_put_self ..
    obtain ⟨y, hy, hyt⟩ := fibAt_tiles_finish_ok hx
    refine ⟨_, exec_mxswap_eq h, goesOn_finish_ok hx { sameFlow_issued c with }, by simp [changed, Cx.setF], by simp [changed, Cx.setF],
      y, hy, ?_⟩
    simp only [hyt, Cx.issued_fb_tiles, Tbl.find?_exchange _ _ _ hsorted]
    grind

end Claims
end Sys2Proof

/-! SUPPORT. What a matrix command reads: a try of the sectors of its regions (06 R166, R167). -/

namespace Sys2Proof
namespace Machine

/-- The bytes read with the sectors `l`: those of `l`, and what was read before. -/
theorem Wg.find?_taken (w : Wg) (got : Tbl (List Byte)) (l : List Nat) (k : Nat) :
    Tbl.find? (w.taken got l) k = if k ∈ l then some (w.spad.bytes (32 * k) 32) else got.find? k := by
  induction l generalizing got with
  | nil => rfl
  | cons j l ih =>
    have hcons : w.taken got (j :: l) = w.taken (got.put j (w.spad.bytes (32 * j) 32)) l := rfl
    rw [hcons, ih, Tbl.find?_put]
    grind

/-- A try reads sectors of its regions that it has not read. -/
theorem Wg.mem_of_mem_takes {w : Wg} {got : Tbl (List Byte)} {l : List Nat} {n k : Nat} (h : k ∈ w.takes got l n) :
    k ∈ l ∧ got.find? k = none := by
  have hhere : k ∈ l.filter fun k => !w.landing (32 * k) 32 && (got.find? k).isNone := by
    unfold Wg.takes at h
    split at h
    · exact (List.mem_filter.1 h).1
    · exact h
  simp only [List.mem_filter, Bool.and_eq_true, Option.isNone_iff_eq_none] at hhere
  exact ⟨hhere.1, hhere.2.2⟩

/-- A later try reads all that are left and not ARRIVING. -/
theorem Wg.mem_takes_of_ne_nil {w : Wg} {got : Tbl (List Byte)} {l : List Nat} {n k : Nat} (hgot : got ≠ []) (hk : k ∈ l)
    (hleft : got.find? k = none) (hland : w.arriving (32 * k) 32 = false) : k ∈ w.takes got l n := by
  have hne : ¬ got.isEmpty = true := by simpa using hgot
  rw [Wg.takes, if_neg hne]
  simp [hk, hleft, Wg.landing, hland]

theorem Wg.broken_eq_none {w : Wg} {l : List Nat} (h : ∀ k ∈ l, w.failedAt (32 * k) 32 = none) : w.broken l = none :=
  List.findSome?_eq_none_iff.2 fun k hk => by rw [h k hk]; rfl

/-- A try that meets no FAILED sector reads what it takes, and has all where each sector has been read. -/
theorem Wg.capture_of_unbroken {w : Wg} {got : Tbl (List Byte)} {rs : List (Nat × Nat)} {n : Nat}
    (h : w.broken (w.takes got (sectorsIn rs) n) = none) :
    w.capture got rs n = if (sectorsIn rs).all fun k => (Tbl.find? (w.taken got (w.takes got (sectorsIn rs) n)) k).isSome
      then .all (w.taken got (w.takes got (sectorsIn rs) n)) else .part (w.taken got (w.takes got (sectorsIn rs) n)) := by
  simp only [Wg.capture, h]

/-! SUPPORT. The events of an engine command (13 R329): its context, and its completion. -/

/-- The context of a command holds the command and its workgroup as the state lists them. -/
theorem State.of_engCx_eq_some {s : State} {cmd : Nat} {e : EngCx} (h : s.engCx cmd = some e) :
    e.cmd = cmd ∧ s.cmds.find? cmd = some e.c ∧ s.wgs.find? e.c.wg = some e.w := by
  unfold State.engCx at h
  split at h
  · cases h
  · next hc =>
    split at h
    · cases h
    · next hw =>
      obtain ⟨l, -, rfl⟩ := Option.map_eq_some_iff.1 h
      exact ⟨rfl, hc, hw⟩

theorem State.completeCmd_modWg {s : State} {e : EngCx} (hw : s.wgs.find? e.c.wg = some e.w) (g : Wg → Wg) :
    (s.modWg e.c.wg g).completeCmd e.cmd e.c = Claims.finished s e (g e.w) := by
  rw [State.modWg_of_find? hw]
  rfl

theorem State.tileDone_modWg {s : State} {e : EngCx} (hw : s.wgs.find? e.c.wg = some e.w) (g : Wg → Wg) :
    (s.modWg e.c.wg g).tileDone e.cmd e.c = Claims.tileFinished s e (g e.w) := by
  rw [State.tileDone, State.completeCmd_modWg hw]
  rfl

/-- The end of a command that no counter counts touches no fibre and no workgroup. -/
theorem State.completeCmd_of_uncounted {c : Cmd} (h : c.ctr = none) (s : State) (cmd : Nat) :
    s.completeCmd cmd c = { s with parts := (s.completeCmd cmd c).parts, cmds := s.cmds.del cmd } := by
  simp only [State.completeCmd, h]
  cases c.fib <;> rfl

theorem State.tileDone_of_uncounted {c : Cmd} (h : c.ctr = none) (s : State) (cmd : Nat) :
    s.tileDone cmd c = { s with wgs := (s.tileDone cmd c).wgs, parts := (s.tileDone cmd c).parts, cmds := s.cmds.del cmd } := by
  rw [State.tileDone, State.freeTiles, State.modWg_eq, State.completeCmd_of_uncounted h]

/-! ## Bank loads (R158, R344) -/

section
variable {s : State} {e : EngCx} {x : MxLoad} {got : Tbl (List Byte)} (hbank : s.bankBehind e.cmd e.c.wg x.mac x.bank true = false)
  (hclear : s.behind e.cmd e.c.wg e.c.rngs = false)
include hbank hclear

theorem State.loadEnds_of_part (hran : 8 ≤ since' (s.clk e.w.die) x.since)
    (hcap : e.w.capture x.got (bRegions x.fmt x.boff x.bstr x.bsc) s.free = .part got) :
    s.loadEnds e x = (s.setCmd e.cmd { e.c with body := .mxload { x with got } }).drawn := by
  have hnow : ¬ since' (s.clkOf e.w) x.since < 8 := Nat.not_lt.2 hran
  simp only [State.loadEnds, decide_eq_false hnow, hbank, hclear, Bool.or_self, Bool.false_eq_true, if_false, hcap]

theorem State.loadEnds_of_all (hw : s.wgs.find? e.c.wg = some e.w) (hran : 8 + mxLoadCycles x.fmt ≤ since' (s.clk e.w.die) x.since)
    (hcap : e.w.capture x.got (bRegions x.fmt x.boff x.bstr x.bsc) s.free = .all got) : s.loadEnds e x = Claims.finished s e { e.w with
      banks := e.w.banks.put (2 * x.mac + x.bank) ((e.w.seen got).loadBank x.fmt x.boff x.bstr x.bsc) } := by
  have hnow : ¬ since' (s.clkOf e.w) x.since < 8 := Nat.not_lt.2 (Nat.le_trans (Nat.le_add_right ..) hran)
  have hend : ¬ since' (s.clkOf e.w) x.since < 8 + mxLoadCycles x.fmt := Nat.not_lt.2 hran
  simp only [State.loadEnds, decide_eq_false hnow, hbank, hclear, Bool.or_self, Bool.false_eq_true, if_false, hcap, if_neg hend]
  exact State.completeCmd_modWg hw _

end

theorem State.sliceLoads_of_all {s : State} {e : EngCx} {x : MxRun} {t : Nat} {got : Tbl (List Byte)}
    (hw : s.wgs.find? e.c.wg = some e.w) (hat : x.loadAt = some t) (hn : x.loaded + 1 < x.n)
    (hran : mxLoadCycles x.bfmt ≤ since' (s.clk e.w.die) t)
    (hbank : s.bankBehind e.cmd e.c.wg x.mac (x.bankOf (x.loaded + 1)) true = false)
    (hclear : s.behind e.cmd e.c.wg (reads (x.bRegions (x.loaded + 1))) = false)
    (hcap : e.w.capture x.gotB (x.bRegions (x.loaded + 1)) s.free = .all got) :
    s.sliceLoads e x = (s.setWg e.c.wg { e.w with
        banks := e.w.banks.put (2 * x.mac + x.bankOf (x.loaded + 1))
          ((e.w.seen got).loadBank x.bfmt (sliceAt x.boff x.db (x.loaded + 1)) x.bstr
            (if x.bscaled = true then some (sliceAt x.bsc x.dbs (x.loaded + 1)) else none)) }).setCmd e.cmd
      (e.c.withRun { x with loaded := x.loaded + 1, loadAt := none, gotB := [] }) := by
  have hend : ¬ since' (s.clkOf e.w) t < mxLoadCycles x.bfmt := Nat.not_lt.2 hran
  simp only [State.sliceLoads, hat, decide_eq_false (Nat.not_le.2 hn), hbank, hclear, Bool.or_self, Bool.false_eq_true, if_false, hcap,
    if_neg hend, State.modWg_of_find? hw]

/-! ## Steps (R154, R158, R165) -/

/-- A run as its next step finds it: at the first the B format and scale flag are those of the bank. -/
def MxRun.tagged (x : MxRun) (w : Wg) : MxRun :=
  if x.step = 0 then
    { x with bfmt := (w.bank x.mac (x.bankOf x.step)).fmt, bscaled := (w.bank x.mac (x.bankOf x.step)).scaled }
  else x

theorem MxRun.tagged_def (x : MxRun) (w : Wg) : x.tagged w = if x.step = 0 then
    { x with bfmt := (w.bank x.mac (x.bankOf x.step)).fmt, bscaled := (w.bank x.mac (x.bankOf x.step)).scaled } else x := rfl

theorem MxRun.tagged_eq (x : MxRun) (w : Wg) :
    x.tagged w = { x with bfmt := (x.tagged w).bfmt, bscaled := (x.tagged w).bscaled } := by
  unfold MxRun.tagged; split <;> rfl

/-- The running step of a run whose sectors have all been read, in `m`. -/
def MxRun.running (x : MxRun) (m : Mem) (now : Nat) : MxRun :=
  { x with
    stepAt := some now, loadAt := if x.step + 1 < x.n then some now else none, got := [], gotB := []
    acap := (List.range 16).flatMap fun i => m.bytes (sliceAt x.aoff x.da x.step + i * x.astr) (mxBytes x.fmt (mxK x.bfmt))
    scap := match x.asc with
      | some a => m.bytes (sliceAt a x.das x.step) (mxK x.bfmt / 2)
      | none => [] }

/-- Nothing stands in the way of the next step of a run. -/
structure StepOpen (s : State) (e : EngCx) (x : MxRun) : Prop where
  left  : x.step < x.n
  idle  : x.stepAt = none
  bank  : x.step ≤ x.loaded
  due   : x.step = 0 → 8 ≤ since' (s.clk e.w.die) e.c.since
  alone : s.macroBusy e.cmd e.c.wg x.mac = false
  use   : s.bankBehind e.cmd e.c.wg x.mac (x.bankOf x.step) false = false
  clear : s.behind e.cmd e.c.wg (reads ((x.tagged e.w).aRegions x.step)) = false

@[simp] theorem MxRun.tagged_n (x : MxRun) (w : Wg) : (x.tagged w).n = x.n := by rw [x.tagged_eq]
@[simp] theorem MxRun.tagged_stepAt (x : MxRun) (w : Wg) : (x.tagged w).stepAt = x.stepAt := by rw [x.tagged_eq]
@[simp] theorem MxRun.tagged_loaded (x : MxRun) (w : Wg) : (x.tagged w).loaded = x.loaded := by rw [x.tagged_eq]
@[simp] theorem MxRun.tagged_mac (x : MxRun) (w : Wg) : (x.tagged w).mac = x.mac := by rw [x.tagged_eq]
@[simp] theorem MxRun.tagged_got (x : MxRun) (w : Wg) : (x.tagged w).got = x.got := by rw [x.tagged_eq]
@[simp] theorem MxRun.tagged_step (x : MxRun) (w : Wg) : (x.tagged w).step = x.step := by rw [x.tagged_eq]

/-- What the start of a step comes to by its try to read the A rows and scales. -/
def State.stepTried (s : State) (e : EngCx) (x : MxRun) (r : Capture) : State :=
  match r with
  | .failed c a => s.setCmd e.cmd ((e.c.failing c a).withRun
      { x with n := x.step, loadAt := none, got := [], gotB := [], failed := true, endAt := s.clk e.w.die })
  | .part got => (s.setCmd e.cmd (e.c.withRun { x with got })).drawn
  | .all got => s.setCmd e.cmd (e.c.withRun (x.running (e.w.seen got).spad (s.clk e.w.die)))

theorem State.stepStarts_of_open {s : State} {e : EngCx} {x : MxRun} (h : StepOpen s e x) : s.stepStarts e x =
    s.stepTried e (x.tagged e.w) (e.w.capture x.got ((x.tagged e.w).aRegions x.step) s.free) := by
  obtain ⟨hleft, hidle, hbank, hdue, halone, huse, hclear⟩ := h
  have hready : (decide (x.step = 0) && decide (since' (s.clkOf e.w) e.c.since < 8)) = false := by
    refine Bool.eq_false_iff.2 fun hearly => ?_
    rw [Bool.and_eq_true, decide_eq_true_eq, decide_eq_true_eq] at hearly
    exact absurd (hdue hearly.1) (Nat.not_le.2 hearly.2)
  simp only [State.stepStarts, ← MxRun.tagged_def]
  simp only [MxRun.tagged_n, MxRun.tagged_stepAt, MxRun.tagged_loaded, MxRun.tagged_mac,
    MxRun.tagged_got, decide_eq_false (Nat.not_le.2 hleft), hidle, Option.isSome_none, decide_eq_false (Nat.not_lt.2 hbank), hready,
    halone, huse, hclear, Bool.or_self, Bool.false_eq_true, if_false, State.stepTried, MxRun.running, MxRun.tagged_step]
  cases e.w.capture x.got ((x.tagged e.w).aRegions x.step) s.free <;> rfl

/-- The run after its running step, its products in the partial (R154). -/
def MxRun.stepped (x : MxRun) (w : Wg) (now free : Nat) : MxRun :=
  { x with step := x.step + 1, stepAt := none, endAt := now, acap := [], scap := []
           partl := x.product (w.bank x.mac (x.bankOf x.step)) (w.tile x.tile).anchor free }

theorem State.stepEnds_of_le {s : State} {e : EngCx} {x : MxRun} {t : Nat} (hat : x.stepAt = some t)
    (hran : mxStepCycles x.fmt (mxK x.bfmt) x.acap ≤ since' (s.clk e.w.die) t) :
    s.stepEnds e x = ((s.setCmd e.cmd (e.c.withRun (x.stepped e.w (s.clk e.w.die) s.free))).drawn).bumpWg e.w 0x0B 1 := by
  have hend : ¬ since' (s.clkOf e.w) t < mxStepCycles x.fmt (mxK x.bfmt) x.acap := Nat.not_lt.2 hran
  simp only [State.stepEnds, hat, if_neg hend]
  rfl

/-! ## The result of MXSTAT -/

theorem State.makeReady_of_find? {s : State} {f : Nat} {x : Fibre} {w : Wg} (hx : s.fibres.find? f = some x)
    (hw : s.wgs.find? x.wg = some w) : s.makeReady f = s.setFib f (Claims.readyAgain s w x) := by
  simp only [State.makeReady, hx, hw]
  rfl

/-- A fibre that waits for the command `cmd` receives its result and goes on. -/
theorem State.giveScalar_of_await {s : State} {cmd f n : Nat} {c : Cmd} {x : Fibre} {w : Wg} (v : Word) (hf : c.fib = some f)
    (hback : c.back = none) (hx : s.fibres.find? f = some x) (ha : x.await = .cmd cmd n) (hw : s.wgs.find? x.wg = some w) :
    s.giveScalar cmd c v =
      s.setFib f (Claims.readyAgain s w (({ x with await := .none }.putReg (.s c.dst) (.s v)).advance n)) := by
  have hwg : (({ x with await := .none }.putReg (.s c.dst) (.s v)).advance n).wg = x.wg := by
    rw [Fibre.advance_eq, Fibre.putReg_eq]
  simp only [State.giveScalar, hf, hback, hx, ha, if_true]
  rw [State.makeReady_of_find? (Tbl.find?_put_self ..) (w := w) (by rw [hwg]; exact hw), State.setFib_setFib]
  rfl

/-- A pending result that waits for the command receives it. -/
theorem State.giveScalar_of_back {s : State} {cmd f id : Nat} {c : Cmd} {x : Fibre} (v : Word) (hf : c.fib = some f)
    (hback : c.back = some id) (hx : s.fibres.find? f = some x) : s.giveScalar cmd c v = s.setFib f { x with
      pend := x.pend.map fun p => if p.id = id then { p with dst := [(.s c.dst, .s v)], left := 0, st := .ready } else p } := by
  simp only [State.giveScalar, hf, hback]
  exact State.modFib_of_find? hx _

end Machine

namespace Claims

open Sys2Proof.Machine

theorem exec_bankLoadEnd (s : State) : exec .bankLoadEnd s = execBankLoadEnd s := rfl
theorem exec_matrixStepStart (s : State) : exec .matrixStepStart s = execMatrixStepStart s := rfl
theorem exec_matrixStepEnd (s : State) : exec .matrixStepEnd s = execMatrixStepEnd s := rfl
theorem exec_matrixCommandComplete (s : State) : exec .matrixCommandComplete s = execMatrixCommandComplete s := rfl
theorem exec_drainStart (s : State) : exec .drainStart s = execDrainStart s := rfl
theorem exec_drainComplete (s : State) : exec .drainComplete s = execDrainComplete s := rfl
theorem exec_mxzeroEffect (s : State) : exec .mxzeroEffect s = execMxzeroEffect s := rfl
theorem exec_mxstatResult (s : State) : exec .mxstatResult s = execMxstatResult s := rfl

/-- A capture of PRESENT regions: all that are left after the first try. -/
theorem capture_of_allPresent {w : Wg} {l : List (Nat × Nat)} (got : Tbl (List Byte)) (n : Nat) (h : allPresent w l) :
    ∃ all : Tbl (List Byte), (∀ k x, got.find? k = some x → all.find? k = some x) ∧
      (∀ k x, got.find? k = none → all.find? k = some x → k ∈ sectorsIn l ∧ x = w.spad.bytes (32 * k) 32) ∧
      (w.capture got l n = .part all ∧ got = [] ∨ w.capture got l n = .all all ∧ ∀ k ∈ sectorsIn l, (all.find? k).isSome = true) := by
  have hmem (k : Nat) (hk : k ∈ w.takes got (sectorsIn l) n) := Wg.mem_of_mem_takes hk
  refine ⟨w.taken got (w.takes got (sectorsIn l) n), fun k x hx => ?_, fun k x hnone hx => ?_, ?_⟩
  · rw [Wg.find?_taken, if_neg fun hk => by simp [(hmem k hk).2] at hx, hx]
  · rw [Wg.find?_taken] at hx
    split at hx
    · next hk => exact ⟨(hmem k hk).1, (Option.some.inj hx).symm⟩
    · rw [hnone] at hx; cases hx
  · rw [Wg.capture_of_unbroken (Wg.broken_eq_none fun k hk => (h k (hmem k hk).1).2)]
    split
    · next hall => exact .inr ⟨rfl, by simpa using hall⟩
    · next hsome =>
      refine .inl ⟨rfl, Classical.byContradiction fun hgot => hsome (List.all_eq_true.2 fun k hk => ?_)⟩
      rw [Wg.find?_taken]
      split
      · rfl
      · next hnot =>
        exact Option.isSome_iff_ne_none.2 fun hleft => hnot (Wg.mem_takes_of_ne_nil hgot hk hleft (h k hk).1)

section
variable {s : State} {cmd : Nat} {e : EngCx} (he : s.engCx cmd = some e)
include he

theorem exec_bankLoadEnd_mxload {x : MxLoad} (hcur : s.cur = .event (.bankLoadEnd cmd)) (hbody : e.c.body = .mxload x) :
    exec .bankLoadEnd s = .next (s.loadEnds e x) := by
  simp only [exec_bankLoadEnd, execBankLoadEnd, hcur, he, hbody]

theorem exec_bankLoadEnd_mxrun {x : MxRun} (hcur : s.cur = .event (.bankLoadEnd cmd)) (hbody : e.c.body = .mxrun x) :
    exec .bankLoadEnd s = .next (s.sliceLoads e x) := by
  simp only [exec_bankLoadEnd, execBankLoadEnd, hcur, he, hbody]

theorem exec_matrixStepStart_mxrun {x : MxRun} (hcur : s.cur = .event (.matrixStepStart cmd)) (hbody : e.c.body = .mxrun x) :
    exec .matrixStepStart s = .next (s.stepStarts e x) := by
  simp only [exec_matrixStepStart, execMatrixStepStart, hcur, he, hbody]

theorem exec_matrixStepEnd_mxrun {x : MxRun} (hcur : s.cur = .event (.matrixStepEnd cmd)) (hbody : e.c.body = .mxrun x) :
    exec .matrixStepEnd s = .next (s.stepEnds e x) := by
  simp only [exec_matrixStepEnd, execMatrixStepEnd, hcur, he, hbody]

/-- R156, R162: the last partial of a run joins its tile once the steps are over and the tile is its own. -/
theorem exec_matrixCommandComplete_mxrun {x : MxRun} (hcur : s.cur = .event (.matrixCommandComplete cmd)) (hbody : e.c.body = .mxrun x)
    (hstep : x.n ≤ x.step) (hidle : x.stepAt = none) (hload : x.loadAt = none) (hran : 16 ≤ since' (s.clk e.w.die) x.endAt)
    (hfree : s.tileBehind cmd e.c.wg x.tile (fun b => b.touches && !b.accumulates) = false) : exec .matrixCommandComplete s =
      .next (tileFinished s e { e.w with tiles := e.w.tiles.put x.tile ((e.w.tile x.tile).combine x.partl) }) := by
  obtain ⟨rfl, -, hw⟩ := State.of_engCx_eq_some he
  have hend : ¬ since' (s.clkOf e.w) x.endAt < 16 := Nat.not_lt.2 hran
  simp only [exec_matrixCommandComplete, execMatrixCommandComplete, hcur, he, hbody, decide_eq_false (Nat.not_lt.2 hstep), hidle, hload,
    Option.isSome_none, decide_eq_false hend, hfree, Bool.or_self, Bool.false_eq_true, if_false, State.tileDone_modWg hw]

theorem exec_drainStart_drain {x : MxDrain} (hcur : s.cur = .event (.drainStart cmd)) (hbody : e.c.body = .drain x)
    (hnew : x.since = none) (hfree : s.tileBehind cmd e.c.wg x.tile CmdBody.changes = false) : exec .drainStart s =
      .next (s.setCmd cmd { e.c with
        body := .drain { x with since := some (s.clk e.w.die), rows := (List.range 16).map (x.row (e.w.tile x.tile)) } }) := by
  simp only [exec_drainStart, execDrainStart, hcur, he, hbody, hnew, Option.isSome_none, hfree, Bool.or_self, Bool.false_eq_true, if_false]
  rfl

theorem exec_drainComplete_drain {x : MxDrain} {t : Nat} (hcur : s.cur = .event (.drainComplete cmd)) (hbody : e.c.body = .drain x)
    (hsince : x.since = some t) (hran : 48 ≤ since' (s.clk e.w.die) t) (hclear : clearOf s e e.c.rngs) : exec .drainComplete s =
      .next (tileFinished s e (x.rows.zipIdx.foldl (fun w r => w.engineWrite (x.doff + r.2 * x.dstr) r.1) e.w)) := by
  obtain ⟨rfl, -, hw⟩ := State.of_engCx_eq_some he
  have hend : ¬ since' (s.clkOf e.w) t < 48 := Nat.not_lt.2 hran
  rw [clearOf] at hclear
  simp only [exec_drainComplete, execDrainComplete, hcur, he, hbody, hsince, decide_eq_false hend, hclear, Bool.or_self,
    Bool.false_eq_true, if_false, State.tileDone_modWg hw]

theorem exec_mxzeroEffect_mxzero {t : Nat} (hcur : s.cur = .event (.mxzeroEffect cmd)) (hbody : e.c.body = .mxzero t)
    (hfree : s.tileBehind cmd e.c.wg t CmdBody.touches = false) : exec .mxzeroEffect s =
      .next (tileFinished s e { e.w with tiles := e.w.tiles.put t { e.w.tile t with elems := [] } }) := by
  obtain ⟨rfl, -, hw⟩ := State.of_engCx_eq_some he
  simp only [exec_mxzeroEffect, execMxzeroEffect, hcur, he, hbody, hfree, Bool.false_eq_true, if_false, State.tileDone_modWg hw]

theorem exec_mxstatResult_mxstat {t : Nat} (hcur : s.cur = .event (.mxstatResult cmd)) (hbody : e.c.body = .mxstat t)
    (hfree : s.tileBehind cmd e.c.wg t CmdBody.changes = false) : exec .mxstatResult s =
      .next ((s.giveScalar cmd e.c (tileWord e.w e.l.kernel.nt t)).tileDone cmd e.c) := by
  simp only [exec_mxstatResult, execMxstatResult, hcur, he, hbody, hfree, Bool.false_eq_true, if_false]

end

/-- A command that no counter counts ends, once its result has left its fibre as `y`. -/
theorem tileDone_setFib {c : Cmd} (h : c.ctr = none) (s : State) (cmd f : Nat) (y : Fibre) :
    ((s.setFib f y).tileDone cmd c).mem = s.mem ∧ ((s.setFib f y).tileDone cmd c).cmds = s.cmds.del cmd ∧
      FibAt ((s.setFib f y).tileDone cmd c) f fun x => x = y := by
  rw [State.tileDone_of_uncounted h]
  exact ⟨rfl, rfl, y, Tbl.find?_put_self .., rfl⟩

/-- Settles O56: a capture by the sectors that it takes, each event by what it does where nothing stands in its way. -/
theorem matrixEvents : Obligations.MatrixEvents := by
  unfold Obligations.MatrixEvents
  refine ⟨fun w got l n h => capture_of_allPresent got n h, ?load, ?slice, ?start, ?stepEnd, ?complete, ?drainStart, ?drainEnd, ?zero,
    ?stat⟩
  case load =>
    intro s cmd e x got hcur he hbody hbank hclear
    obtain ⟨rfl, -, hw⟩ := State.of_engCx_eq_some he
    rw [exec_bankLoadEnd_mxload he hcur hbody]
    exact ⟨fun hran hcap => by rw [State.loadEnds_of_part hbank hclear hran hcap],
      fun hran hcap => by rw [State.loadEnds_of_all hbank hclear hw hran hcap]⟩
  case slice =>
    intro s cmd t e x got hcur he hbody hat hn hran hbank hclear hcap
    obtain ⟨rfl, -, hw⟩ := State.of_engCx_eq_some he
    rw [exec_bankLoadEnd_mxrun he hcur hbody, State.sliceLoads_of_all hw hat hn hran hbank hclear hcap]
  case start =>
    intro s cmd e x got hcur he hbody k y m hleft hidle hbank hdue halone huse hclear
    obtain ⟨rfl, -, -⟩ := State.of_engCx_eq_some he
    have hopen : StepOpen s e x := ⟨hleft, hidle, hbank, hdue, halone, huse, hclear⟩
    rw [exec_matrixStepStart_mxrun he hcur hbody, State.stepStarts_of_open hopen]
    have hy : y = x.tagged e.w := rfl
    rw [hy, x.tagged_eq]
    exact ⟨fun hcap => by rw [hcap]; rfl, fun hcap => by rw [hcap]; rfl⟩
  case stepEnd =>
    intro s cmd t e x hcur he hbody hat hran
    obtain ⟨rfl, -, -⟩ := State.of_engCx_eq_some he
    rw [exec_matrixStepEnd_mxrun he hcur hbody, State.stepEnds_of_le hat hran]
    exact ⟨_, rfl, rfl, rfl, rfl, rfl⟩
  case complete => exact fun s cmd e x hcur he hbody => exec_matrixCommandComplete_mxrun he hcur hbody
  case drainStart => exact fun s cmd e x hcur he hbody => exec_drainStart_drain he hcur hbody
  case drainEnd => exact fun s cmd t e x hcur he hbody => exec_drainComplete_drain he hcur hbody
  case zero => exact fun s cmd t e hcur he hbody => exec_mxzeroEffect_mxzero he hcur hbody
  case stat =>
    intro s cmd t f n e fb hcur he hbody hfree hf hfb hctr hwg
    obtain ⟨-, -, hw⟩ := State.of_engCx_eq_some he
    rw [exec_mxstatResult_mxstat he hcur hbody hfree]
    refine ⟨fun hback ha => ⟨_, rfl, ?_⟩, fun id hback => ⟨_, rfl, ?_⟩⟩
    · rw [State.giveScalar_of_await _ hf hback hfb ha (w := e.w) (by rw [hwg hback]; exact hw)]
      exact tileDone_setFib hctr ..
    · rw [State.giveScalar_of_back _ hf hback hfb]
      exact tileDone_setFib hctr ..

end Claims
end Sys2Proof

/-! REFUTATION of O57. The request of a HOME_REQUEST_ARRIVAL is an operand of the event, its mark COUNT with it. Where no page
of the partition's tree gives the request its attributes, that mark stands as it came, and a fill that carries it writes the
access counter of its region (18 R432), which lies in memory. -/

namespace Sys2Proof
namespace Claims

open Sys2Proof.Machine

/-- A read fill of cluster 47 for the line at 0x8000, marked as counted. -/
def countedFill : HomeReq :=
  { agent := .cluster 47, part := 0, kind := .fill false, va := 0, pa := 0x8000, grain := 32, narrow := false, count := true }

/-- The address of the access counter of the fill's region. -/
def fillCounter : Nat := 0x9000

/-- The state in which the fill arrives: partition 0 has no tree, and counts the first GiB of memory in counters from 0x9000. -/
def countedArrival : State :=
  let s := State.reset.mapped
  { s.modPart 0 fun x => { x with xroot := 0, cntwin := 2 ^ 32, cntbase := BitVec.ofNat 64 fillCounter } with
    cur := .event (.homeRequestArrival countedFill none false false) }

theorem ownRequest_countedFill : ownRequest countedFill :=
  ⟨⟨47, by decide, rfl⟩, ⟨false, rfl⟩, Or.inl rfl, rfl, by decide⟩

/-- What the access counter reads after a step. -/
def counterAfter (r : Out) : Option Nat :=
  match r with
  | .next t => some (t.mem.read fillCounter 2)
  | _ => none

theorem counter_before_fill : countedArrival.mem.read fillCounter 2 = 0 := by decide

theorem counter_after_fill : counterAfter (exec .homeRequestArrival countedArrival) = some 1 := by decide

/-- Refutes O57: the arrival of a counted read fill adds 1 to a counter in memory. -/
theorem not_homeEvents : ¬ Obligations.HomeEvents := by
  unfold Obligations.HomeEvents
  intro ⟨hfill, _⟩
  obtain ⟨t, hexec, hmem, -⟩ := hfill countedArrival countedFill 47 rfl ownRequest_countedFill rfl rfl rfl (by decide) (by decide)
    rfl (by decide) (by decide) (by decide)
  have hafter := counter_after_fill
  rw [hexec, counterAfter, hmem, counter_before_fill] at hafter
  exact absurd hafter (by decide)

end Claims
end Sys2Proof

/-! SUPPORT. The lock slots of a fibre (07 R183), and what the shared access that a lock counts as leaves unchanged (07 R182). -/

namespace Sys2Proof

/-- To put at a key what is listed there changes nothing. -/
theorem Tbl.put_of_find? {α : Type} {t : Tbl α} {k : Nat} {v : α} (h : t.find? k = some v) : t.put k v = t := by
  induction t with
  | nil => cases h
  | cons p t ih =>
    obtain ⟨j, w⟩ := p
    simp only [Tbl.find?, Tbl.put] at h ⊢
    by_cases hj : j = k
    · rw [if_pos hj] at h ⊢
      cases h
      rw [hj]
    · rw [if_neg hj] at h ⊢
      by_cases hk : k < j
      · simp [hk] at h
      · rw [if_neg hk] at h ⊢
        rw [ih h]

/-- A field of a word, as a number. -/
theorem toNat_extractLsb'_eq {w : Nat} (b : BitVec w) (k n : Nat) : (b.extractLsb' k n).toNat = b.toNat / 2 ^ k % 2 ^ n := by
  rw [BitVec.extractLsb'_toNat, Nat.shiftRight_eq_div_pow]

namespace Machine

/-! ## Slots -/

theorem Fibre.slot_congr {x y : Fibre} (h : x.slots = y.slots) (j : Nat) : x.slot j = y.slot j := by rw [Fibre.slot, h, Fibre.slot]

theorem Fibre.slot_modSlot_self {x : Fibre} {i : Nat} (h : i < x.slots.length) (g : LockSlot → LockSlot) :
    (x.modSlot i g).slot i = g (x.slot i) := by
  simp [Fibre.modSlot, Fibre.slot, h]

theorem Fibre.slot_modSlot_of_ne (x : Fibre) {i j : Nat} (h : j ≠ i) (g : LockSlot → LockSlot) :
    (x.modSlot i g).slot j = x.slot j := by
  simp [Fibre.modSlot, Fibre.slot, Ne.symm h]

/-- Where no slot satisfies `p`, none is listed. -/
theorem Fibre.slotsWhere_eq_nil {x : Fibre} {p : LockSlot → Bool} (h : ∀ j < 4, p (x.slot j) = false) : x.slotsWhere p = [] :=
  List.filter_eq_nil_iff.2 fun j hj => by simp [h j (List.mem_range.1 hj)]

/-- The first slot that satisfies `p`. -/
theorem Fibre.head?_slotsWhere {x : Fibre} {p : LockSlot → Bool} {k : Nat} (hk : k < 4) (hp : p (x.slot k) = true)
    (hlow : ∀ j < k, p (x.slot j) = false) : (x.slotsWhere p).head? = some k := by
  rw [Fibre.slotsWhere, List.head?_filter, List.find?_range_eq_some]
  exact ⟨hp, List.mem_range.2 hk, fun j hj => by simp [hlow j hj]⟩

theorem Fibre.mem_slotsWhere {x : Fibre} {p : LockSlot → Bool} {k : Nat} : k ∈ x.slotsWhere p ↔ k < 4 ∧ p (x.slot k) = true := by
  rw [Fibre.slotsWhere, List.mem_filter, List.mem_range]

@[simp] theorem Cx.issued_fb_slots (c : Cx) : c.issued.fb.slots = c.fb.slots := by rw [c.issued_fb_eq]
@[simp] theorem Cx.issued_fb_slot (c : Cx) (j : Nat) : c.issued.fb.slot j = c.fb.slot j := Fibre.slot_congr c.issued_fb_slots j
@[simp] theorem Cx.issued_fb_slotsWhere (c : Cx) (p : LockSlot → Bool) : c.issued.fb.slotsWhere p = c.fb.slotsWhere p := by
  simp only [Fibre.slotsWhere, Cx.issued_fb_slot]
@[simp] theorem Cx.issued_versioned (c : Cx) : c.issued.versioned = c.versioned := rfl

/-- An instruction that goes on changes no slot beyond its own effect. -/
theorem Cx.fibAt_slots_finish_ok {c : Cx} {t : State} {x : Fibre} {P : Fibre → Prop} (hx : t.fibres.find? c.f = some x)
    (hP : ∀ y : Fibre, y.slots = x.slots → P y) : Claims.FibAt (c.finish (.ok t)) c.f P := by
  obtain ⟨sp, q, hfind⟩ := Cx.finish_ok_find? hx
  refine ⟨_, hfind, hP _ ?_⟩
  rw [Fibre.done, Fibre.advance_eq]

@[simp] theorem State.modFib_lines (s : State) (f : Nat) (g : Fibre → Fibre) : (s.modFib f g).lines = s.lines := by rw [State.modFib_eq]
@[simp] theorem State.modFib_lockMsgs (s : State) (f : Nat) (g : Fibre → Fibre) : (s.modFib f g).lockMsgs = s.lockMsgs := by
  rw [State.modFib_eq]
@[simp] theorem Cx.retired_lines (c : Cx) (s : State) : (c.retired s).lines = s.lines := by rw [Cx.retired_eq]
@[simp] theorem Cx.retired_lockMsgs (c : Cx) (s : State) : (c.retired s).lockMsgs = s.lockMsgs := by rw [Cx.retired_eq]
@[simp] theorem Cx.finish_ok_lines (c : Cx) (t : State) : (c.finish (.ok t)).lines = t.lines := by rw [c.finish_ok_eq]
@[simp] theorem Cx.finish_ok_lockMsgs (c : Cx) (t : State) : (c.finish (.ok t)).lockMsgs = t.lockMsgs := by rw [c.finish_ok_eq]
@[simp] theorem State.writeBack_lines (s : State) (f look : Nat) (dst : List (RegRef × WVal)) :
    (s.writeBack f look dst).lines = s.lines := by rw [s.writeBack_eq]
@[simp] theorem State.writeBack_lockMsgs (s : State) (f look : Nat) (dst : List (RegRef × WVal)) :
    (s.writeBack f look dst).lockMsgs = s.lockMsgs := by rw [s.writeBack_eq]

/-! ## Accesses -/

/-- An access that a lock counts as may change memory, the directory, translations and counters: not the fibres, their
workgroups or the lock messages. -/
structure State.SameAgents (t s : State) : Prop where
  fibres   : t.fibres = s.fibres
  wgs      : t.wgs = s.wgs
  lockMsgs : t.lockMsgs = s.lockMsgs

theorem State.SameAgents.refl (s : State) : s.SameAgents s := ⟨rfl, rfl, rfl⟩

theorem State.SameAgents.trans {s t u : State} (h : u.SameAgents t) (g : t.SameAgents s) : u.SameAgents s :=
  ⟨h.fibres.trans g.fibres, h.wgs.trans g.wgs, h.lockMsgs.trans g.lockMsgs⟩

theorem State.sameAgents_unstall (s : State) (p f : Nat) : (s.unstall p f).SameAgents s := by
  unfold State.unstall; split <;> exact ⟨rfl, rfl, rfl⟩

@[simp] theorem State.unstall_mem (s : State) (p f : Nat) : (s.unstall p f).mem = s.mem := by unfold State.unstall; split <;> rfl
@[simp] theorem State.unstall_lines (s : State) (p f : Nat) : (s.unstall p f).lines = s.lines := by unfold State.unstall; split <;> rfl

theorem State.sameAgents_poke (s : State) (a : Nat) (l : List Byte) : (s.poke a l).SameAgents s := ⟨rfl, rfl, rfl⟩

theorem State.sameAgents_setPart (s : State) (p : Nat) (x : Part) : (s.setPart p x).SameAgents s := ⟨rfl, rfl, rfl⟩

theorem State.sameAgents_drawn (s : State) : s.drawn.SameAgents s := ⟨rfl, rfl, rfl⟩

theorem State.sameAgents_notify (s : State) (p ty : Nat) (a b : Word) : (s.notify p ty a b).SameAgents s := by
  simp only [State.notify]
  split
  · exact (State.sameAgents_setPart ..).trans (State.sameAgents_poke ..)
  · exact State.sameAgents_setPart ..

theorem State.sameAgents_countUp (s : State) (p c a : Nat) : (s.countUp p c a).SameAgents s := by
  simp only [State.countUp]
  split
  · exact State.SameAgents.refl s
  · split
    · exact (State.sameAgents_notify ..).trans (State.sameAgents_poke ..)
    · exact State.sameAgents_poke ..

theorem State.sameAgents_countAccess (s : State) (p : Nat) (x : Xl) (b : Bool) : (s.countAccess p x b).SameAgents s := by
  unfold State.countAccess
  split
  · split
    · exact State.SameAgents.refl s
    · split
      · exact State.sameAgents_countUp ..
      · exact State.SameAgents.refl s
  · exact State.SameAgents.refl s

theorem State.sameAgents_touchBy (s : State) (p : Nat) (who by' : Option (Nat × Nat)) (x : Xl) :
    (s.touchBy p who by' x).SameAgents s := by
  simp only [State.touchBy]
  split
  · exact State.SameAgents.refl s
  · split
    · exact State.SameAgents.refl s
    · next e' _ =>
      have hpoke := s.sameAgents_poke x.leaf.addr (toLe e'.toNat 8)
      revert hpoke
      generalize s.poke x.leaf.addr (toLe e'.toNat 8) = u
      intro hpoke
      repeat' split
      all_goals exact ⟨hpoke.fibres, hpoke.wgs, hpoke.lockMsgs⟩

theorem State.sameAgents_cacheLeaf (s : State) (p : Nat) (x : Xl) : (s.cacheLeaf p x).SameAgents s := by
  unfold State.cacheLeaf; split <;> exact ⟨rfl, rfl, rfl⟩

theorem State.sameAgents_accessedShared (s : State) (w : Wg) (x : Xl) (b : Bool) : (s.accessedShared w x b).SameAgents s :=
  have hcount := State.sameAgents_countAccess ((s.touchBy w.part none (some (w.die, w.core)) x).cacheLeaf w.part x) w.part x b
  have hcache := State.sameAgents_cacheLeaf (s.touchBy w.part none (some (w.die, w.core)) x) w.part x
  (State.sameAgents_drawn _).trans ((hcount.trans hcache).trans (State.sameAgents_touchBy ..))

end Machine

namespace Claims

open Sys2Proof.Machine

theorem sameAgents_lockShared (c : Cx) (y : AccX) : (lockShared c y).SameAgents c.issued.s :=
  (State.sameAgents_accessedShared ..).trans (State.sameAgents_unstall ..)

@[simp] theorem lockShared_fibres (c : Cx) (y : AccX) : (lockShared c y).fibres = c.s.fibres.put c.f c.issued.fb :=
  (sameAgents_lockShared c y).fibres
@[simp] theorem lockShared_wgs (c : Cx) (y : AccX) : (lockShared c y).wgs = c.s.wgs := (sameAgents_lockShared c y).wgs
@[simp] theorem lockShared_lockMsgs (c : Cx) (y : AccX) : (lockShared c y).lockMsgs = c.s.lockMsgs :=
  (sameAgents_lockShared c y).lockMsgs

/-- The line of a lock whose translation is `y`. -/
theorem lockLine_of_lockAt {c : Cx} {k : AccKind} {a : Word} {y : AccX} (h : lockAt c k a y) : c.issued.lockLine k a = .ok y := by
  have htr : c.issued.translate k 1 [{ lane := 0, va := a, info := a }] = .ok [y] := h
  rw [Cx.lockLine, htr]

theorem exec_lck (o : LckOp) (s : State) : exec (.lck o) s = execLck o s := rfl
theorem exec_lckcan (o : LckcanOp) (s : State) : exec (.lckcan o) s = execLckcan o s := rfl
theorem exec_ulk (o : SaScope) (s : State) : exec (.ulk o) s = execUlk o s := rfl

end Claims
end Sys2Proof

/-! SUPPORT. LCK (12 R311). -/

namespace Sys2Proof
namespace Claims

open Sys2Proof.Machine

/-- The slot that a LCK writes (07 R183). -/
def askedSlot (c : Cx) (o : LckOp) (y : AccX) : LockSlot :=
  { state := .queued, status := .acquired, weir := (c.fb.sreg o.b.toNat).toNat % 64, skips := 0, line := y.x.line, scope := o.scope
    req := (lockShared c y).nextId, phase := none }

/-- The request that a LCK sends from slot `k`, with its timeout in cycles (12 R311). -/
def lockRequest (c : Cx) (o : LckOp) (y : AccX) (k : Nat) : LockMsg :=
  let t := (c.fb.sreg o.b.toNat).toNat / 256 % 2 ^ 24
  ⟨false, y.x.line, y.x.grain, c.f, k, .acquired, if t = 0 then none else some (t * 256)⟩

/-- The fibre with its slot written. -/
def askedFib (c : Cx) (o : LckOp) (y : AccX) (k : Nat) : Fibre := c.issued.fb.modSlot k fun _ => askedSlot c o y

/-- The state in which a LCK has written its slot and sent its request. -/
def lockAsked (c : Cx) (o : LckOp) (y : AccX) (k : Nat) : State :=
  let s := ((lockShared c y).modFib c.f fun x => x.modSlot k fun _ => askedSlot c o y).named
  { s with lockMsgs := s.lockMsgs ++ [lockRequest c o y k] }

theorem find?_lockAsked (c : Cx) (o : LckOp) (y : AccX) (k : Nat) :
    (lockAsked c o y k).fibres.find? c.f = some (askedFib c o y k) := by
  rw [lockAsked, State.modFib_of_find? (x := c.issued.fb) (by simp)]
  exact Tbl.find?_put_self ..

/-- LCK with its operands in range, where no lock of the fibre for the line is out and slot `k` is the lowest free. -/
theorem exec_lck_eq {o : LckOp} {s : State} {c : Cx} {y : AccX} {k : Nat} (h : Ready s c [sDst o.d, sSrc o.a, sSrc o.b])
    (hver : c.versioned = false) (hmid : (c.fb.sreg o.b.toNat).toNat / 64 % 4 = 0) (hhigh : (c.fb.sreg o.b.toNat).toNat / 2 ^ 32 = 0)
    (hnw : (c.fb.sreg o.b.toNat).toNat % 64 < c.l.kernel.nw) (hline : lockAt c .lock (c.fb.sreg o.a.toNat) y)
    (hacc : c.issued.s.pageAccrues c.w.part none y.x = [])
    (hnone : ∀ j < 4, (c.fb.slot j).busy = true → (c.fb.slot j).line ≠ y.x.line) (hk : lowestFree c.fb k) :
    exec (.lck o) s = .next (c.finish (.ok ((lockAsked c o y k).writeBack c.f o.look.toNat
      [(.s o.d.toNat, .s (BitVec.ofNat 64 k))]))) := by
  obtain ⟨hk4, hfree, hlow⟩ := hk
  have hweir : ((c.fb.sreg o.b.toNat).extractLsb' 0 6).toNat = (c.fb.sreg o.b.toNat).toNat % 64 := by simp
  have hlimit : ((c.fb.sreg o.b.toNat).extractLsb' 8 24).toNat = (c.fb.sreg o.b.toNat).toNat / 256 % 2 ^ 24 := toNat_extractLsb'_eq ..
  have hreserved : ¬ ((c.fb.sreg o.b.toNat).extractLsb' 6 2 ≠ 0 ∨ (c.fb.sreg o.b.toNat).extractLsb' 32 32 ≠ 0) := by
    refine not_or.2 ⟨fun hne => hne (BitVec.eq_of_toNat_eq ?_), fun hne => hne (BitVec.eq_of_toNat_eq ?_)⟩
    · rw [toNat_extractLsb'_eq]; exact hmid
    · rw [toNat_extractLsb'_eq, hhigh]; rfl
  have hsame : (c.fb.slotsWhere fun x => x.busy && decide (x.line = y.x.line)) = [] :=
    Fibre.slotsWhere_eq_nil fun j hj => by
      cases hb : (c.fb.slot j).busy
      · rfl
      · simp [hnone j hj hb]
  have hslot : (c.fb.slotsWhere fun x => !x.busy).head? = some k :=
    Fibre.head?_slotsWhere hk4 (by simp [hfree]) fun j hj => by simp [hlow j hj]
  rw [exec_lck, execLck, h.issue_eq]
  simp only [Cx.issued_sreg, Cx.issued_versioned, hver, Bool.false_eq_true, if_false, hreserved, hweir, hlimit, Cx.issued_l,
    Nat.not_le.2 hnw, lockLine_of_lockAt hline, Cx.issued_w, hacc, Cx.issued_fb_slotsWhere, hsame, hslot]
  rw [if_neg (by simp), if_neg (by simp)]
  rfl

/-- What a LCK leaves. -/
theorem lockAsked_finish {o : LckOp} {c : Cx} {y : AccX} {k : Nat} (hk : lowestFree c.fb k) (hlen : c.fb.slots.length = 4) {t : State}
    (ht : t = c.finish (.ok ((lockAsked c o y k).writeBack c.f o.look.toNat [(.s o.d.toNat, .s (BitVec.ofNat 64 k))]))) :
    GoesOn c t o.look.toNat [(.s o.d.toNat, .s (BitVec.ofNat 64 k))] ∧
      FibAt t c.f (fun x => x.slot k = askedSlot c o y ∧ ∀ j < 4, j ≠ k → x.slot j = c.fb.slot j) ∧
      t.lockMsgs = c.s.lockMsgs ++ [lockRequest c o y k] ∧ t.mem = (lockShared c y).mem ∧ t.lines = (lockShared c y).lines := by
  subst ht
  have hx := find?_lockAsked c o y k
  refine ⟨goesOn_finish_writeBack hx { sameFlow_issued c with } _ _, Cx.fibAt_slots_finish_ok (State.writeBack_find? hx ..)
    fun z hz => ?_, by simp [lockAsked], by simp [lockAsked], by simp [lockAsked]⟩
  have hslots : ∀ j, z.slot j = (askedFib c o y k).slot j := Fibre.slot_congr (by rw [hz, Fibre.received_eq])
  refine ⟨?_, fun j _ hj => ?_⟩
  · rw [hslots, askedFib, Fibre.slot_modSlot_self (by rw [Cx.issued_fb_slots, hlen]; exact hk.1)]
  · rw [hslots, askedFib, Fibre.slot_modSlot_of_ne _ hj, Cx.issued_fb_slot]

end Claims
end Sys2Proof

/-! SUPPORT. LCKCAN (07 R192, 12 R311). -/

namespace Sys2Proof
namespace Machine

/-- A fold over candidates ends in `k` where `k` is among them, takes over from every candidate before it, and stays. -/
theorem foldl_eq_some_of_mem {f : Option Nat → Nat → Option Nat} {l : List Nat} {k : Nat} {P : Option Nat → Prop} {b : Option Nat}
    (hk : k ∈ l) (hb : P b) (hstep : ∀ b i, P b → i ∈ l → i ≠ k → P (f b i)) (htake : ∀ b, P b → f b k = some k)
    (hkeep : ∀ i ∈ l, f (some k) i = some k) : l.foldl f b = some k := by
  have hstay : ∀ m : List Nat, (∀ i ∈ m, f (some k) i = some k) → m.foldl f (some k) = some k := by
    intro m
    induction m with
    | nil => exact fun _ => rfl
    | cons i m ih =>
      intro h
      rw [List.foldl_cons, h i List.mem_cons_self]
      exact ih fun j hj => h j (List.mem_cons_of_mem _ hj)
  induction l generalizing b with
  | nil => cases hk
  | cons i l ih =>
    rw [List.foldl_cons]
    by_cases hi : i = k
    · rw [hi, htake b hb]
      exact hstay l fun j hj => hkeep j (List.mem_cons_of_mem _ hj)
    · exact ih ((List.mem_cons.1 hk).resolve_left (Ne.symm hi)) (hstep b i hb List.mem_cons_self hi)
        (fun b j hb hj => hstep b j hb (List.mem_cons_of_mem _ hj)) fun j hj => hkeep j (List.mem_cons_of_mem _ hj)

/-- The fibre's latest request for a line. -/
theorem Fibre.latestFor_eq_some {x : Fibre} {line k : Nat} (hk : k < 4) (hstate : (x.slot k).state ≠ .empty) (hline : (x.slot k).line = line)
    (hlast : ∀ j < 4, j ≠ k → (x.slot j).state ≠ .empty → (x.slot j).line = line → (x.slot j).req < (x.slot k).req) :
    x.latestFor line = some k := by
  have hmem : ∀ i, i ∈ (x.slotsWhere fun y => y.state != .empty && decide (y.line = line)) ↔
      i < 4 ∧ (x.slot i).state ≠ .empty ∧ (x.slot i).line = line := fun i => by simp [Fibre.mem_slotsWhere]
  have hbelow : ∀ i ∈ (x.slotsWhere fun y => y.state != .empty && decide (y.line = line)), i ≠ k → (x.slot i).req < (x.slot k).req := by
    intro i hi hne
    obtain ⟨hi4, his, hil⟩ := (hmem i).1 hi
    exact hlast i hi4 hne his hil
  refine foldl_eq_some_of_mem (P := fun b => ∀ j ∈ b, (x.slot j).req < (x.slot k).req) ((hmem k).2 ⟨hk, hstate, hline⟩) nofun ?_ ?_ ?_
  · intro b i hb hi hne
    cases b with
    | none => simpa using hbelow i hi hne
    | some j =>
      dsimp only
      split
      · simpa using hbelow i hi hne
      · exact hb
  · intro b hb
    cases b with
    | none => rfl
    | some j => exact if_pos (hb j rfl)
  · intro i hi
    refine if_neg ?_
    by_cases hne : i = k
    · rw [hne]; exact Nat.lt_irrefl _
    · exact Nat.lt_asymm (hbelow i hi hne)

/-- A DONE slot whose request LCKCAN can answer ended in TIMEOUT or DEADLOCK. -/
theorem LockSlot.closed_eq_false_iff (x : LockSlot) :
    x.closed = false ↔ (x.state = .done → x.status = .timeout ∨ x.status = .deadlock) := by
  unfold LockSlot.closed
  cases x.state <;> cases x.status <;> decide

end Machine

namespace Claims

open Sys2Proof.Machine

/-- The state in which a LCKCAN of slot `k` waits for its home's answer. -/
def cancelAsked (c : Cx) (o : LckcanOp) (k : Nat) : State :=
  (c.issued.s.unstall c.w.part c.f).modFib c.f fun x => { x with st := .interlock, await := .lckcan o.d.toNat o.look.toNat k }

theorem find?_cancelAsked (c : Cx) (o : LckcanOp) (k : Nat) : (cancelAsked c o k).fibres.find? c.f =
    some { c.issued.fb with st := .interlock, await := .lckcan o.d.toNat o.look.toNat k } := by
  rw [cancelAsked, State.modFib_of_find? (x := c.issued.fb) (by simp [(State.sameAgents_unstall ..).fibres])]
  exact Tbl.find?_put_self ..

/-- LCKCAN by its fibre's latest request for the line. -/
theorem exec_lckcan_eq {o : LckcanOp} {s : State} {c : Cx} {y : AccX} {k : Nat} (h : Ready s c [sDst o.d, sSrc o.a])
    (ha : c.fb.await = .none) (hline : lockAt c .unlock (c.fb.sreg o.a.toNat) y) (hk : c.fb.latestFor y.x.line = some k) :
    exec (.lckcan o) s = .next (c.finish
      (if (c.fb.slot k).closed then c.issued.trap .accstate 0 else .stay (cancelAsked c o k))) := by
  have hlatest : c.issued.fb.latestFor y.x.line = some k := by
    rw [← hk]
    simp only [Fibre.latestFor, Cx.issued_fb_slotsWhere, Cx.issued_fb_slot]
  rw [exec_lckcan, execLckcan, h.issue_eq]
  simp only [Cx.issued_fb_await, ha, Cx.issued_sreg, lockLine_of_lockAt hline, hlatest, Cx.issued_fb_slot]
  rfl

/-- What a LCKCAN leaves that its home can answer. -/
theorem cancelAsked_finish (c : Cx) (o : LckcanOp) (k : Nat) {t : State} (ht : t = c.finish (.stay (cancelAsked c o k))) :
    FibAt t c.f (fun x => x.st = .interlock ∧ x.await = .lckcan o.d.toNat o.look.toNat k ∧ x.pc = c.fb.pc ∧ x.s = c.fb.s ∧
      x.v = c.fb.v) ∧ t.mem = c.s.mem ∧ t.lines = c.s.lines ∧ t.lockMsgs = c.s.lockMsgs := by
  subst ht
  refine ⟨Cx.fibAt_finish_stay (find?_cancelAsked c o k) fun _ _ => ?_, by simp [Cx.finish, cancelAsked],
    by simp [Cx.finish, cancelAsked], by simp [Cx.finish, cancelAsked, (State.sameAgents_unstall ..).lockMsgs]⟩
  rw [c.issued_fb_eq]
  exact ⟨rfl, rfl, rfl, rfl, rfl⟩

end Claims
end Sys2Proof

/-! SUPPORT. The hand-off of a lock (07 R185, R188, R189), and ULK (12 R311). -/

namespace Sys2Proof
namespace Machine

/-! ## SKIPS -/

/-- A fibre whose lock slots differ from those of `x` in their SKIPS at most. -/
structure Fibre.Skipped (y x : Fibre) : Prop where
  rest : y = { x with slots := y.slots }
  slot : ∀ j, y.slot j = { x.slot j with skips := (y.slot j).skips }

theorem Fibre.Skipped.refl (x : Fibre) : x.Skipped x := ⟨rfl, fun _ => rfl⟩

theorem Fibre.Skipped.trans {x y z : Fibre} (h : z.Skipped y) (g : y.Skipped x) : z.Skipped x :=
  ⟨by rw [h.rest, g.rest], fun j => by rw [h.slot, g.slot]⟩

theorem Fibre.skipped_modSlot (x : Fibre) (i : Nat) : (x.modSlot i fun y => { y with skips := y.skips + 1 }).Skipped x := by
  refine ⟨rfl, fun j => ?_⟩
  by_cases hj : j = i
  · subst hj
    by_cases hlen : j < x.slots.length
    · rw [Fibre.slot_modSlot_self hlen]
    · have hout : x.slot j = LockSlot.empty := by simp [Fibre.slot, Nat.not_lt.1 hlen]
      have hmod : (x.modSlot j fun y => { y with skips := y.skips + 1 }).slot j = LockSlot.empty := by
        simp [Fibre.slot, Fibre.modSlot, Nat.not_lt.1 hlen]
      rw [hout, hmod]
  · rw [Fibre.slot_modSlot_of_ne _ hj]

/-- A state that differs from `s` in the SKIPS of its fibres at most. -/
structure State.Skipped (t s : State) : Prop where
  rest : t = { s with fibres := t.fibres }
  fib  : ∀ f x, s.fibres.find? f = some x → ∃ y, t.fibres.find? f = some y ∧ y.Skipped x

theorem State.Skipped.refl (s : State) : s.Skipped s := ⟨rfl, fun _ x h => ⟨x, h, Fibre.Skipped.refl x⟩⟩

theorem State.Skipped.trans {s t u : State} (h : u.Skipped t) (g : t.Skipped s) : u.Skipped s := by
  refine ⟨by rw [h.rest, g.rest], fun f x hx => ?_⟩
  obtain ⟨y, hy, hyx⟩ := g.fib f x hx
  obtain ⟨z, hz, hzy⟩ := h.fib f y hy
  exact ⟨z, hz, hzy.trans hyx⟩

theorem State.skipped_modSlot (s : State) (f i : Nat) :
    (s.modFib f fun x => x.modSlot i fun y => { y with skips := y.skips + 1 }).Skipped s := by
  refine ⟨State.modFib_eq .., fun g x hx => ?_⟩
  by_cases hg : g = f
  · subst hg
    rw [State.modFib_of_find? hx]
    exact ⟨_, Tbl.find?_put_self .., Fibre.skipped_modSlot x i⟩
  · refine ⟨x, ?_, Fibre.Skipped.refl x⟩
    unfold State.modFib
    split
    · exact (Tbl.find?_put_of_ne _ _ hg).trans hx
    · exact hx

/-! ## PassGrant (R189) -/

theorem State.passGrant_nil (s : State) (k : Nat) : s.passGrant (k + 1) [] = (none, [], s) := rfl

/-- The first request takes the grant where its fibre is present. -/
theorem State.passGrant_of_present {s : State} {r : LockReq} (h : s.present r.fib = true) (k : Nat) (q : List LockReq) :
    s.passGrant (k + 1) (r :: q) = (some r, q, s) := by
  simp [State.passGrant, State.presentFor, h]

/-- The choice of the next holder counts SKIPS and changes nothing else. -/
theorem State.skipped_passGrant (s : State) (k : Nat) (q : List LockReq) : (s.passGrant k q).2.2.Skipped s := by
  induction k generalizing s q with
  | zero => exact State.Skipped.refl s
  | succ k ih =>
    cases q with
    | nil => exact State.Skipped.refl s
    | cons h t =>
      rw [State.passGrant]
      split
      · exact State.Skipped.refl s
      · exact (ih ..).trans (State.skipped_modSlot ..)

/-! ## The grant (R186) -/

/-- Whether a fibre is present depends on the workgroups, and on its own workgroup and number. -/
theorem State.present_congr {s t : State} (hw : t.wgs = s.wgs)
    (hf : ∀ g, (t.fibres.find? g).map (fun x => (x.wg, x.num)) = (s.fibres.find? g).map fun x => (x.wg, x.num)) (g : Nat) :
    t.present g = s.present g := by
  have hg := hf g
  unfold State.present
  rw [hw]
  cases hs : s.fibres.find? g with
  | none =>
    rw [hs, Option.map_none, Option.map_eq_none_iff] at hg
    rw [hg]
  | some x =>
    rw [hs, Option.map_some, Option.map_eq_some_iff] at hg
    obtain ⟨y, hy, hxy⟩ := hg
    obtain ⟨hwg, hnum⟩ := Prod.mk.inj hxy
    simp only [hy, hwg, hnum]

theorem State.line_of_lines {s : State} {t : Tbl Line} {a : Nat} {l : Line} (h : s.lines = t.put a l) {g : Nat} : s.line a g = l := by
  simp [State.line, h, Tbl.getD]

theorem State.line_setLine_self (s : State) (a : Nat) (l : Line) (g : Nat) : (s.setLine a l).line a g = l := State.line_of_lines rfl

theorem State.foldl_timed_eq (s : State) (l : List Nat) : l.foldl State.timed s = { s with ports := (l.foldl State.timed s).ports } := by
  induction l generalizing s with
  | nil => rfl
  | cons k l ih => rw [List.foldl_cons, ih]; rfl

theorem State.foldl_send_eq (s : State) (a : Nat) (l : List Nat) : l.foldl (fun s b => s.send (.invalidate a b)) s =
    { s with out := (l.foldl (fun s b => s.send (.invalidate a b)) s).out } := by
  induction l generalizing s with
  | nil => rfl
  | cons k l ih => rw [List.foldl_cons, ih]; rfl

/-- A fan-out changes the line, the ports whose timers it starts, and what is sent. -/
theorem State.fanOut_eq (s : State) (a : Nat) (l : Line) (who : Nat) : s.fanOut a l who =
    { s with lines := s.lines.put a { l with acks := who, granted := some .m, hold := !(s.downPorts who).isEmpty }
             ports := (s.fanOut a l who).ports, out := (s.fanOut a l who).out } := by
  simp only [State.fanOut]
  rw [State.foldl_send_eq, State.foldl_timed_eq]
  rfl

/-- A present fibre has a sharer bit. -/
theorem State.isSome_sharerBit {s : State} {f : Nat} (h : s.present f = true) : (s.sharerBit (.lane f 0)).isSome = true := by
  cases hx : s.fibres.find? f with
  | none => simp only [State.present, hx, Bool.false_eq_true] at h
  | some x =>
    cases hw : s.wgs.find? x.wg with
    | none => simp only [State.present, hx, hw, Bool.false_eq_true] at h
    | some w => simp only [State.sharerBit, hx, hw, Option.map_some, Option.isSome_some]

/-- The line of a granted lock replaced by `l`, with the copies behind Nalron ports `due` invalidated. -/
def State.givenLine (s : State) (a : Nat) (l : Line) (due : Nat) : State := if due = 0 then s.setLine a l else s.fanOut a l due

theorem State.givenLine_eq (s : State) (a : Nat) (l : Line) (due : Nat) : ∃ k ports out,
    s.givenLine a l due = { s with lines := s.lines.put a k, ports, out } ∧ k.holder = l.holder ∧ k.queue = l.queue ∧ k.dir = l.dir := by
  unfold State.givenLine
  split
  · exact ⟨l, s.ports, s.out, rfl, rfl, rfl, rfl⟩
  · rw [State.fanOut_eq]
    exact ⟨_, _, _, rfl, rfl, rfl, rfl⟩

/-- A grant gives the line to its fibre, in M where that is present, with the same queue, and is on its way. -/
theorem State.grantTo_eq_givenLine (s : State) (a f slot : Nat) (st : LockStatus) : ∃ l due,
    s.grantTo a f slot st = { s.givenLine a l due with
      lockMsgs := (s.givenLine a l due).lockMsgs ++ [⟨true, a, (s.line a 32).grain, f, slot, st, none⟩] } ∧
    l.holder = some f ∧ l.queue = (s.line a 32).queue ∧ (s.present f = true → l.dir = .m) :=
  ⟨_, _, rfl, rfl, rfl, fun hp => by simp [hp, State.isSome_sharerBit hp]⟩

/-- What a grant leaves. -/
theorem State.grantTo_eq (s : State) (a f slot : Nat) (st : LockStatus) : ∃ l ports out, s.grantTo a f slot st =
    { s with lines := s.lines.put a l, ports, out
             lockMsgs := s.lockMsgs ++ [⟨true, a, (s.line a 32).grain, f, slot, st, none⟩] } ∧
      l.holder = some f ∧ l.queue = (s.line a 32).queue ∧ (s.present f = true → l.dir = .m) := by
  obtain ⟨l, due, hgrant, hholder, hqueue, hdir⟩ := s.grantTo_eq_givenLine a f slot st
  obtain ⟨k, ports, out, hgiven, hk, hkq, hkd⟩ := s.givenLine_eq a l due
  rw [hgiven] at hgrant
  exact ⟨k, ports, out, hgrant, hk.trans hholder, hkq.trans hqueue, fun hp => hkd.trans (hdir hp)⟩

/-! ## The holder gives up the lock (R185, R187) -/

/-- With no write held nothing is performed. -/
theorem State.performHeld_of_held_nil {s : State} {a : Nat} (h : (s.line a 32).held = []) : s.performHeld a = s := by
  unfold State.performHeld
  split
  · rfl
  · next l hl =>
    have hline : s.line a 32 = l := by rw [State.line, Tbl.getD, hl]; rfl
    rw [hline] at h
    have hsame : ({ l with held := [] } : Line) = l := by rw [← h]
    rw [h, List.foldl_nil, hsame, State.setLine, Tbl.put_of_find? hl]

/-- The state in which the holder of a line is a guest no more, where it was one. -/
def State.unguested (s : State) (a : Nat) : State :=
  match (s.line a 32).holder with
  | some h => { s with guests := s.guests.del h }
  | none => s

theorem State.unguested_eq (s : State) (a : Nat) : s.unguested a = { s with guests := (s.unguested a).guests } := by
  unfold State.unguested; split <;> rfl

/-- The choice of the next holder. -/
def State.nextHolder (s : State) (a : Nat) : Option LockReq × List LockReq × State :=
  (s.unguested a).passGrant (9 * (s.line a 32).queue.length + 1) (s.line a 32).queue

theorem State.skipped_nextHolder (s : State) (a : Nat) : (s.nextHolder a).2.2.Skipped (s.unguested a) := State.skipped_passGrant ..

section
variable {s t : State} {a : Nat} {q : List LockReq} (h : (s.line a 32).held = []) (st : LockStatus)
include h

/-- The lock passes to the request chosen. -/
theorem State.passLock_of_some {r : LockReq} (hn : s.nextHolder a = (some r, q, t)) : s.passLock a st =
    (t.setLine a { s.line a 32 with queue := q, holder := none, first := none }).grantTo a r.fib r.slot st := by
  simp only [State.nextHolder, State.unguested] at hn
  cases hh : (s.line a 32).holder <;> simp only [hh] at hn <;>
    simp only [State.passLock, State.performHeld_of_held_nil h, hh, hn]

/-- Where none is chosen the line is FREE. -/
theorem State.passLock_of_none (hn : s.nextHolder a = (none, q, t)) : s.passLock a st = t.setLine a
    { s.line a 32 with queue := [], holder := none, first := none, abandoned := decide (st = .abandoned) } := by
  simp only [State.nextHolder, State.unguested] at hn
  cases hh : (s.line a 32).holder <;> simp only [hh] at hn <;>
    simp only [State.passLock, State.performHeld_of_held_nil h, hh, hn]

/-- The end of a holding moves no byte, and of the fibres at most their SKIPS; where nothing waits none of these. -/
theorem State.passLock_frame : (s.passLock a st).mem = s.mem ∧ ∀ f x, s.fibres.find? f = some x →
    ∃ y, (s.passLock a st).fibres.find? f = some y ∧ y.Skipped x ∧ ((s.line a 32).queue = [] → y = x) := by
  rcases hn : s.nextHolder a with ⟨p, q, t⟩
  have hskip : t.Skipped (s.unguested a) := by simpa only [hn] using s.skipped_nextHolder a
  have hpass : (s.passLock a st).mem = t.mem ∧ (s.passLock a st).fibres = t.fibres := by
    cases p with
    | none => rw [State.passLock_of_none h st hn]; exact ⟨rfl, rfl⟩
    | some r =>
      obtain ⟨l, ports, out, hgrant, -⟩ :=
        (t.setLine a { s.line a 32 with queue := q, holder := none, first := none }).grantTo_eq a r.fib r.slot st
      rw [State.passLock_of_some h st hn, hgrant]
      exact ⟨rfl, rfl⟩
  rw [hpass.1, hpass.2]
  refine ⟨by rw [hskip.rest, State.unguested_eq], fun f x hx => ?_⟩
  obtain ⟨y, hy, hyx⟩ := hskip.fib f x (by rw [State.unguested_eq]; exact hx)
  refine ⟨y, hy, hyx, fun hq => ?_⟩
  rw [State.nextHolder, hq, State.passGrant_nil] at hn
  cases hn
  rw [State.unguested_eq] at hy
  exact Option.some.inj (hy.symm.trans hx)

/-- A lock that no request waits for leaves its line FREE. -/
theorem State.passLock_of_queue_nil (hq : (s.line a 32).queue = []) : (s.passLock a st).lockMsgs = s.lockMsgs ∧
    (s.passLock a st).line a 32 = { s.line a 32 with queue := [], holder := none, first := none, abandoned := decide (st = .abandoned) } := by
  have hn : s.nextHolder a = (none, [], s.unguested a) := by rw [State.nextHolder, hq, State.passGrant_nil]
  rw [State.passLock_of_none h st hn, State.unguested_eq]
  exact ⟨rfl, State.line_setLine_self ..⟩

/-- A lock whose first request is of a present fibre goes to that. -/
theorem State.passLock_of_present {r : LockReq} (hr : (s.line a 32).queue.head? = some r) (hp : s.present r.fib = true) :
    ((s.passLock a st).line a 32).holder = some r.fib ∧ ((s.passLock a st).line a 32).queue = (s.line a 32).queue.tail ∧
      ((s.passLock a st).line a 32).dir = .m ∧
      (s.passLock a st).lockMsgs = s.lockMsgs ++ [⟨true, a, (s.line a 32).grain, r.fib, r.slot, st, none⟩] := by
  have hpu : (s.unguested a).present r.fib = true := by rw [State.unguested_eq]; exact hp
  have hn : s.nextHolder a = (some r, (s.line a 32).queue.tail, s.unguested a) := by
    obtain ⟨l, hl⟩ := List.head?_eq_some_iff.1 hr
    rw [State.nextHolder, hl, State.passGrant_of_present hpu, List.tail_cons]
  obtain ⟨l, ports, out, hgrant, hholder, hqueue, hdir⟩ := ((s.unguested a).setLine a
    { s.line a 32 with queue := (s.line a 32).queue.tail, holder := none, first := none }).grantTo_eq a r.fib r.slot st
  rw [State.line_setLine_self] at hgrant hqueue
  rw [← State.passLock_of_some h st hn] at hgrant
  have hafter : (s.passLock a st).line a 32 = l := State.line_of_lines (by rw [hgrant])
  rw [hafter]
  exact ⟨hholder, hqueue, hdir hpu, by rw [hgrant, State.unguested_eq]; rfl⟩

end

end Machine

namespace Claims

open Sys2Proof.Machine

/-- The state in which an ULK has released at its lock and made its slot DONE; `rels` are the releases then. -/
def lockDone (c : Cx) (y : AccX) (k : Nat) (rels : List Rel) : State :=
  State.modFib { lockShared c y with rels } c.f fun x => x.modSlot k fun z => { z with state := .done }

theorem lockDone_eq (c : Cx) (y : AccX) (k : Nat) (rels : List Rel) : lockDone c y k rels =
    { lockShared c y with rels }.setFib c.f (c.issued.fb.modSlot k fun z => { z with state := .done }) :=
  State.modFib_of_find? (s := { lockShared c y with rels }) (by simp) _

/-- The issue itself puts no write out. -/
theorem issued_releaseWaits {s : State} {c : Cx} (hcx : s.cx = some c) : c.issued.releaseWaits = s.writesOut c.f := by
  obtain ⟨rfl, hfb⟩ := State.eq_and_find?_of_cx hcx
  rw [Cx.releaseWaits, State.writesOut, State.writesOut, Cx.issued_s, Cx.issued_f,
    State.outNames_setFib hfb (by rw [c.issued_fb_eq])]

theorem ulkSelects_iff (x : LockSlot) (line : Nat) :
    ((x.state == .granted || x.state == .held) && decide (x.line = line)) = true ↔ holdsLine x line := by
  simp [holdsLine]

/-- ULK finds the first slot that holds the line. -/
theorem ulk_slot {x : Fibre} {line k : Nat} (hk : k < 4) (hheld : holdsLine (x.slot k) line) (hlow : ∀ j < k, ¬ holdsLine (x.slot j) line) :
    (x.slotsWhere fun z => (z.state == .granted || z.state == .held) && decide (z.line = line)).head? = some k :=
  Fibre.head?_slotsWhere hk ((ulkSelects_iff ..).2 hheld) fun j hj => Bool.eq_false_iff.2 (mt (ulkSelects_iff ..).1 (hlow j hj))

section
variable {o : SaScope} {s : State} {c : Cx} {y : AccX} (h : Ready s c [sSrc o.a]) (hline : lockAt c .unlock (c.fb.sreg o.a.toNat) y)
include h hline

/-- R311: ULK of a lock that the fibre does not hold. -/
theorem exec_ulk_of_none (hnone : ∀ j < 4, ¬ holdsLine (c.fb.slot j) y.x.line) : exec (.ulk o) s = .next (trapped c .accstate 0 0) := by
  have hslots : (c.fb.slotsWhere fun x => (x.state == .granted || x.state == .held) && decide (x.line = y.x.line)) = [] :=
    Fibre.slotsWhere_eq_nil fun j hj => Bool.eq_false_iff.2 (mt (ulkSelects_iff ..).1 (hnone j hj))
  rw [exec_ulk]
  refine h.issue_trap ?_
  simp only [Cx.issued_sreg, lockLine_of_lockAt hline, Cx.issued_fb_slotsWhere, hslots, List.head?_nil]

variable {k : Nat} (hk : k < 4) (hheld : holdsLine (c.fb.slot k) y.x.line) (hlow : ∀ j < k, ¬ holdsLine (c.fb.slot j) y.x.line)
include hk hheld hlow

/-- R311: ULK at another scope than that of its LCK. -/
theorem exec_ulk_of_scope_ne (hscope : (c.fb.slot k).scope ≠ o.scope) : exec (.ulk o) s = .next (trapped c .accstate 0 0) := by
  rw [exec_ulk]
  refine h.issue_trap ?_
  simp only [Cx.issued_sreg, lockLine_of_lockAt hline, Cx.issued_fb_slotsWhere, ulk_slot hk hheld hlow, Cx.issued_fb_slot]
  exact if_pos hscope

/-- ULK of a lock that the fibre holds, with none of its writes out. -/
theorem exec_ulk_eq (hscope : (c.fb.slot k).scope = o.scope) (hout : s.writesOut c.f = false) : ∃ rels,
    exec (.ulk o) s = .next (c.finish (.ok ((lockDone c y k rels).passLock y.x.line .acquired))) := by
  rw [exec_ulk, execUlk, h.issue_eq]
  simp only [Cx.issued_sreg, lockLine_of_lockAt hline, Cx.issued_fb_slotsWhere, ulk_slot hk hheld hlow, Cx.issued_fb_slot,
    hscope, ne_eq, not_true_eq_false, if_false, issued_releaseWaits h.cx, hout, Bool.false_eq_true]
  have hdone (u : State) (hu : u = { lockShared c y with rels := u.rels }) :
      u.modFib c.f (fun x => x.modSlot k fun z => { z with state := .done }) = lockDone c y k u.rels :=
    congrArg (State.modFib · c.f fun x => x.modSlot k fun z => { z with state := .done }) hu
  cases c.issued.relOf o.scope (.lock y.x.line) with
  | none =>
    refine ⟨(lockShared c y).rels, ?_⟩
    rw [← hdone _ rfl]
    rfl
  | some r =>
    refine ⟨((lockShared c y).released r).rels, ?_⟩
    rw [← hdone _ (State.released_eq _ r)]
    rfl

end

/-- The lock slots are no part of what GoesOn says. -/
theorem SameFlow.withSlots {x y : Fibre} (h : SameFlow x y) (l : List LockSlot) : SameFlow { x with slots := l } y := { h with }

theorem SameFlow.modSlot {x y : Fibre} (h : SameFlow x y) (i : Nat) (g : LockSlot → LockSlot) : SameFlow (x.modSlot i g) y :=
  h.withSlots _

/-- What an ULK leaves of its lock, where no write is held at the line. -/
theorem lockDone_finish {c : Cx} {y : AccX} {k : Nat} (rels : List Rel) (hk : k < 4) (hlen : c.fb.slots.length = 4)
    (hheld : ((lockShared c y).line y.x.line 32).held = []) {t : State}
    (ht : t = c.finish (.ok ((lockDone c y k rels).passLock y.x.line .acquired))) :
    GoesOn c t 0 [] ∧ t.mem = (lockShared c y).mem ∧ FibAt t c.f (fun x => (x.slot k).state = .done ∧ (x.slot k).line = (c.fb.slot k).line ∧
      (((lockShared c y).line y.x.line 32).queue = [] → ∀ j < 4, j ≠ k → x.slot j = c.fb.slot j)) := by
  subst ht
  rw [lockDone_eq]
  obtain ⟨hmem, hfib⟩ := State.passLock_frame (s := { lockShared c y with rels }.setFib c.f
    (c.issued.fb.modSlot k fun z => { z with state := .done })) hheld .acquired
  obtain ⟨x, hx, hskip, hsame⟩ := hfib c.f _ (Tbl.find?_put_self ..)
  have hself : (c.issued.fb.modSlot k fun z => { z with state := .done }).slot k = { c.fb.slot k with state := .done } := by
    rw [Fibre.slot_modSlot_self (by rw [Cx.issued_fb_slots, hlen]; exact hk), Cx.issued_fb_slot]
  refine ⟨goesOn_finish_ok hx ?_, by rw [Cx.finish_ok_mem, hmem]; rfl, Cx.fibAt_slots_finish_ok hx fun z hz => ?_⟩
  · rw [hskip.rest]
    exact ((sameFlow_issued c).modSlot ..).withSlots _
  · rw [Fibre.slot_congr hz, hskip.slot, hself]
    refine ⟨rfl, rfl, fun hq j _ hj => ?_⟩
    rw [Fibre.slot_congr hz, hsame hq, Fibre.slot_modSlot_of_ne _ hj, Cx.issued_fb_slot]

/-- A slot that is DONE makes no fibre absent. -/
theorem present_lockDone {c : Cx} (hfb : c.s.fibres.find? c.f = some c.fb) (y : AccX) (k : Nat) (rels : List Rel) (g : Nat) :
    (lockDone c y k rels).present g = c.s.present g := by
  refine State.present_congr (by rw [lockDone_eq]; simp) (fun f => ?_) g
  rw [lockDone_eq]
  by_cases hf : f = c.f
  · rw [hf, hfb, c.issued_fb_eq]
    simp [Fibre.modSlot]
  · simp [Tbl.find?_put_of_ne _ _ hf]

/-- Settles O27: LCK by the slot and the request that it writes, LCKCAN by the fibre's latest request, ULK by the hand-off of its lock. -/
theorem locks : Obligations.Locks := by
  unfold Obligations.Locks
  refine ⟨?lck, ?lckcan, ?ulk⟩
  case lck =>
    intro o s c y k h hver b hmid hhigh hnw hline hacc hnone hk hlen
    obtain ⟨rfl, -⟩ := State.eq_and_find?_of_cx h.cx
    obtain ⟨hgoes, ⟨x, hx, hslot, hothers⟩, hrest⟩ := lockAsked_finish (o := o) (y := y) hk hlen rfl
    exact ⟨_, exec_lck_eq h hver hmid hhigh hnw hline hacc hnone hk, hgoes, ⟨x, hx, congrArg LockSlot.state hslot,
      congrArg LockSlot.weir hslot, congrArg LockSlot.line hslot, congrArg LockSlot.scope hslot, congrArg LockSlot.skips hslot, hothers⟩,
      hrest⟩
  case lckcan =>
    intro o s c y k h ha hline hk hstate hfor hlast
    obtain ⟨rfl, -⟩ := State.eq_and_find?_of_cx h.cx
    have hexec := exec_lckcan_eq h ha hline (Fibre.latestFor_eq_some hk hstate hfor hlast)
    refine ⟨fun hdone => ?_, fun hopen => ⟨_, hexec, ?_⟩⟩
    · by_cases hc : (c.fb.slot k).closed = true
      · rw [hexec, if_pos hc, Cx.finish_issued_trap]
        exact .inr rfl
      · exact .inl ((LockSlot.closed_eq_false_iff _).1 (Bool.eq_false_iff.2 hc) hdone)
    · rw [if_neg (Bool.eq_false_iff.1 ((LockSlot.closed_eq_false_iff _).2 hopen))]
      exact cancelAsked_finish c o k rfl
  case ulk =>
    intro o s c y k h hline home
    refine ⟨exec_ulk_of_none h hline, fun hk hheld hlow => ⟨exec_ulk_of_scope_ne h hline hk hheld hlow, fun hscope hout hlen hnil => ?_⟩⟩
    obtain ⟨rfl, hfb⟩ := State.eq_and_find?_of_cx h.cx
    obtain ⟨rels, hexec⟩ := exec_ulk_eq h hline hk hheld hlow hscope hout
    obtain ⟨hgoes, hmem, hfib⟩ := lockDone_finish rels hk hlen hnil rfl
    have hhome : (lockDone c y k rels).line y.x.line 32 = home := by rw [lockDone_eq]; rfl
    have hmsgs : (lockDone c y k rels).lockMsgs = c.s.lockMsgs := by rw [lockDone_eq]; simp
    rw [← hhome] at hnil
    refine ⟨_, hexec, hgoes, hmem, hfib, fun hq => ?_, fun r hr hp => ?_⟩
    · obtain ⟨hm, hl⟩ := State.passLock_of_queue_nil hnil .acquired (by rw [hhome]; exact hq)
      simp only [State.line, Cx.finish_ok_lines, Cx.finish_ok_lockMsgs] at hl ⊢
      rw [hl, hm]
      exact ⟨rfl, rfl, rfl, hmsgs⟩
    · obtain ⟨hholder, hqueue, hdir, hm⟩ := State.passLock_of_present hnil .acquired (r := r) (by rw [hhome]; exact hr)
        (by rw [present_lockDone hfb]; exact hp)
      rw [hhome] at hqueue hm
      rw [hmsgs] at hm
      simp only [State.line, Cx.finish_ok_lines, Cx.finish_ok_lockMsgs] at hholder hqueue hdir ⊢
      exact ⟨hholder, hqueue, hdir, hm⟩

end Claims
end Sys2Proof
